-- ==== Sys2Proof/Word.lean ====
section
/-! DEFINITION. The word types of the 6400: plan memory words of 32 bits and their bytes (13_formats). -/
namespace Sys2Proof

/-- A plan memory word (00_scope, Conventions: a word is 32 bits). -/
abbrev Word := BitVec 32

/-- A byte: one field of a command word, one byte of the site image (R160, R180). -/
abbrev Byte := BitVec 8

end Sys2Proof
end

