-- ==== Sys2Proof/Syntax.lean ====
section
/-! DEFINITION. The commands of the 6400: one constructor for each row of opcode_table.json, with the row's operands. -/
namespace Sys2Proof

/-! ### Numbers
Segment, zone, scrubber, slot, pinch group and profile numbers start at 1 (00_scope, Conventions). Each is held as its
index, the number less one; "0 = none" is `none`. -/

/-- Slots 1 to 24; slots 1 to 20 are fleet slots, 21 to 24 passenger slots (R56). -/
abbrev SlotIx := Fin 24
/-- Fleet slots 1 to 20. -/
abbrev FleetIx := Fin 20
/-- Scrubbers 1 to 16. -/
abbrev ScrubIx := Fin 16
/-- Segments 1 to 255 (R2); those above n have no record. -/
abbrev SegIx := Fin 255
/-- Zones 1 to 32 (R8); those above z have no record. -/
abbrev ZoneIx := Fin 32
/-- Pinch groups 1 to 16 (R4). -/
abbrev PinchIx := Fin 16
/-- Floor classes 0 to 7 (R5). -/
abbrev ClassIx := Fin 8
/-- Sensing profiles 1 to 4 (R9). -/
abbrev ProfileIx := Fin 4
/-- Report cells 0 to 63 (R89). -/
abbrev CellIx := Fin 64

/-! ### Plan-bus accesses -/

/-- The initiator tag of an access (00_scope, The cabinet; R21). -/
inductive Tag where
  | dispatch | gateway | operations | three
  deriving DecidableEq, Repr

/-- The two processors that have a command word (R160). -/
inductive Issuer where
  | dispatch | operations
  deriving DecidableEq, Repr

/-- A data word on the plan bus with one parity bit for each byte, bit i for byte i (02, 2.7; log 26). -/
structure BusWord where
  data : Word
  parity : BitVec 4
  deriving DecidableEq, Repr

/-- Direction, burst and data of an access: a burst covers `more` words beyond the first, so 1 to 8 words for a
well-formed access (02, 2.1; R29). -/
inductive Transfer where
  | read (more : Nat)
  | write (first : BusWord) (more : List BusWord)
  deriving DecidableEq, Repr

/-- A plan-bus access as the passage unit takes it (02, 2.1), with its address parity bit (R30). -/
structure Access where
  tag : Tag
  addr : BitVec 18
  addrParity : Bool
  transfer : Transfer
  deriving DecidableEq, Repr

/-- How far the memory port's grant has come when a restart ends it "where it stands" (R172): the requester that
holds the port and the words of its unit of work already written. The notice writer holds it while its grant lasts, and
otherwise does not (log 11). -/
inductive PortCut where
  | free
  | passage (written : Nat)
  | mirror (written : Nat)
  | notice (written : Nat)
  deriving DecidableEq, Repr

/-- What is in flight when a restart comes (R172): the access whose answer has not been given, and the grant. -/
structure InFlight where
  access : Option Access
  port : PortCut
  deriving DecidableEq, Repr

/-- The operand fields of a command word: operand A, operand B and the tag software chooses (R160). -/
structure CmdFields where
  a : Byte
  b : Byte
  tag : Byte
  deriving DecidableEq, Repr

/-- The commands: the rows of opcode_table.json, in its order. -/
inductive Instr where
  /-- POWER (R172): power comes up, with what the restart cuts short. -/
  | power (f : InFlight)
  /-- LINE (R172): the reset line is asserted, with what the restart cuts short. -/
  | line (f : InFlight)
  /-- RESET_RELEASE (R13): the reset line is released. -/
  | resetRelease
  /-- HEADER_READ (R13): the store's bytes from byte 0, of which the loader takes the header. -/
  | headerRead (store : List Byte)
  /-- SITE_LOAD_COMPLETE (R17): the store's bytes after the header, up to the declared length. -/
  | siteLoadComplete (store : List Byte)
  /-- FLUSH_END (R37): no mirror record is dirty. -/
  | flushEnd
  /-- PLAN_BUS_ACCESS (R18): any access, with the memory bytes whose stored parity an outside disturbance has broken
  by then (R32; log 6); as a RELOAD_SITE it names no grant cut short (log 36). -/
  | planBusAccess (a : Access) (upsets : List (BitVec 20))
  /-- REPORT_CELL_WRITE (R89): a gateway write to word 0, 1 or 2 of a cell. -/
  | reportCellWrite (c : CellIx) (w : Fin 3) (v : Word)
  /-- REPORT (R92): a gateway write to word 3 of a cell. -/
  | report (c : CellIx) (v : Word)
  /-- SLOT_DRAFT_WRITE (R58): the drafter's write to word 0 to 10 of a slot. -/
  | slotDraftWrite (k : SlotIx) (w : Fin 11) (v : Word)
  /-- COMMIT (R59): the drafter's write of 1 to a slot's commit word. -/
  | commit (k : SlotIx)
  /-- COMMIT_WAIT (R66): the drafter's write of 2 to a slot's commit word. -/
  | commitWait (k : SlotIx)
  /-- CANCEL (R120): the drafter's write to a slot's cancel word, with the value written. -/
  | cancel (k : SlotIx) (v : Word)
  /-- HANDOVER_READ (R79): a gateway read of a fleet slot's handover word. -/
  | handoverRead (k : FleetIx)
  /-- CONFIRM_OVERDUE (R88): a confirm timer's expiry. -/
  | confirmOverdue (k : FleetIx)
  /-- SHORTEN_OVERDUE (R123): a shorten timer's expiry. -/
  | shortenOverdue (k : FleetIx)
  /-- WAIT_EXPIRED (R72): a wait deadline's expiry. -/
  | waitExpired (k : SlotIx)
  /-- SCRUBBER_LOST (R105): a report timer's expiry. -/
  | scrubberLost (x : ScrubIx)
  /-- DRYING_EXPIRY (R129): the expiry of a segment's drying list entry. -/
  | dryingExpiry (g : SegIx)
  /-- SAMPLE (R138): the operations link's write of a zone's presence figure word. -/
  | sample (z : ZoneIx) (v : Word)
  /-- MOISTURE_FIGURE_WRITE (R137): the operations link's write of a zone's moisture figure word. -/
  | moistureFigureWrite (z : ZoneIx) (v : Word)
  /-- QUIET_TIMER_EXPIRY (R142). -/
  | quietTimerExpiry (z : ZoneIx)
  /-- ZONE_STALE (R143): the sample timer's expiry. -/
  | zoneStale (z : ZoneIx)
  /-- STUCK_TIMER_EXPIRY (R144). -/
  | stuckTimerExpiry (z : ZoneIx)
  /-- HALT_TIMER_EXPIRY (R144). -/
  | haltTimerExpiry (z : ZoneIx)
  /-- UNKNOWN_CODE (R160): a command word write whose code the issuer does not have. -/
  | unknownCode (i : Issuer) (code : Byte) (f : CmdFields)
  /-- ACK_RESTART (R176), by dispatch. -/
  | ackRestart (f : CmdFields)
  /-- WITHDRAW (R108), by dispatch. -/
  | withdraw (f : CmdFields)
  /-- READMIT (R109), by dispatch. -/
  | readmit (f : CmdFields)
  /-- CLEAR_VIOLATION (R110), by dispatch. -/
  | clearViolation (f : CmdFields)
  /-- CLOSE_SEGMENT (R150). -/
  | closeSegment (i : Issuer) (f : CmdFields)
  /-- REOPEN_SEGMENT (R152). -/
  | reopenSegment (i : Issuer) (f : CmdFields)
  /-- CLOSE_ZONE (R153), by the operations link. -/
  | closeZone (f : CmdFields)
  /-- REOPEN_ZONE (R153), by the operations link. -/
  | reopenZone (f : CmdFields)
  /-- RESEED_ZONE (R145). -/
  | reseedZone (i : Issuer) (f : CmdFields)
  /-- RESET_NOTICES (R171), by dispatch. -/
  | resetNotices (f : CmdFields)
  /-- RELOAD_SITE (R160), by dispatch, with the port's grant that the restart cuts short. -/
  | reloadSite (f : CmdFields) (cut : PortCut)
  /-- TUNING_WRITE (R162): the write of tuning word 0 to 7 in the order of R162. -/
  | tuningWrite (i : Fin 8) (v : Word)
  /-- ATTENTION_MASK_WRITE (R165). -/
  | attentionMaskWrite (i : Issuer) (v : Word)
  /-- GATEWAY_ATTENTION_MASK_WRITE (R84), by dispatch. -/
  | gatewayAttentionMaskWrite (v : Word)
  /-- CLEAR_WRITE (R164). -/
  | clearWrite (i : Issuer) (v : Word)
  /-- NOTICE_READ_INDEX_WRITE (R170), by dispatch. -/
  | noticeReadIndexWrite (v : Word)
  /-- NOTICE_ADMISSION (R169). -/
  | noticeAdmission
  /-- NOTICE_PUBLISH (R169). -/
  | noticePublish
  /-- MIRROR_RECORD_WRITE (R35). -/
  | mirrorRecordWrite
  /-- INTERLOCK_CLOCK_TICK (R166). -/
  | interlockClockTick
  deriving DecidableEq, Repr

end Sys2Proof
end

