-- ==== Sys2Proof/Decode.lean ====
section
/-! DEFINITION. The commands that words spell by the table's bits: opcode_table.json gives no row any bits. -/
namespace Sys2Proof

/-- No row of opcode_table.json gives bits, so no word spells a command by them. -/
def decodeTableWord (_nbits _w : Nat) : Option Instr := none

end Sys2Proof
end

