-- ==== Sys2Proof/Config.lean ====
section
/-! DEFINITION. What one built cabinet fixes and the spec leaves open. -/
namespace Sys2Proof

/-- What a byte of plan memory that nothing has written reads as.
DESIGN CHOICE (unsafe, log 3): the spec gives the contents of the external SRAM at power-up no value. -/
def Config.powerOnByte : Byte := 0

/-- Whether the "origins changed" byte of a notice made by CLOSE_ZONE or REOPEN_ZONE shows the origins the
command asks for (true) or those it changed in at least one segment (false).
A free value (log 15): R153 and R179 give bit 7 and the segment count of that notice and state neither reading. -/
opaque Config.zoneNoticeShowsAsked : Bool

end Sys2Proof
end

