-- ==== Sys2Proof/Machine/State.lean ====
section
/-! DEFINITION. The whole state of the part as plain data, and the state right after a restart. -/
namespace Sys2Proof.Machine
open Sys2Proof

/-! ### Outcomes that are no next state -/

/-- The part has no stop of its own: what it refuses (an access, a command, a commit, a report, an image) leaves it
running, with the flag, capture or code the rule gives. So no command faults, and there is no fault to name (safe). -/
inductive Fault where
  deriving DecidableEq, Repr

/-- Reasons to refuse a command. -/
inductive Refusal where
  /-- Raised by `exec` alone, for a row that has no meaning yet (safe: the model stops). -/
  | notModelled (mnemonic : String)
  deriving DecidableEq, Repr

/-! ### The site model (01_the_concourse_model_and_the_site_image) -/

/-- A floor class (R5); the drying time in units of 10 s. -/
structure FloorClass where
  drying : Nat
  wetScrub : Bool
  moistureCheck : Bool
  restartWet : Bool
  deriving DecidableEq, Repr

/-- A sensing profile (R9); quiet time in seconds, stuck timeout in minutes. -/
structure Profile where
  filterShift : Nat
  baselineShift : Nat
  fastShift : Nat
  fastBound : Nat
  presence : Nat
  halt : Nat
  hysteresis : Nat
  debounceIn : Nat
  debounceOut : Nat
  quietTime : Nat
  stuckTimeout : Nat
  dryThreshold : Nat
  notices : Bool
  deriving DecidableEq, Repr

/-- The fixed fields of a segment record (R2); `cls = none` is class code 15, the terminus default class. -/
structure SegFixed where
  zone : Option ZoneIx
  cls : Option ClassIx
  pinch : Option PinchIx
  nbrs : List SegIx
  deriving DecidableEq, Repr

/-- The five timing values as image values (R11): the first three in tenths, the last two in seconds. -/
structure Timings where
  report : Nat
  confirm : Nat
  shorten : Nat
  fleetWait : Nat
  passengerWait : Nat
  deriving DecidableEq, Repr

/-- The polarity of an attention line (R12). -/
inductive Polarity where
  | activeLowOpenDrain | activeHighDriven
  deriving DecidableEq, Repr

/-- The site model (R1). n is the length of `segs`, z the length of `zones`; `zones` names each zone's profile. -/
structure Site where
  defaultClass : ClassIx
  enrolled : BitVec 16
  dspPolarity : Polarity
  gwyPolarity : Polarity
  opsPolarity : Polarity
  timings : Timings
  classes : Vector FloorClass 8
  profiles : Vector Profile 4
  zones : List ProfileIx
  segs : List SegFixed
  deriving DecidableEq, Repr

/-- The reasons of a site fault code (R17). -/
inductive FaultReason where
  | none | signature | version | counts | length | checkValue | defaultClass | timing | classRange | profileRange
  | zoneProfile | segmentZone | segmentClass | segmentPinch | neighbourCount | neighbourRange | neighbourSelf
  | neighbourRepeat | neighbourAsymmetry
  deriving DecidableEq, Repr

/-- The site fault code: a reason and an item number (R17). -/
structure SiteFault where
  reason : FaultReason
  item : Nat
  deriving DecidableEq, Repr

/-- The interlock modes (R173). -/
inductive Mode where
  | loading | noSite | initialising | recovery | service
  deriving DecidableEq, Repr

/-- The restart causes (R172). -/
inductive Cause where
  | power | line | reload
  deriving DecidableEq, Repr

/-- The load in progress (R13): nothing, the header being read, or the rest being read with the header kept. -/
inductive LoadPhase where
  | idle | header | body (header : List Byte)
  deriving DecidableEq, Repr

/-! ### The segment and pinch tables (03_the_segment_table) -/

/-- The wet field while present (R38): drying expiry and extension count. -/
structure Wet where
  expiry : Word
  count : Nat
  deriving DecidableEq, Repr

/-- The closure set over the three origins (R38). -/
structure Closure where
  operations : Bool := false
  dispatch : Bool := false
  drying : Bool := false
  deriving DecidableEq, Repr

/-- The live fields of a segment record (R38). -/
structure Seg where
  holder : Option SlotIx := none
  occupant : Option ScrubIx := none
  wet : Option Wet := none
  carried : Bool := false
  closure : Closure := {}
  claims : List SlotIx := []
  pendingRel : Bool := false
  deriving DecidableEq, Repr

/-- An entry of the pinch table (R47). -/
structure Pinch where
  holder : Option ScrubIx := none
  count : Nat := 0
  deriving DecidableEq, Repr

/-! ### Slots (04_authority_slots_drafting_evaluation_and_grant) -/

/-- The slot states (R56, R57). -/
inductive SlotState where
  | idle | waiting | granted | delivered | active | shortening
  deriving DecidableEq, Repr

/-- The modes of a fleet authority (R56). -/
inductive AuthMode where
  | transit | scrub
  deriving DecidableEq, Repr

/-- The results of R64. -/
inductive Result where
  | none | granted | format | state | notInService | notEnrolled | notPlaced | scrubberBusy | scrubberLost | violation
  | badStart | notAdjacent | repeated | floor | closed | wet | held | claimed | occupied | pinch | zone | completed
  | cancelled | disclaimed | withdrawn | waitExpired | released
  deriving DecidableEq, Repr

/-- Scrub evidence of a route entry (R100). -/
inductive Evidence where
  | none | seenScrubbing | seenDry
  deriving DecidableEq, Repr

/-- A slot's draft as last captured (R58): header fields and route values as written. -/
structure Draft where
  scrubber : Byte := 0
  mode : Byte := 0
  length : Byte := 0
  route : Vector Word 10 := Vector.replicate 10 0
  deriving DecidableEq, Repr

/-- A slot record (R56). A timer or deadline that does not run is `none`. -/
structure Slot where
  state : SlotState := .idle
  draft : Draft := {}
  scrubber : Option ScrubIx := none
  mode : AuthMode := .transit
  route : List SegIx := []
  evidence : List Evidence := []
  endIx : Nat := 0
  progress : Nat := 0
  revision : Byte := 0
  pendingSet : List Nat := []
  scrubHold : Bool := false
  holdingZones : List ZoneIx := []
  overdue : Bool := false
  result : Result := .none
  failIx : Nat := 0
  deadline : Option Word := none
  confirmTimer : Option Word := none
  shortenTimer : Option Word := none
  changed : Bool := false
  deriving DecidableEq, Repr

/-! ### Fleet tracker (06_position_reports_and_the_fleet_tracker) -/

/-- The scrubber states (R91). -/
inductive ScrubState where
  | absent | unheard | heard | lost | withdrawn
  deriving DecidableEq, Repr

/-- The four flags of a report (R90). -/
structure ReportFlags where
  scrubbing : Bool := false
  stopped : Bool := false
  endReached : Bool := false
  machineFault : Bool := false
  deriving DecidableEq, Repr

/-- A scrubber record (R91). -/
structure Scrubber where
  state : ScrubState := .absent
  current : Option SegIx := none
  trailing : Option SegIx := none
  liveSlot : Option FleetIx := none
  mark : Bool := false
  lastTime : Word := 0
  timer : Option Word := none
  flags : ReportFlags := {}
  lastSlot : Byte := 0
  lastRevision : Byte := 0
  parked : Option SegIx := none
  deriving DecidableEq, Repr

/-- The capture of a report cell (R89): the value of words 0, 1 and 2, present while its mark is set. -/
structure CellCapture where
  word0 : Option Word := none
  word1 : Option Word := none
  word2 : Option Word := none
  deriving DecidableEq, Repr

/-! ### Drying list and zone records (08_drying, 09_the_zone_presence_monitor) -/

/-- An entry of the drying list (R126). -/
structure DryEntry where
  seg : SegIx
  expiry : Word
  count : Nat
  cls : ClassIx
  check : Bool
  deriving DecidableEq, Repr

/-- The zone states (R136). -/
inductive ZoneState where
  | unseeded | settling | quiet | entering | present | leaving | stale
  deriving DecidableEq, Repr

/-- The return state of a zone in ENTERING (R136). -/
inductive ReturnState where
  | settling | quiet
  deriving DecidableEq, Repr

/-- A zone record (R136). -/
structure Zone where
  state : ZoneState := .unseeded
  filtered : Nat := 0
  baseline : Nat := 0
  debounce : Nat := 0
  ret : ReturnState := .settling
  quietTimer : Option Word := none
  stuckTimer : Option Word := none
  haltTimer : Option Word := none
  sampleTimer : Option Word := none
  moisture : Nat := 0
  deriving DecidableEq, Repr

/-! ### Bus, port and mirror records (02_passage_through_the_interlock) -/

/-- The three answers to an access (R18); the data words of a read come back with their parity. -/
inductive BusAnswer where
  | done (count : Nat) (data : List BusWord)
  | retry
  | refused
  deriving DecidableEq, Repr

/-- The record of the refused-access capture (R23). -/
structure RefusedAccess where
  addr : BitVec 18
  tag : Tag
  isWrite : Bool
  mode : Mode
  deriving DecidableEq, Repr

/-- The requesters of the memory port (R33). -/
inductive PortUser where
  | passage | mirror | notice
  deriving DecidableEq, Repr

/-- The words of the control area (R19, 13.1). -/
inductive CtlWord where
  | mode | clock | changedSlots | dspCommand | dspResult | opsCommand | opsResult | tuning (i : Fin 8) | dspStatus
  | dspClear | dspMask | gwyMask | opsStatus | opsClear | opsMask | writeIx | readIx | refused | unassigned
  deriving DecidableEq, Repr

/-- The mirror records (R34). -/
inductive MirrorRec where
  | control (c : CtlWord)
  | slotActed (k : SlotIx)
  | slotStatus (k : SlotIx)
  | slotProgress (k : SlotIx)
  | segView (n : Fin 256)
  | scrubView (x : ScrubIx)
  deriving DecidableEq, Repr

/-- Address of a control word (13.1); the unassigned words have none, and stand at the end of the area here. -/
def CtlWord.addr : CtlWord → Nat
  | .mode => 0x00
  | .clock => 0x01
  | .changedSlots => 0x02
  | .dspCommand => 0x04
  | .dspResult => 0x05
  | .opsCommand => 0x06
  | .opsResult => 0x07
  | .tuning i => 0x08 + i.val
  | .dspStatus => 0x10
  | .dspClear => 0x11
  | .dspMask => 0x12
  | .gwyMask => 0x13
  | .opsStatus => 0x14
  | .opsClear => 0x15
  | .opsMask => 0x16
  | .writeIx => 0x18
  | .readIx => 0x19
  | .refused => 0x1A
  | .unassigned => 0x3F

/-- Address of the first word of a mirror record (R34, 13.1, 13.2, 13.4), its place in the scan of R35. The copies of a
slot's commit and cancel words are one record of two words that do not stand together, and no rule gives that record one
address: it is placed at its first word, word 11 (DESIGN CHOICE, log 34). -/
def MirrorRec.addr : MirrorRec → Nat
  | .control c => c.addr
  | .slotActed k => 0x200 + 16 * k.val + 11
  | .slotStatus k => 0x200 + 16 * k.val + 12
  | .slotProgress k => 0x200 + 16 * k.val + 14
  | .segView n => 0x400 + 2 * n.val
  | .scrubView x => 0x600 + 8 * x.val

/-- The control words that are mirror records: the owned words and the copies of the acted words (R34). -/
def mirroredControlWords : List CtlWord :=
  [.dspCommand, .dspResult, .opsCommand, .opsResult, .tuning 0, .tuning 1, .tuning 2, .tuning 3, .tuning 4, .tuning 5,
   .tuning 6, .tuning 7, .dspStatus, .dspClear, .dspMask, .gwyMask, .opsStatus, .opsClear, .opsMask, .writeIx, .readIx,
   .refused]

/-- Every mirror record, in address order (R34). -/
def allRecords : List MirrorRec :=
  mirroredControlWords.map .control
    ++ (List.finRange 24).flatMap (fun k => [.slotActed k, .slotStatus k, .slotProgress k])
    ++ (List.finRange 256).map .segView
    ++ (List.finRange 16).map .scrubView

/-! ### Commands, flags and notices (11_commands_status_and_notices) -/

/-- The dispatch status flags (R163), in the order of their places (13.1). -/
inductive DspFlag where
  | restarted | stopAll | violation | shortenOverdue | scrubberLost | zoneStale | noticeThreshold | noticesPending
  | confirmOverdue | dryingOverdue | noticeLost | commandRefused | accessRefused | busParity | memoryParity
  | reportInvalid
  deriving DecidableEq, Repr

/-- The operations status flags (R163), in the order of their places (13.1). -/
inductive OpsFlag where
  | restarted | passengerActive | passengerExpired | commandRefused | accessRefused
  deriving DecidableEq, Repr

/-- Command outcomes (R160, 13.1). -/
inductive CmdOutcome where
  | none | done | unknownCode | badOperand | wrongMode | notPermitted
  deriving DecidableEq, Repr

/-- A result record (R160). -/
structure CmdResult where
  code : Byte := 0
  tag : Byte := 0
  outcome : CmdOutcome := .none
  deriving DecidableEq, Repr

/-- The notice kinds (R167). -/
inductive NoticeKind where
  | granted | refused | waiting | shortened | confirmed | ended | confirmOverdue | shortenOverdue
  | scrubberHeard | scrubberLost | violation | reportInvalid | withdrawnHeard
  | dry | dryingExtended | dryingOverdue
  | zonePresent | zoneQuiet | zoneReseeded | zoneStale
  | closed | reopened | passengerActive | passengerReleased
  | restart | serviceEntered | commandRefused | noticesReset
  deriving DecidableEq, Repr

/-- A notice (R167): its kind, the clock of the producing event and its payload words. -/
structure Notice where
  kind : NoticeKind
  clock : Word
  payload : List Word
  deriving DecidableEq, Repr

/-- The restart cause codes (R174). -/
def Cause.code : Cause → Nat
  | .power => 1
  | .line => 2
  | .reload => 3

/-- The RESTART notice, at clock 0 (R168, R172). -/
def restartNotice (c : Cause) : Notice :=
  { kind := .restart, clock := 0, payload := [BitVec.ofNat 32 c.code] }

/-- A grant of the memory port to the notice writer while it lasts (R33, R169): the notice it writes, the ring offset of
its first word, and whether the notice is published when it ends (R171). -/
structure NoticeGrant where
  notice : Notice
  start : BitVec 10
  publish : Bool
  deriving DecidableEq, Repr

/-! ### The state -/

/-- The part's whole state. Every default is the value a restart leaves (R172 gathers them). -/
structure State where
  /-- Commands waiting, first in first out (log 1). -/
  pending : List Instr := []
  /-- Plan memory: bytes of words, word a at 4a to 4a + 3 (log 4). -/
  mem : List Host.Cell := []
  /-- Byte addresses whose stored parity bit is wrong, rising (R32). -/
  badParity : List Nat := []
  /-- The answer to the last access (R18; log 28). -/
  answer : Option BusAnswer := none
  /-- The refused-access capture (R23). -/
  capture : Option RefusedAccess := none
  /-- The last requester served (R33). -/
  lastServed : PortUser := .notice
  /-- The notice writer's grant of the memory port while it lasts; without one the port is free (R33, R169; log 9). -/
  noticeGrant : Option NoticeGrant := none
  /-- The dirty marks, as the marked records in address order (R35). -/
  dirty : List MirrorRec := allRecords
  /-- The promotion list (R36). -/
  promo : List MirrorRec := []
  /-- Address of the last record written (R35). -/
  lastWritten : Nat := 0x678
  /-- The interlock mode (R173). -/
  mode : Mode := .loading
  /-- The restart cause (R172). -/
  cause : Cause := .power
  /-- The site fault code (R17). -/
  siteFault : SiteFault := { reason := .none, item := 0 }
  /-- Whether the reset line is held asserted (R13). -/
  lineHeld : Bool := false
  /-- The load in progress (R13). -/
  load : LoadPhase := .header
  /-- Whether ACK_RESTART is remembered (R176). -/
  ackRestart : Bool := false
  /-- The site model (R1). -/
  site : Option Site := none
  /-- The interlock clock (R166). -/
  clock : Word := 0
  /-- The segment table's live fields (R38); records 1 to n are in use. -/
  segs : Vector Seg 255 := Vector.replicate 255 {}
  /-- The pinch table (R47). -/
  pinch : Vector Pinch 16 := Vector.replicate 16 {}
  /-- The slot table (R56). -/
  slots : Vector Slot 24 := Vector.replicate 24 {}
  /-- The waiting queue, front first (R69). -/
  queue : List SlotIx := []
  /-- The core's note that the event has made a freeing change (R39; log 19). -/
  freeing : Bool := false
  /-- The captures of the report cells (R89). -/
  cells : Vector CellCapture 64 := Vector.replicate 64 {}
  /-- The scrubber table (R91). -/
  scrubbers : Vector Scrubber 16 := Vector.replicate 16 {}
  /-- The drying list (R126). -/
  drying : List DryEntry := []
  /-- The zone records (R136); records 1 to z are in use. -/
  zones : Vector Zone 32 := Vector.replicate 32 {}
  /-- The dispatch flags (R163), places of 13.1. -/
  dspFlags : BitVec 16 := 1
  /-- The operations flags (R163), places of 13.1. -/
  opsFlags : BitVec 5 := 1
  /-- The dispatch attention mask (R165). -/
  dspMask : BitVec 16 := 7
  /-- The operations attention mask (R165). -/
  opsMask : BitVec 5 := 1
  /-- The gateway attention mask (R84). -/
  gwyMask : BitVec 20 := 0xFFFFF
  /-- The dispatch result record (R160). -/
  dspResult : CmdResult := {}
  /-- The operations result record (R160). -/
  opsResult : CmdResult := {}
  /-- The tuning words in the order of R162. -/
  tuning : Vector Word 8 := Vector.replicate 8 0
  /-- The notice staging queue, front first, without the held notice (R168). -/
  staging : List Notice := [restartNotice .power]
  /-- The notice the writer has taken and admitted (R168, R169). -/
  held : Option Notice := none
  /-- The notice ring's write index (R169). -/
  writeIx : BitVec 10 := 0
  /-- The notice ring's read index in force (R170). -/
  readIx : BitVec 10 := 0
  deriving DecidableEq, Repr

/-- The machine right after a restart with cause POWER and the reset line released (R172; log 2). -/
def State.reset : State := {}

end Sys2Proof.Machine
end

