-- ==== Sys2Proof/WellFormed.lean ====
section
/-! DEFINITION. Which commands can be presented to the part at all. Indices are bounded by their types. -/
namespace Sys2Proof

/-- Burst lengths are 1 to 8 by the width of the plan bus burst field (R29). -/
def Transfer.wf : Transfer → Bool
  | .read more => decide (more ≤ 7)
  | .write _ more => decide (more.length ≤ 7)

/-- An access is well formed when its burst is. -/
def Access.wf (a : Access) : Bool := a.transfer.wf

/-- The longest unit of work of the memory port is 8 words (02, 2.8). -/
def PortCut.wf : PortCut → Bool
  | .free => true
  | .passage m => decide (m ≤ 8)
  | .mirror m => decide (m ≤ 8)
  | .notice m => decide (m ≤ 8)

/-- A grant to the passage unit is the memory part of the access in flight (R33). -/
def PortCut.ofPassage : PortCut → Bool
  | .passage _ => true
  | .free | .mirror _ | .notice _ => false

/-- What is in flight at a restart hangs together (R172). -/
def InFlight.wf (f : InFlight) : Bool :=
  f.port.wf && (match f.access with
    | none => !f.port.ofPassage
    | some a => a.wf)

/-- The commands an issuer has: the issuer column of R160's table. -/
def Issuer.knows (i : Issuer) (code : Byte) : Bool :=
  match i with
  | .dispatch => decide (1 ≤ code.toNat ∧ code.toNat ≤ 11 ∧ code.toNat ≠ 7 ∧ code.toNat ≠ 8)
  | .operations => decide (5 ≤ code.toNat ∧ code.toNat ≤ 9)

/-- The site store holds up to 8 KiB (01, 1.7). -/
def storeWf (store : List Byte) : Bool := decide (store.length ≤ 8192)

/-- The commands that can be presented. -/
def Instr.wf : Instr → Bool
  | .power f => f.wf
  | .line f => f.wf
  | .headerRead store => storeWf store
  | .siteLoadComplete store => storeWf store
  | .planBusAccess a _ => a.wf
  | .unknownCode i code _ => !i.knows code
  | .reloadSite _ cut => cut.wf && !cut.ofPassage
  | .resetRelease | .flushEnd | .reportCellWrite _ _ _ | .report _ _ | .slotDraftWrite _ _ _ | .commit _
  | .commitWait _ | .cancel _ _ | .handoverRead _ | .confirmOverdue _ | .shortenOverdue _ | .waitExpired _
  | .scrubberLost _ | .dryingExpiry _ | .sample _ _ | .moistureFigureWrite _ _ | .quietTimerExpiry _
  | .zoneStale _ | .stuckTimerExpiry _ | .haltTimerExpiry _ | .ackRestart _ | .withdraw _ | .readmit _
  | .clearViolation _ | .closeSegment _ _ | .reopenSegment _ _ | .closeZone _ | .reopenZone _
  | .reseedZone _ _ | .resetNotices _ | .tuningWrite _ _ | .attentionMaskWrite _ _
  | .gatewayAttentionMaskWrite _ | .clearWrite _ _ | .noticeReadIndexWrite _ | .noticeAdmission
  | .noticePublish | .mirrorRecordWrite | .interlockClockTick => true

end Sys2Proof
end

