-- ==== Sys2Proof/Machine/Operands.lean ====
section
/-! DEFINITION. Fields of words, parity, the area map and word classes, the fields of what software writes, and the
codes of the names software sees (13_formats; 02_passage_through_the_interlock). -/
namespace Sys2Proof.Machine
open Sys2Proof

/-! ### Fields -/

/-- A number in `width` bits of a word, lowest bit at place `pos` (R178: an unsigned value in its bits). -/
def fld (width pos v : Nat) : Word := ((BitVec.ofNat width v).setWidth 32) <<< pos

/-- One place of a word. -/
def bitFld (pos : Nat) (b : Bool) : Word := fld 1 pos (if b then 1 else 0)

/-- Byte i of a word, byte 0 in bits 0 to 7. -/
def byteAt (w : Word) (i : Nat) : Byte := w.extractLsb' (8 * i) 8

/-- Four one-byte fields in one word, the first in bits 0 to 7 (R179). -/
def pack4 (a b c d : Nat) : Word := fld 8 0 a ||| fld 8 8 b ||| fld 8 16 c ||| fld 8 24 d

/-- Two 16-bit fields in one word, the first in bits 0 to 15 (R179). -/
def pack2 (a b : Nat) : Word := fld 16 0 a ||| fld 16 16 b

/-- The number in a field that names one of k things from 1, or 0 for none (00_scope, Conventions). -/
def numOf {k : Nat} : Option (Fin k) → Nat
  | none => 0
  | some i => i.val + 1

/-- The index a field's number names: none for 0 and for a number above k. -/
def ixOf (k n : Nat) : Option (Fin k) :=
  if h : 0 < n ∧ n ≤ k then some ⟨n - 1, by omega⟩ else none

/-- A set kept as a list in rising order of `key`, with no repeats: add x. -/
def insertBy {α : Type} (key : α → Nat) (x : α) : List α → List α
  | [] => [x]
  | y :: ys =>
    if key x < key y then x :: y :: ys
    else if key x = key y then y :: ys
    else y :: insertBy key x ys

/-! ### Parity (02, 2.7): all parity is odd -/

/-- Whether the low n bits of v hold an odd number of ones. -/
def oddOnes : Nat → Nat → Bool
  | 0, _ => false
  | n + 1, v => xor (v % 2 == 1) (oddOnes n (v / 2))

/-- The parity bit that makes the ones of an n-bit value and the bit itself odd in number. -/
def oddParityBit (n v : Nat) : Bool := !oddOnes n v

/-- The four parity bits of a word, bit i for byte i (log 26). -/
def parityOf (w : Word) : BitVec 4 :=
  BitVec.ofBool (oddParityBit 8 (byteAt w 3).toNat) ++ BitVec.ofBool (oddParityBit 8 (byteAt w 2).toNat)
    ++ BitVec.ofBool (oddParityBit 8 (byteAt w 1).toNat) ++ BitVec.ofBool (oddParityBit 8 (byteAt w 0).toNat)

/-- A word with correct parity, as the part returns it and as a sound initiator drives it (R18, R24). -/
def goodWord (w : Word) : BusWord := { data := w, parity := parityOf w }

/-- The data parity check of one word (R31). -/
def wordParityOk (w : BusWord) : Bool := w.parity == parityOf w.data

/-- The address parity check (R30). -/
def addrParityOk (a : Access) : Bool := a.addrParity == oddParityBit 18 a.addr.toNat

/-! ### The area map and the places of words (00_scope, 13_formats) -/

/-- What word an address names. -/
inductive Place where
  | general
  | control (c : CtlWord)
  | cell (c : CellIx) (w : Fin 4)
  | figure (z : ZoneIx) (moisture : Bool)
  | slot (k : SlotIx) (w : Fin 16)
  | segView (n : Fin 256) (w : Fin 2)
  | scrubView (x : ScrubIx) (w : Fin 8)
  | ring (o : Fin 1024)
  deriving DecidableEq, Repr

/-- The control word at an address below 40h (13.1). -/
def controlAt (n : Nat) : CtlWord :=
  match n with
  | 0x00 => .mode
  | 0x01 => .clock
  | 0x02 => .changedSlots
  | 0x04 => .dspCommand
  | 0x05 => .dspResult
  | 0x06 => .opsCommand
  | 0x07 => .opsResult
  | 0x08 => .tuning 0
  | 0x09 => .tuning 1
  | 0x0A => .tuning 2
  | 0x0B => .tuning 3
  | 0x0C => .tuning 4
  | 0x0D => .tuning 5
  | 0x0E => .tuning 6
  | 0x0F => .tuning 7
  | 0x10 => .dspStatus
  | 0x11 => .dspClear
  | 0x12 => .dspMask
  | 0x13 => .gwyMask
  | 0x14 => .opsStatus
  | 0x15 => .opsClear
  | 0x16 => .opsMask
  | 0x18 => .writeIx
  | 0x19 => .readIx
  | 0x1A => .refused
  | _ => .unassigned

/-- The area map (00_scope, Plan memory areas in outline). -/
def placeOf (a : BitVec 18) : Place :=
  let n := a.toNat
  if n < 0x40 then .control (controlAt n)
  else if n < 0x140 then .cell (Fin.ofNat 64 ((n - 0x40) / 4)) (Fin.ofNat 4 n)
  else if n < 0x180 then .figure (Fin.ofNat 32 ((n - 0x140) / 2)) (n % 2 == 1)
  else if n < 0x200 then .general
  else if n < 0x380 then .slot (Fin.ofNat 24 ((n - 0x200) / 16)) (Fin.ofNat 16 n)
  else if n < 0x400 then .general
  else if n < 0x600 then .segView (Fin.ofNat 256 ((n - 0x400) / 2)) (Fin.ofNat 2 n)
  else if n < 0x680 then .scrubView (Fin.ofNat 16 ((n - 0x600) / 8)) (Fin.ofNat 8 n)
  else if n < 0x800 then .general
  else if n < 0xC00 then .ring (Fin.ofNat 1024 (n - 0x800))
  else .general

/-- Whether an address lies in the general area. -/
def isGeneral (a : BitVec 18) : Bool := decide (placeOf a = .general)

/-- The addresses of the words the part's own constructors of rows name (13_formats). -/
def controlAddr (c : CtlWord) : BitVec 18 := BitVec.ofNat 18 c.addr
def cellAddr (c : CellIx) (w : Nat) : BitVec 18 := BitVec.ofNat 18 (0x40 + 4 * c.val + w)
def figureAddr (z : ZoneIx) (moisture : Bool) : BitVec 18 :=
  BitVec.ofNat 18 (0x140 + 2 * z.val + (if moisture then 1 else 0))
def slotAddr (k : SlotIx) (w : Nat) : BitVec 18 := BitVec.ofNat 18 (0x200 + 16 * k.val + w)

/-- A slot word's mirror record (R34): the commit and cancel copies, the status word, the progress word. -/
def slotRecord (k : SlotIx) (w : Fin 16) : Option MirrorRec :=
  if w = 11 ∨ w = 15 then some (.slotActed k)
  else if w = 12 then some (.slotStatus k)
  else if w = 14 then some (.slotProgress k)
  else none

/-- The mirror record a word belongs to (R34). -/
def recordAt (p : Place) : Option MirrorRec :=
  match p with
  | .control c => if c ∈ mirroredControlWords then some (.control c) else none
  | .slot k w => slotRecord k w
  | .segView n _ => some (.segView n)
  | .scrubView x _ => some (.scrubView x)
  | .general | .cell _ _ | .figure _ _ | .ring _ => none

/-- The word classes (R19). The unassigned control words read as passing words and are written by nobody (R21). -/
inductive WordClass where
  | passing | watched | acted | mirror | substituted
  deriving DecidableEq, Repr

/-- The class of a control word (R19). -/
def controlClass : CtlWord → WordClass
  | .mode | .clock | .changedSlots => .substituted
  | .dspCommand | .opsCommand | .tuning _ | .dspClear | .dspMask | .gwyMask | .opsClear | .opsMask | .readIx => .acted
  | .dspResult | .opsResult | .dspStatus | .opsStatus | .writeIx | .refused => .mirror
  | .unassigned => .passing

/-- The class of a slot word (04, table of the slot's words). -/
def slotWordClass (w : Fin 16) : WordClass :=
  if w.val ≤ 10 then .watched
  else if w.val = 11 ∨ w.val = 15 then .acted
  else if w.val = 13 then .substituted
  else .mirror

/-- The class of a word (R19). -/
def classOf (p : Place) : WordClass :=
  match p with
  | .general => .passing
  | .control c => controlClass c
  | .cell _ _ | .figure _ _ => .watched
  | .slot _ w => slotWordClass w
  | .segView _ _ | .scrubView _ _ | .ring _ => .mirror

/-- Whether a slot is a fleet slot (R56). -/
def isFleet (k : SlotIx) : Bool := decide (k.val < 20)

/-- A fleet slot as a slot. -/
def fleetSlot (k : FleetIx) : SlotIx := k.castLE (by decide)

/-- A slot as a fleet slot, when it is one. -/
def asFleet (k : SlotIx) : Option FleetIx := if h : k.val < 20 then some ⟨k.val, h⟩ else none

/-- The bus tag of a slot's drafter: dispatch for fleet slots, the operations link for passenger slots (R21). -/
def drafterOf (k : SlotIx) : Tag := if isFleet k then .dispatch else .operations

/-- The bus tag of an issuer (R160). -/
def issuerTag : Issuer → Tag
  | .dispatch => .dispatch
  | .operations => .operations

/-- The words of the control area each initiator may write: the last column of R19's table. -/
def mayWriteControl (t : Tag) (c : CtlWord) : Bool :=
  match t, c with
  | .dispatch, .dspCommand | .dispatch, .tuning _ | .dispatch, .dspClear | .dispatch, .dspMask
  | .dispatch, .gwyMask | .dispatch, .readIx => true
  | .operations, .opsCommand | .operations, .opsClear | .operations, .opsMask => true
  | _, _ => false

/-- The write rights of R21. -/
def mayWrite (t : Tag) (p : Place) : Bool :=
  match p with
  | .general => t != .three
  | .control c => mayWriteControl t c
  | .cell _ _ => t == .gateway
  | .figure _ _ => t == .operations
  | .slot k w => (t == drafterOf k) && (decide (w.val ≤ 11) || decide (w.val = 15))
  | .segView _ _ | .scrubView _ _ | .ring _ => false

/-! ### What an access covers (R29) -/

/-- The words beyond the first that a burst covers. -/
def moreWords : Transfer → Nat
  | .read m => m
  | .write _ ms => ms.length

/-- Whether a transfer writes. -/
def isWrite : Transfer → Bool
  | .read _ => false
  | .write _ _ => true

/-- The addresses a burst covers; the address after 3FFFFh is 00000h (R29). -/
def coveredAddrs (a : Access) : List (BitVec 18) :=
  (List.range ((moreWords a.transfer) + 1)).map (fun i => a.addr + BitVec.ofNat 18 i)

/-- Whether every word a burst covers lies in the general area, so that it is taken whole (R29). -/
def wholeGeneral (a : Access) : Bool := (coveredAddrs a).all isGeneral

/-- A single-word read with good parity. -/
def goodRead (t : Tag) (addr : BitVec 18) : Access :=
  { tag := t, addr := addr, addrParity := oddParityBit 18 addr.toNat, transfer := .read 0 }

/-- A single-word write with good parity. -/
def goodWrite (t : Tag) (addr : BitVec 18) (v : Word) : Access :=
  { tag := t, addr := addr, addrParity := oddParityBit 18 addr.toNat, transfer := .write (goodWord v) [] }

/-! ### Codes (13_formats) -/

/-- The bus tag's number (00_scope). -/
def tagCode : Tag → Nat
  | .dispatch => 0
  | .gateway => 1
  | .operations => 2
  | .three => 3

/-- Mode codes (R174). -/
def Mode.code : Mode → Nat
  | .loading => 0
  | .noSite => 1
  | .initialising => 2
  | .recovery => 3
  | .service => 4

/-- Site fault reasons (R17). -/
def FaultReason.code : FaultReason → Nat
  | .none => 0
  | .signature => 1
  | .version => 2
  | .counts => 3
  | .length => 4
  | .checkValue => 5
  | .defaultClass => 6
  | .timing => 7
  | .classRange => 8
  | .profileRange => 9
  | .zoneProfile => 10
  | .segmentZone => 11
  | .segmentClass => 12
  | .segmentPinch => 13
  | .neighbourCount => 14
  | .neighbourRange => 15
  | .neighbourSelf => 16
  | .neighbourRepeat => 17
  | .neighbourAsymmetry => 18

/-- Slot state codes (R57). -/
def SlotState.code : SlotState → Nat
  | .idle => 0
  | .waiting => 1
  | .granted => 2
  | .delivered => 3
  | .active => 4
  | .shortening => 5

/-- Authority mode codes (13.2). -/
def AuthMode.code : AuthMode → Nat
  | .transit => 1
  | .scrub => 2

/-- The mode a header's mode code names (13.2). -/
def authModeOf (code : Byte) : Option AuthMode :=
  if code = 1 then some .transit else if code = 2 then some .scrub else none

/-- Result codes (R64). -/
def Result.code : Result → Nat
  | .none => 0
  | .granted => 1
  | .format => 2
  | .state => 3
  | .notInService => 4
  | .notEnrolled => 5
  | .notPlaced => 6
  | .scrubberBusy => 7
  | .scrubberLost => 8
  | .violation => 9
  | .badStart => 10
  | .notAdjacent => 11
  | .repeated => 12
  | .floor => 13
  | .closed => 16
  | .wet => 17
  | .held => 18
  | .claimed => 19
  | .occupied => 20
  | .pinch => 21
  | .zone => 22
  | .completed => 24
  | .cancelled => 25
  | .disclaimed => 26
  | .withdrawn => 27
  | .waitExpired => 28
  | .released => 29

/-- The transient results (R50, R64). -/
def Result.transient : Result → Bool
  | .closed | .wet | .held | .claimed | .occupied | .pinch | .zone => true
  | .none | .granted | .format | .state | .notInService | .notEnrolled | .notPlaced | .scrubberBusy | .scrubberLost
  | .violation | .badStart | .notAdjacent | .repeated | .floor | .completed | .cancelled | .disclaimed | .withdrawn
  | .waitExpired | .released => false

/-- Scrubber state codes (13.4). -/
def ScrubState.code : ScrubState → Nat
  | .absent => 0
  | .unheard => 1
  | .heard => 2
  | .lost => 3
  | .withdrawn => 4

/-- Command outcome codes (13.1). -/
def CmdOutcome.code : CmdOutcome → Nat
  | .none => 0
  | .done => 1
  | .unknownCode => 2
  | .badOperand => 3
  | .wrongMode => 4
  | .notPermitted => 5

/-- Notice kind codes (R167). -/
def NoticeKind.code : NoticeKind → Nat
  | .granted => 1
  | .refused => 2
  | .waiting => 3
  | .shortened => 4
  | .confirmed => 5
  | .ended => 6
  | .confirmOverdue => 7
  | .shortenOverdue => 8
  | .scrubberHeard => 16
  | .scrubberLost => 17
  | .violation => 18
  | .reportInvalid => 19
  | .withdrawnHeard => 20
  | .dry => 32
  | .dryingExtended => 33
  | .dryingOverdue => 34
  | .zonePresent => 48
  | .zoneQuiet => 49
  | .zoneReseeded => 50
  | .zoneStale => 51
  | .closed => 64
  | .reopened => 65
  | .passengerActive => 66
  | .passengerReleased => 67
  | .restart => 80
  | .serviceEntered => 81
  | .commandRefused => 82
  | .noticesReset => 83

/-- Notice group codes: 0 SLOT, 1 FLEET, 2 DRYING, 3 ZONE, 4 CLOSURE, 5 SYSTEM (R179). -/
def NoticeKind.group : NoticeKind → Nat
  | .granted | .refused | .waiting | .shortened | .confirmed | .ended | .confirmOverdue | .shortenOverdue => 0
  | .scrubberHeard | .scrubberLost | .violation | .reportInvalid | .withdrawnHeard => 1
  | .dry | .dryingExtended | .dryingOverdue => 2
  | .zonePresent | .zoneQuiet | .zoneReseeded | .zoneStale => 3
  | .closed | .reopened | .passengerActive | .passengerReleased => 4
  | .restart | .serviceEntered | .commandRefused | .noticesReset => 5

/-- The length of a notice in words (R167). -/
def Notice.length (n : Notice) : Nat := 2 + n.payload.length

/-- The words of a notice as the ring holds them (R179). -/
def Notice.words (n : Notice) : List Word :=
  (fld 8 0 n.kind.code ||| fld 3 8 n.kind.group ||| fld 4 12 n.length) :: n.clock :: n.payload

/-- The origins in the places of a notice: bit 0 OPERATIONS, bit 1 DISPATCH, bit 2 DRYING (R179). -/
def Closure.code (c : Closure) : Nat :=
  (if c.operations then 1 else 0) + (if c.dispatch then 2 else 0) + (if c.drying then 4 else 0)

/-- Whether the closure set is not empty (R38). -/
def Closure.closed (c : Closure) : Bool := c.operations || c.dispatch || c.drying

/-! ### Fields of what software writes (R178, 13.2, 13.3) -/

/-- The header fields of a draft, replaced at once by a header write (R58). -/
def Draft.withHeader (d : Draft) (v : Word) : Draft :=
  { d with scrubber := byteAt v 0, mode := byteAt v 1, length := byteAt v 2 }

/-- A draft after a write of slot word w: the header, or route value w (R58). -/
def Draft.written (d : Draft) (w : Fin 11) (v : Word) : Draft :=
  if h : w.val = 0 then d.withHeader v
  else { d with route := d.route.set (w.val - 1) v (by omega) }

/-- The flags of a report's word 3 (13.3). -/
def reportFlagsOf (v : Word) : ReportFlags :=
  { scrubbing := v.getLsbD 0, stopped := v.getLsbD 1, endReached := v.getLsbD 2, machineFault := v.getLsbD 3 }

/-- The fields of a report (R90). -/
structure Report where
  scrubber : Byte
  current : Byte
  trailing : Byte
  slot : Byte
  revision : Byte
  flags : ReportFlags
  deriving DecidableEq, Repr

/-- The report that word 3 completes: captured words, zero where unmarked, and the written value (R89, R90). -/
def reportOf (c : CellCapture) (v : Word) : Report :=
  let w0 := c.word0.getD 0
  let w1 := c.word1.getD 0
  let w2 := c.word2.getD 0
  { scrubber := byteAt w0 0, current := byteAt w1 0, trailing := byteAt w1 1, slot := byteAt w2 0,
    revision := byteAt w2 1, flags := reportFlagsOf v }

/-- A cell's capture after a write of word 0, 1 or 2 (R89). -/
def CellCapture.written (c : CellCapture) (w : Fin 3) (v : Word) : CellCapture :=
  if w = 0 then { c with word0 := some v } else if w = 1 then { c with word1 := some v } else { c with word2 := some v }

/-- The figure of a zone figure word: bits 0 to 15 (R137, 13.3). -/
def figureOf (v : Word) : Nat := (v.extractLsb' 0 16).toNat

/-- A command word (13.1). -/
def commandWord (code : Byte) (f : CmdFields) : Word :=
  fld 8 0 code.toNat ||| fld 8 8 f.a.toNat ||| fld 8 16 f.b.toNat ||| fld 8 24 f.tag.toNat

/-- The operand fields of a command word (13.1). -/
def cmdFieldsOf (v : Word) : CmdFields := { a := byteAt v 1, b := byteAt v 2, tag := byteAt v 3 }

/-- Word values of commits and cancels (13.2). -/
def commitValue : Word := 1
def commitWaitValue : Word := 2
def cancelValue : Word := 1

end Sys2Proof.Machine
end

