-- ==== Sys2Proof/Machine/Ops.lean ====
section
/-! DEFINITION. The named operations over plan memory and the tables: reads, writes, dirty marks, the words the part
shows, and the values in force. -/
namespace Sys2Proof.Machine
open Sys2Proof

/-! ### Plan memory -/

/-- A byte of plan memory: the listed value, or what an unwritten byte reads as (log 3). -/
def memByte : List Host.Cell → Nat → Byte
  | [], _ => Config.powerOnByte
  | (b, v) :: t, a => if b = a then v else memByte t a

/-- Write a byte, keeping addresses strictly rising and no entry equal to what an unlisted address reads as. -/
def memSet (a : Nat) (v : Byte) : List Host.Cell → List Host.Cell
  | [] => if v = Config.powerOnByte then [] else [(a, v)]
  | (b, w) :: t =>
    if a < b then (if v = Config.powerOnByte then (b, w) :: t else (a, v) :: (b, w) :: t)
    else if a = b then (if v = Config.powerOnByte then t else (a, v) :: t)
    else (b, w) :: memSet a v t

/-- The canonical form of plan memory: strictly rising addresses, no entry equal to the unwritten value. -/
def memWf : List Host.Cell → Bool
  | [] => true
  | (a, v) :: t => (v != Config.powerOnByte) && t.all (fun c => decide (a < c.1)) && memWf t

/-- The word at a word address: byte i in bits 8i to 8i + 7 (log 4). -/
def memWord (m : List Host.Cell) (a : Nat) : Word :=
  memByte m (4 * a + 3) ++ memByte m (4 * a + 2) ++ memByte m (4 * a + 1) ++ memByte m (4 * a)

/-- Write the word at a word address. -/
def memSetWord (a : Nat) (w : Word) (m : List Host.Cell) : List Host.Cell :=
  memSet (4 * a + 3) (byteAt w 3) (memSet (4 * a + 2) (byteAt w 2) (memSet (4 * a + 1) (byteAt w 1)
    (memSet (4 * a) (byteAt w 0) m)))

/-- The word that a read of plan memory finds. -/
def State.readWord (s : State) (a : BitVec 18) : Word := memWord s.mem a.toNat

/-- Whether the byte parity of a word fails as it comes back from memory (R32). -/
def State.wordBad (s : State) (a : BitVec 18) : Bool := s.badParity.any (fun b => b / 4 == a.toNat)

/-- Write a word to plan memory with good parity (R24). -/
def State.writeWord (a : BitVec 18) (w : Word) (s : State) : State :=
  { s with mem := memSetWord a.toNat w s.mem, badParity := s.badParity.filter (fun b => b / 4 != a.toNat) }

/-- Write words in order (R24, R33). -/
def State.writeWords (l : List (BitVec 18 × Word)) (s : State) : State :=
  l.foldl (fun s p => s.writeWord p.1 p.2) s

/-- An outside disturbance of the stored parity of some bytes (R32; log 6). -/
def State.upset (l : List (BitVec 20)) (s : State) : State :=
  { s with badParity := l.foldl (fun bs b => insertBy id b.toNat bs) s.badParity }

/-! ### The site model as the blocks read it (R1: n and z count as 0 and nobody is enrolled without one) -/

def State.n (s : State) : Nat := match s.site with | none => 0 | some m => m.segs.length
def State.z (s : State) : Nat := match s.site with | none => 0 | some m => m.zones.length

/-- The numbers 1 to n (R38), as indices. -/
def State.segIxs (s : State) : List SegIx := (List.finRange 255).filter (fun g => decide (g.val < s.n))

/-- The fixed fields of a segment (R2). -/
def State.fixed (s : State) (g : SegIx) : SegFixed :=
  match s.site with
  | none => { zone := none, cls := none, pinch := none, nbrs := [] }
  | some m => m.segs.getD g.val { zone := none, cls := none, pinch := none, nbrs := [] }

/-- Whether b is in a's neighbour list (R3). -/
def State.adjacent (s : State) (a b : SegIx) : Bool := decide (b ∈ (s.fixed a).nbrs)

/-- The floor class of a number; without a site model no class is asked for. -/
def State.floorClass (s : State) (c : ClassIx) : FloorClass :=
  match s.site with
  | none => { drying := 0, wetScrub := false, moistureCheck := false, restartWet := false }
  | some m => m.classes[c.val]

/-- The profile a zone names (R8); without a site model no profile is asked for. -/
def State.profile (s : State) (z : ZoneIx) : Profile :=
  match s.site with
  | none => { filterShift := 0, baselineShift := 0, fastShift := 0, fastBound := 0, presence := 0, halt := 0,
              hysteresis := 0, debounceIn := 0, debounceOut := 0, quietTime := 0, stuckTimeout := 0, dryThreshold := 0,
              notices := false }
  | some m => m.profiles[(m.zones.getD z.val 0).val]

/-- The image's timing values; the built-in defaults of R11 stand where there is no model. -/
def State.timings (s : State) : Timings :=
  match s.site with
  | none => { report := 30, confirm := 50, shorten := 40, fleetWait := 30, passengerWait := 90 }
  | some m => m.timings

/-! ### Values in force (R6, R162) -/

/-- A tuning word's value when it is not 0, else the other value (R162). -/
def State.tuned (s : State) (i : Fin 8) (other : Nat) : Nat :=
  if s.tuning[i.val] = 0 then other else (s.tuning[i.val]).toNat

def State.reportTimeout (s : State) : Nat := s.tuned 0 s.timings.report
def State.confirmTimeout (s : State) : Nat := s.tuned 1 s.timings.confirm
def State.shortenTimeout (s : State) : Nat := s.tuned 2 s.timings.shorten
def State.fleetWaitLimit (s : State) : Nat := s.tuned 3 s.timings.fleetWait
def State.passengerWaitLimit (s : State) : Nat := s.tuned 4 s.timings.passengerWait
def State.noticeThreshold (s : State) : Nat := s.tuned 6 768

/-- The default class in force (R6). -/
def State.defaultClass (s : State) : ClassIx :=
  match ixOf 8 (s.tuning[5]).toNat with
  | some c => c
  | none => match s.site with | none => 0 | some m => m.defaultClass

/-- The resolved class of a segment (R6), resolved afresh at each use (R7). -/
def State.resolvedClass (s : State) (g : SegIx) : ClassIx := ((s.fixed g).cls).getD s.defaultClass

/-- Whether the segment's floor permits wet scrub now (R7). -/
def State.permitsScrub (s : State) (g : SegIx) : Bool := (s.floorClass (s.resolvedClass g)).wetScrub

/-- The clock a number of tenths ahead, counted round past the greatest value (R166). -/
def State.after (s : State) (tenths : Nat) : Word := s.clock + BitVec.ofNat 32 tenths

/-! ### Reading the tables -/

def State.seg (s : State) (g : SegIx) : Seg := s.segs[g.val]
def State.slot (s : State) (k : SlotIx) : Slot := s.slots[k.val]
def State.scrub (s : State) (x : ScrubIx) : Scrubber := s.scrubbers[x.val]
def State.pinchEntry (s : State) (p : PinchIx) : Pinch := s.pinch[p.val]
def State.zone (s : State) (z : ZoneIx) : Zone := s.zones[z.val]
def State.cell (s : State) (c : CellIx) : CellCapture := s.cells[c.val]

/-- The states in which a fleet slot holds its authority: GRANTED, DELIVERED, ACTIVE, SHORTENING (R75, R106, R147). -/
def SlotState.authority : SlotState → Bool
  | .granted | .delivered | .active | .shortening => true
  | .idle | .waiting => false

/-- The states in which the scrubber has been sent its authority: DELIVERED, ACTIVE, SHORTENING (R95). -/
def SlotState.sent : SlotState → Bool
  | .delivered | .active | .shortening => true
  | .idle | .waiting | .granted => false

/-- A slot is live in any state other than IDLE (R57). -/
def SlotState.live (x : SlotState) : Bool := x != .idle

/-- The route entries with their route indices, from 1 (00_scope, Conventions). -/
def Slot.entries (r : Slot) : List (SegIx × Nat) := r.route.zipIdx 1

/-- The route index of a segment on the slot's route. -/
def Slot.indexOf (r : Slot) (g : SegIx) : Option Nat :=
  (r.entries.find? (fun e => e.1 == g)).map (·.2)

/-- The route entry at an index. -/
def Slot.entryAt (r : Slot) (i : Nat) : Option SegIx :=
  (r.entries.find? (fun e => e.2 == i)).map (·.1)

/-! ### The words the part shows (13_formats) -/

/-- Slot status word (13.2). -/
def Slot.statusWord (r : Slot) : Word :=
  fld 3 0 r.state.code ||| fld 5 8 r.result.code ||| fld 4 16 r.failIx ||| fld 4 20 r.endIx
    ||| fld 8 24 r.revision.toNat

/-- Slot progress word (13.2). -/
def Slot.progressWord (r : Slot) : Word := fld 4 0 r.progress

/-- The stop flag of the handover summary (R77). -/
def Slot.stopFlag (r : Slot) : Bool := decide (r.endIx ≤ r.progress)

/-- Whether the handover summary of a slot is not zero: a fleet slot with an authority, an ACTIVE passenger slot (R77). -/
def summaryShown (k : SlotIx) (r : Slot) : Bool :=
  if isFleet k then r.state.authority else r.state == .active

/-- The handover summary (R77, 13.2). -/
def handoverSummary (k : SlotIx) (r : Slot) : Word :=
  if summaryShown k r then
    fld 3 0 r.state.code
      ||| bitFld 3 (isFleet k && r.scrubHold)
      ||| bitFld 4 (isFleet k && r.stopFlag)
      ||| fld 2 5 (if isFleet k then r.mode.code else 0)
      ||| fld 5 7 (if isFleet k then numOf r.scrubber else 0)
      ||| fld 4 12 r.endIx
      ||| fld 8 16 (numOf (r.entryAt r.endIx))
      ||| fld 8 24 r.revision.toNat
  else 0

/-- Segment view word 0 (R54, 13.4). -/
def segSummary (pinch : Option PinchIx) (r : Seg) : Word :=
  fld 5 0 (numOf r.holder) ||| fld 5 5 (numOf r.occupant) ||| bitFld 10 r.wet.isSome ||| bitFld 11 r.carried
    ||| bitFld 12 r.closure.operations ||| bitFld 13 r.closure.dispatch ||| bitFld 14 r.closure.drying
    ||| bitFld 15 (!r.claims.isEmpty) ||| bitFld 16 r.pendingRel ||| fld 5 20 (numOf pinch)

/-- Segment view word 1 (R54). -/
def segExpiryWord (r : Seg) : Word :=
  match r.wet with
  | none => 0
  | some w => w.expiry

/-- Both words of a segment's view entry (R54). -/
def segViewWords (pinch : Option PinchIx) (r : Seg) : List Word := [segSummary pinch r, segExpiryWord r]

/-- The flags as a report's word 3 places them (13.4). -/
def ReportFlags.word (f : ReportFlags) : Word :=
  bitFld 0 f.scrubbing ||| bitFld 1 f.stopped ||| bitFld 2 f.endReached ||| bitFld 3 f.machineFault

/-- The eight words of a scrubber's view entry (R111, 13.4). -/
def Scrubber.viewWords (r : Scrubber) : List Word :=
  [fld 3 0 r.state.code ||| bitFld 8 r.mark,
   fld 8 0 (numOf r.current) ||| fld 8 8 (numOf r.trailing) ||| fld 8 16 (numOf r.parked),
   fld 8 0 (numOf r.liveSlot),
   fld 8 0 r.lastSlot.toNat ||| fld 8 8 r.lastRevision.toNat,
   r.flags.word,
   r.lastTime,
   0, 0]

/-! ### Dirty marks and writes of the tables -/

/-- Mark a mirror record dirty (R35). -/
def State.markDirty (r : MirrorRec) (s : State) : State := { s with dirty := insertBy MirrorRec.addr r s.dirty }

/-- Mark a record dirty when its contents have changed (R35, R39, R57). -/
def State.markIf (b : Bool) (r : MirrorRec) (s : State) : State :=
  { s with dirty := if b then insertBy MirrorRec.addr r s.dirty else s.dirty }

/-- The view entry of a segment: entry k for number k (R34). -/
def segRecord (g : SegIx) : MirrorRec := .segView ⟨g.val + 1, by omega⟩

/-- Store a segment record; a change the view shows marks its entry dirty (R39, R54). -/
def State.setSeg (g : SegIx) (r : Seg) (s : State) : State :=
  ({ s with segs := s.segs.set g.val r } : State).markIf
    (segViewWords none r != segViewWords none (s.seg g)) (segRecord g)

/-- Store a slot record; a change the status or the progress word shows marks that word dirty (R57). -/
def State.setSlot (k : SlotIx) (r : Slot) (s : State) : State :=
  (({ s with slots := s.slots.set k.val r } : State).markIf
      (r.statusWord != (s.slot k).statusWord) (.slotStatus k)).markIf
    (r.progressWord != (s.slot k).progressWord) (.slotProgress k)

/-- Store a scrubber record; a change the view shows marks its entry dirty (R111). -/
def State.setScrub (x : ScrubIx) (r : Scrubber) (s : State) : State :=
  ({ s with scrubbers := s.scrubbers.set x.val r } : State).markIf
    (r.viewWords != (s.scrub x).viewWords) (.scrubView x)

/-- Store a pinch entry; no word of plan memory shows it (R54). -/
def State.setPinch (p : PinchIx) (r : Pinch) (s : State) : State := { s with pinch := s.pinch.set p.val r }

/-- Store a zone record; it is not mirrored (R136). -/
def State.setZone (z : ZoneIx) (r : Zone) (s : State) : State := { s with zones := s.zones.set z.val r }

/-- Store a cell's capture (R89). -/
def State.setCell (c : CellIx) (r : CellCapture) (s : State) : State := { s with cells := s.cells.set c.val r }

/-- Store the drying list (R126). -/
def State.setDrying (l : List DryEntry) (s : State) : State := { s with drying := l }

/-- Store the waiting queue (R69). -/
def State.setQueue (l : List SlotIx) (s : State) : State := { s with queue := l }

/-- Store the notice staging queue (R168). -/
def State.setStaging (l : List Notice) (s : State) : State := { s with staging := l }

/-- Note a freeing change (R39). -/
def State.noteFreeing (s : State) : State := { s with freeing := true }

/-- No freeing change is noted: an event begins, or its re-evaluation has been made (R39). -/
def State.clearFreeing (s : State) : State := { s with freeing := false }

/-- The slot's status and progress words are marked dirty whatever they show (R65, R74). -/
def State.markSlotWords (k : SlotIx) (s : State) : State := (s.markDirty (.slotStatus k)).markDirty (.slotProgress k)

/-- Give the answer of an access (R18). -/
def State.answered (b : BusAnswer) (s : State) : State := { s with answer := some b }

/-- Record the requester that the memory port serves (R33). -/
def State.served (u : PortUser) (s : State) : State := { s with lastServed := u }

/-- The round-robin order after a requester: passage unit, mirror writer, notice writer, passage unit (R33). -/
def portCycle : PortUser → List PortUser
  | .passage => [.mirror, .notice, .passage]
  | .mirror => [.notice, .passage, .mirror]
  | .notice => [.passage, .mirror, .notice]

/-- The requester the arbiter grants (R33): the first waiting one after the one served last. -/
def State.grantNext (s : State) (waiting : List PortUser) : Option PortUser :=
  (portCycle s.lastServed).find? (fun u => decide (u ∈ waiting))

end Sys2Proof.Machine
end

