-- ==== Sys2Proof/Machine/Flags.lean ====
section
/-! DEFINITION. Status flags and their conditions, attention masks and lines, the stop-all causes and line
(R12, R84, R124, R125, R163 to R165). -/
namespace Sys2Proof.Machine
open Sys2Proof

/-! ### Places of the flags (13.1) -/

def DspFlag.place : DspFlag → Nat
  | .restarted => 0
  | .stopAll => 1
  | .violation => 2
  | .shortenOverdue => 3
  | .scrubberLost => 4
  | .zoneStale => 5
  | .noticeThreshold => 6
  | .noticesPending => 7
  | .confirmOverdue => 8
  | .dryingOverdue => 9
  | .noticeLost => 10
  | .commandRefused => 11
  | .accessRefused => 12
  | .busParity => 13
  | .memoryParity => 14
  | .reportInvalid => 15

def OpsFlag.place : OpsFlag → Nat
  | .restarted => 0
  | .passengerActive => 1
  | .passengerExpired => 2
  | .commandRefused => 3
  | .accessRefused => 4

/-- Every dispatch flag, in the order of its place. -/
def allDspFlags : List DspFlag :=
  [.restarted, .stopAll, .violation, .shortenOverdue, .scrubberLost, .zoneStale, .noticeThreshold, .noticesPending,
   .confirmOverdue, .dryingOverdue, .noticeLost, .commandRefused, .accessRefused, .busParity, .memoryParity,
   .reportInvalid]

def State.dsp (s : State) (f : DspFlag) : Bool := s.dspFlags.getLsbD f.place
def State.ops (s : State) (f : OpsFlag) : Bool := s.opsFlags.getLsbD f.place

/-- Store the dispatch flags; a change marks the status word dirty (R163). -/
def State.putDsp (v : BitVec 16) (s : State) : State :=
  ({ s with dspFlags := v } : State).markIf (v != s.dspFlags) (.control .dspStatus)

/-- Store the operations flags; a change marks the status word dirty (R163). -/
def State.putOps (v : BitVec 5) (s : State) : State :=
  ({ s with opsFlags := v } : State).markIf (v != s.opsFlags) (.control .opsStatus)

/-- A setting event of a dispatch flag (R163). -/
def State.setDsp (f : DspFlag) (s : State) : State := s.putDsp (s.dspFlags ||| BitVec.twoPow 16 f.place)

/-- A setting event of an operations flag (R163). -/
def State.setOps (f : OpsFlag) (s : State) : State := s.putOps (s.opsFlags ||| BitVec.twoPow 5 f.place)

/-! ### The stop-all line (R124) -/

/-- Whether any scrubber carries a violation mark (R107). -/
def State.anyMark (s : State) : Bool := (List.finRange 16).any (fun x => (s.scrub x).mark)

/-- Whether any slot carries a shorten-overdue mark (R123). -/
def State.anyOverdue (s : State) : Bool := (List.finRange 24).any (fun k => (s.slot k).overdue)

/-- STOPALL: asserted while a cause holds: the mode, a violation mark, a shorten-overdue mark (R124). -/
def State.stopAll (s : State) : Bool := s.mode != .service || s.anyMark || s.anyOverdue

/-- Apply a change that may assert STOPALL: when the line passes from released to asserted, the dispatch STOP_ALL flag
is set (R125). -/
def State.raising (f : State → State) (s : State) : State :=
  if !s.stopAll && (f s).stopAll then (f s).setDsp .stopAll else f s

/-! ### The notice ring's fill (R169) -/

/-- Words from the read index forward to the write index, counting round (R169). -/
def State.fill (s : State) : Nat := (s.writeIx - s.readIx).toNat

/-- Free space of the ring (R169). -/
def State.free (s : State) : Nat := 1023 - s.fill

/-! ### Latched flags (R163) -/

/-- Whether any enrolled or other scrubber is LOST. -/
def State.anyLost (s : State) : Bool := (List.finRange 16).any (fun x => (s.scrub x).state == .lost)

/-- The zones 1 to z, as indices (R136). -/
def State.zoneIxs (s : State) : List ZoneIx := (List.finRange 32).filter (fun z => decide (z.val < s.z))

/-- Whether any zone is STALE. -/
def State.anyStale (s : State) : Bool := s.zoneIxs.any (fun z => (s.zone z).state == .stale)

/-- Whether a flag must stay set at a clear write: a latched flag whose condition holds. A sticky flag never must
(R163). -/
def State.flagHolds (s : State) : DspFlag → Bool
  | .stopAll => s.stopAll
  | .violation => s.anyMark
  | .shortenOverdue => s.anyOverdue
  | .scrubberLost => s.anyLost
  | .zoneStale => s.anyStale
  | .noticeThreshold => decide (s.noticeThreshold ≤ s.fill)
  | .noticesPending => decide (0 < s.fill)
  | .restarted | .confirmOverdue | .dryingOverdue | .noticeLost | .commandRefused | .accessRefused | .busParity
  | .memoryParity | .reportInvalid => false

/-- The places of the flags that a clear write cannot clear now. -/
def State.heldPlaces (s : State) : BitVec 16 :=
  allDspFlags.foldl (fun b f => if s.flagHolds f then b ||| BitVec.twoPow 16 f.place else b) 0

/-- The dispatch clear word (R164); a request for ACCESS_REFUSED empties the refused-access capture and marks its word
dirty, whether the flag clears or not (R23; log 20). -/
def State.clearDsp (v : Word) (s : State) : State :=
  let asked := v.setWidth 16
  let s1 := s.putDsp (s.dspFlags &&& ~~~(asked &&& ~~~s.heldPlaces))
  if asked.getLsbD DspFlag.accessRefused.place then
    ({ s1 with capture := none } : State).markDirty (.control .refused)
  else s1

/-- The operations clear word (R164): every operations flag is sticky. -/
def State.clearOps (v : Word) (s : State) : State := s.putOps (s.opsFlags &&& ~~~(v.setWidth 5))

/-! ### Attention masks (R84, R165) -/

def State.setDspMask (v : Word) (s : State) : State :=
  ({ s with dspMask := v.setWidth 16 } : State).markDirty (.control .dspMask)

def State.setOpsMask (v : Word) (s : State) : State :=
  ({ s with opsMask := v.setWidth 5 } : State).markDirty (.control .opsMask)

def State.setGwyMask (v : Word) (s : State) : State :=
  ({ s with gwyMask := v.setWidth 20 } : State).markDirty (.control .gwyMask)

/-! ### The attention lines (R12, R84, R165) -/

/-- The changed-slots set: bit k − 1 for fleet slot k (R82, R83, 13.1). -/
def State.changedSlots (s : State) : BitVec 20 :=
  (List.finRange 20).foldl
    (fun b k => if (s.slot (fleetSlot k)).changed then b ||| BitVec.twoPow 20 k.val else b) 0

/-- What a line calls for: DSP_ATN, OPS_ATN (R165) and GWY_ATN (R84). -/
def State.dspCalls (s : State) : Bool := s.dspFlags &&& s.dspMask != 0
def State.opsCalls (s : State) : Bool := s.opsFlags &&& s.opsMask != 0
def State.gwyCalls (s : State) : Bool := s.changedSlots &&& s.gwyMask != 0

/-- A line's level (R12): undriven, driven low or driven high. -/
inductive LineLevel where
  | undriven | low | high
  deriving DecidableEq, Repr

/-- The level a polarity gives a line's condition (R12). -/
def levelOf (p : Polarity) (asserted : Bool) : LineLevel :=
  match p, asserted with
  | .activeLowOpenDrain, true => .low
  | .activeLowOpenDrain, false => .undriven
  | .activeHighDriven, true => .high
  | .activeHighDriven, false => .low

/-- A line's level: undriven until LOADING ends, the fallback polarity without a site model, else the image's (R12). -/
def State.lineLevel (s : State) (polarity : Site → Polarity) (asserted : Bool) : LineLevel :=
  if s.mode = .loading then .undriven
  else match s.site with
    | none => levelOf .activeLowOpenDrain asserted
    | some m => levelOf (polarity m) asserted

def State.dspAtn (s : State) : LineLevel := s.lineLevel (·.dspPolarity) s.dspCalls
def State.gwyAtn (s : State) : LineLevel := s.lineLevel (·.gwyPolarity) s.gwyCalls
def State.opsAtn (s : State) : LineLevel := s.lineLevel (·.opsPolarity) s.opsCalls

/-- STOPALL's level: high when asserted, low when not (07, 7.7). -/
def State.stopAllLevel (s : State) : LineLevel := if s.stopAll then .high else .low

end Sys2Proof.Machine
end

