-- ==== Sys2Proof/Machine/Floor.lean ====
section
/-! DEFINITION. Notices (R167, R168) and the requests that change a segment or the pinch table (R39 to R49, R126, R127). -/
namespace Sys2Proof.Machine
open Sys2Proof

/-! ### Producing notices -/

/-- Notices that count toward the 16 of the staging queue, the held one included (R168). -/
def State.staged (s : State) : Nat := s.staging.length + (if s.held.isSome then 1 else 0)

/-- Whether a group is in the suppress mask in force (R162, R168); SYSTEM has no place there. -/
def State.suppressed (s : State) (kind : NoticeKind) : Bool :=
  decide (kind.group < 5) && (s.tuning[7]).getLsbD kind.group

/-- Stage a notice at the back, or drop it with NOTICE_LOST when 16 are staged (R168). -/
def State.stage (n : Notice) (s : State) : State :=
  if 16 ≤ s.staged then s.setDsp .noticeLost else s.setStaging (s.staging ++ [n])

/-- Produce a notice at the event's clock (R167, R168). -/
def State.notify (kind : NoticeKind) (payload : List Word) (s : State) : State :=
  if s.suppressed kind then s else s.stage { kind := kind, clock := s.clock, payload := payload }

/-- Slot notices with a slot, a result or revision, and an index (R167). -/
def State.notifySlot (kind : NoticeKind) (k : SlotIx) (b c : Nat) (s : State) : State :=
  s.notify kind [pack4 (k.val + 1) b c 0]

/-! ### The pinch table (R47 to R49) -/

/-- Whether a segment is held by the fleet slot naming h or occupied by h (R47). Where R47's sentences overlap the model's
choice is to count: a segment that h's slot holds counts for h even while another scrubber occupies it, and one that h
occupies even while a passenger slot holds it (DEDUCED, log 35). -/
def State.usedBy (s : State) (h : ScrubIx) (g : SegIx) : Bool :=
  (s.seg g).occupant == some h
    || (match (s.seg g).holder with
        | none => false
        | some k => isFleet k && (s.slot k).scrubber == some h)

/-- The segments of a pinch group (R4). -/
def State.groupSegs (s : State) (p : PinchIx) : List SegIx := s.segIxs.filter (fun g => (s.fixed g).pinch == some p)

/-- The count of a group for a holder, counted afresh (R47). -/
def State.pinchCount (s : State) (p : PinchIx) (h : ScrubIx) : Nat := ((s.groupSegs p).filter (s.usedBy h)).length

/-- The occupant of the lowest-numbered occupied segment of a group (R49). -/
def State.groupOccupant (s : State) (p : PinchIx) : Option ScrubIx :=
  (s.groupSegs p).findSome? (fun g => (s.seg g).occupant)

/-- Bring a group up to date after a request (R48, R49). `gain` is the scrubber whose slot took hold of one of its
segments, or who came to occupy one. -/
def State.refreshPinch (p : PinchIx) (gain : Option ScrubIx) (s : State) : State :=
  match (s.pinchEntry p).holder with
  | none =>
    match gain with
    | none => s
    | some h => s.setPinch p { holder := some h, count := s.pinchCount p h }
  | some h =>
    if s.pinchCount p h ≠ 0 then s.setPinch p { holder := some h, count := s.pinchCount p h }
    else match s.groupOccupant p with
      | some t => (s.setPinch p { holder := some t, count := s.pinchCount p t }).noteFreeing
      | none => (s.setPinch p { holder := none, count := 0 }).noteFreeing

/-- Bring the group of a segment up to date, when it has one (R48). -/
def State.refreshPinchOf (g : SegIx) (gain : Option ScrubIx) (s : State) : State :=
  match (s.fixed g).pinch with
  | none => s
  | some p => s.refreshPinch p gain

/-! ### Wet floor and the drying list (R44, R126, R127) -/

/-- Put an entry in its place by expiry; a new entry stands after those with its expiry (R126; log 21). -/
def insertEntry (e : DryEntry) : List DryEntry → List DryEntry
  | [] => [e]
  | x :: xs => if e.expiry.toNat < x.expiry.toNat then e :: x :: xs else x :: insertEntry e xs

/-- Take a segment's entry off the drying list. -/
def State.dropEntry (g : SegIx) (s : State) : State :=
  s.setDrying (s.drying.filter (fun e => e.seg != g))

/-- The mark-wet request (R44, R127). -/
def State.markWet (g : SegIx) (s : State) : State :=
  let c := s.resolvedClass g
  let fc := s.floorClass c
  let expiry := s.after (100 * fc.drying)
  let check := fc.moistureCheck && (s.fixed g).zone.isSome
  let s1 := s.setDrying (insertEntry { seg := g, expiry := expiry, count := 0, cls := c, check := check } s.drying)
  s1.setSeg g { s1.seg g with wet := some { expiry := expiry, count := 0 } }

/-! ### Occupants (R43) -/

/-- Set-occupant: only an unoccupied segment takes the scrubber (R43). -/
def State.setOccupant (x : ScrubIx) (g : SegIx) (s : State) : State :=
  match (s.seg g).occupant with
  | some _ => s
  | none => (s.setSeg g { s.seg g with occupant := some x }).refreshPinchOf g (some x)

/-- Clear-occupant: a freeing change (R39, R43). -/
def State.clearOccupant (x : ScrubIx) (g : SegIx) (s : State) : State :=
  if (s.seg g).occupant = some x then
    ((s.setSeg g { s.seg g with occupant := none }).noteFreeing).refreshPinchOf g none
  else s

/-! ### Holding and releasing (R40 to R42) -/

/-- The wet mark of a segment taken at route index 1 is suspended: carried wet, a freeing change (R40). -/
def State.suspendWet (g : SegIx) (s : State) : State :=
  match (s.seg g).wet with
  | none => s
  | some _ =>
    let s1 := s.dropEntry g
    (s1.setSeg g { s1.seg g with wet := none, carried := true }).noteFreeing

/-- Take hold of one segment for a fleet slot, at a route index (R40). -/
def State.takeFleet (k : SlotIx) (e : SegIx × Nat) (s : State) : State :=
  let s1 := (s.setSeg e.1 { s.seg e.1 with holder := some k }).refreshPinchOf e.1 (s.slot k).scrubber
  if e.2 = 1 then s1.suspendWet e.1 else s1

/-- Remove a passenger slot's claim from a segment: a freeing change when it was there (R46). -/
def State.removeClaim (k : SlotIx) (g : SegIx) (s : State) : State :=
  if k ∈ (s.seg g).claims then
    (s.setSeg g { s.seg g with claims := (s.seg g).claims.filter (fun c => c != k) }).noteFreeing
  else s

/-- Add a passenger slot's claim to a segment (R46). -/
def State.addClaim (k : SlotIx) (g : SegIx) (s : State) : State :=
  s.setSeg g { s.seg g with claims := insertBy Fin.val k (s.seg g).claims }

/-- Take hold of one segment for a passenger slot; its claim there is removed in the same request (R40). -/
def State.takePassenger (k : SlotIx) (g : SegIx) (s : State) : State :=
  (s.setSeg g { s.seg g with holder := some k }).removeClaim k g

/-- The take-hold request for a slot's whole captured route, in route order (R40). -/
def State.takeHold (k : SlotIx) (s : State) : State :=
  if isFleet k then (s.slot k).entries.foldl (fun s e => s.takeFleet k e) s
  else (s.slot k).route.foldl (fun s g => s.takePassenger k g) s

/-- The release request (R41). -/
def State.release (k : SlotIx) (wet : Bool) (g : SegIx) (s : State) : State :=
  if (s.seg g).holder = some k then
    let s1 := (s.setSeg g { s.seg g with holder := none, pendingRel := false }).noteFreeing
    let s2 := if isFleet k then s1.refreshPinchOf g none else s1
    if (s2.seg g).carried then (s2.setSeg g { s2.seg g with carried := false }).markWet g
    else if wet then s2.markWet g
    else s2
  else s

/-- The wet choice for the route entry at index i (R101). -/
def Slot.wetChoice (r : Slot) (i : Nat) : Bool :=
  match r.mode with
  | .transit => false
  | .scrub =>
    match r.evidence.getD (i - 1) .none with
    | .seenScrubbing => true
    | .none => decide (i ≤ r.progress)
    | .seenDry => false

/-- Release, in increasing route index, the entries of a slot's route that a test picks, each with its wet choice
(R41, R101), a passenger slot's with no wet (R158); a segment the slot does not hold is passed over. -/
def State.releaseWhere (k : SlotIx) (pick : SegIx × Nat → Bool) (s : State) : State :=
  ((s.slot k).entries.filter pick).foldl (fun s e => s.release k (isFleet k && (s.slot k).wetChoice e.2) e.1) s

/-- Release every segment the slot holds. -/
def State.releaseAll (k : SlotIx) (s : State) : State := s.releaseWhere k (fun _ => true)

/-- The route entries above an index whose segments the slot holds. -/
def State.heldAbove (s : State) (k : SlotIx) (i : Nat) : List (SegIx × Nat) :=
  (s.slot k).entries.filter (fun e => decide (i < e.2) && (s.seg e.1).holder == some k)

/-- One segment becomes release-pending (R42). -/
def State.pend (g : SegIx) (s : State) : State := s.setSeg g { s.seg g with pendingRel := true }

/-- The mark-pending request (R42). -/
def State.markPending (k : SlotIx) (i : Nat) (s : State) : State :=
  (s.heldAbove k i).foldl (fun s e => s.pend e.1) s

/-! ### Closures (R45) -/

/-- Store a closure set; a set that becomes empty is a freeing change (R39, R45). -/
def State.setClosure (g : SegIx) (c : Closure) (s : State) : State :=
  let s1 := s.setSeg g { s.seg g with closure := c }
  if (s.seg g).closure.closed && !c.closed then s1.noteFreeing else s1

/-- The origin of an issuer's closures (R149). -/
def Closure.withIssuer (c : Closure) : Issuer → Closure
  | .dispatch => { c with dispatch := true }
  | .operations => { c with operations := true }

/-- Whether an issuer's origin is in the set. -/
def Closure.hasIssuer (c : Closure) : Issuer → Bool
  | .dispatch => c.dispatch
  | .operations => c.operations

/-- The set of an issuer's origin alone. -/
def originOf (i : Issuer) : Closure := ({} : Closure).withIssuer i

/-- The origins of a set that an issuer's reopen removes (R152). -/
def Closure.reopenRight (c : Closure) : Issuer → Closure
  | .operations => c
  | .dispatch => { c with operations := false }

/-- A set less other origins. -/
def Closure.less (c d : Closure) : Closure :=
  { operations := c.operations && !d.operations, dispatch := c.dispatch && !d.dispatch,
    drying := c.drying && !d.drying }

/-- Two sets together. -/
def Closure.join (c d : Closure) : Closure :=
  { operations := c.operations || d.operations, dispatch := c.dispatch || d.dispatch, drying := c.drying || d.drying }

end Sys2Proof.Machine
end

