-- ==== Sys2Proof/Machine/Slots.lean ====
section
/-! DEFINITION. Authority slots: availability, evaluation, grant, the waiting queue, shortening, endings, commit, cancel
and handover (04, 05, 07; R50 to R88, R112 to R123, R154 to R159). -/
namespace Sys2Proof.Machine
open Sys2Proof

/-! ### Availability (R50 to R53) -/

/-- Whether a segment's zone counts as QUIET (R146); zone 0 does. -/
def State.zoneQuiet (s : State) (g : SegIx) : Bool :=
  match (s.fixed g).zone with
  | none => true
  | some z => (s.zone z).state == .quiet

/-- Whether a segment's pinch group has a holder other than x (R50, check 6). -/
def State.pinchedFrom (s : State) (x : ScrubIx) (g : SegIx) : Bool :=
  match (s.fixed g).pinch with
  | none => false
  | some p => (s.pinchEntry p).holder.isSome && (s.pinchEntry p).holder != some x

/-- The fleet availability test of a segment at route index i (R50): the first failure, or none. -/
def State.fleetTest (s : State) (x : ScrubIx) (m : AuthMode) (i : Nat) (g : SegIx) : Option Result :=
  let r := s.seg g
  if r.closure.closed && i != 1 then some .closed
  else if r.wet.isSome && i != 1 then some .wet
  else if r.holder.isSome then some .held
  else if !r.claims.isEmpty then some .claimed
  else if r.occupant.isSome && r.occupant != some x then some .occupied
  else if s.pinchedFrom x g then some .pinch
  else if m == .scrub && !s.zoneQuiet g then some .zone
  else if m == .scrub && !s.permitsScrub g then some .floor
  else none

/-- The passenger availability test (R52). -/
def State.passengerTest (s : State) (g : SegIx) : Option Result :=
  let r := s.seg g
  if r.closure.closed then some .closed
  else if r.wet.isSome then some .wet
  else if r.holder.isSome then some .held
  else if r.occupant.isSome then some .occupied
  else none

/-- The first failure of a test over route entries, with its route index (R53, R63). -/
def firstFailure (test : Nat → SegIx → Option Result) : List (SegIx × Nat) → Option (Result × Nat)
  | [] => none
  | (g, i) :: rest =>
    match test i g with
    | some r => some (r, i)
    | none => firstFailure test rest

/-- The availability pass of a slot's captured route (R63). -/
def State.availability (s : State) (k : SlotIx) : Option (Result × Nat) :=
  let r := s.slot k
  if isFleet k then
    match r.scrubber with
    | some x => firstFailure (fun i g => s.fleetTest x r.mode i g) r.entries
    | none => none
  else firstFailure (fun _ g => s.passengerTest g) r.entries

/-! ### The structural pass (R60 to R62) -/

/-- The route values that the draft's length takes, with their route indices (R60). -/
def Draft.entries (d : Draft) : List (Word × Nat) := (d.route.toList.take d.length.toNat).zipIdx 1

/-- The captured route (R60): the segments the entries name. -/
def Draft.captured (d : Draft) : List SegIx := d.entries.filterMap (fun e => ixOf 255 e.1.toNat)

/-- Whether a draft's length is 1 to 10. -/
def Draft.lengthOk (d : Draft) : Bool := decide (1 ≤ d.length.toNat ∧ d.length.toNat ≤ 10)

/-- The index of the first entry that does not lie in 1 to n (R61, check 2). -/
def State.firstOutOfRange (s : State) (d : Draft) : Option Nat :=
  (d.entries.find? (fun e => !decide (1 ≤ e.1.toNat ∧ e.1.toNat ≤ s.n))).map (·.2)

/-- The index of the first entry that is not a neighbour of the entry before it (R61, check 9). -/
def State.firstNotAdjacent (s : State) : List (SegIx × Nat) → Option Nat
  | [] => none
  | [_] => none
  | a :: b :: rest => if s.adjacent a.1 b.1 then s.firstNotAdjacent (b :: rest) else some b.2

/-- The index of the first entry equal to an earlier one (R61, check 10). -/
def firstRepeated (seen : List SegIx) : List (SegIx × Nat) → Option Nat
  | [] => none
  | a :: rest => if a.1 ∈ seen then some a.2 else firstRepeated (a.1 :: seen) rest

/-- Whether another live fleet slot names the scrubber (R61, check 7). -/
def State.namedElsewhere (s : State) (k : SlotIx) (x : ScrubIx) : Bool :=
  (List.finRange 24).any (fun j => isFleet j && j != k && (s.slot j).state.live && (s.slot j).scrubber == some x)

/-- Checks 3 to 11 of a fleet commit's structural pass, over the captured route (R61). -/
def State.fleetChecks (s : State) (k : SlotIx) (x : ScrubIx) (m : AuthMode) (route : List (SegIx × Nat)) :
    Option (Result × Nat) :=
  let r := s.scrub x
  if r.state = .absent then some (.notEnrolled, 0)
  else if r.state = .lost then some (.scrubberLost, 0)
  else if r.state ≠ .heard then some (.notPlaced, 0)
  else if r.mark then some (.violation, 0)
  else if s.namedElsewhere k x then some (.scrubberBusy, 0)
  else if (route.head?.map (·.1)) ≠ r.current then some (.badStart, 1)
  else match s.firstNotAdjacent route with
    | some i => some (.notAdjacent, i)
    | none =>
      match firstRepeated [] route with
      | some i => some (.repeated, i)
      | none =>
        if m = .scrub then (route.find? (fun e => !s.permitsScrub e.1)).map (fun e => (Result.floor, e.2)) else none

/-- The structural pass of a fleet commit (R61): the failure, or the scrubber and mode of the draft. -/
def State.structuralFleet (s : State) (k : SlotIx) : Except (Result × Nat) (ScrubIx × AuthMode) :=
  let d := (s.slot k).draft
  match ixOf 16 d.scrubber.toNat, authModeOf d.mode, d.lengthOk with
  | some x, some m, true =>
    match s.firstOutOfRange d with
    | some i => .error (.format, i)
    | none =>
      match s.fleetChecks k x m (d.captured.zipIdx 1) with
      | some f => .error f
      | none => .ok (x, m)
  | _, _, _ => .error (.format, 0)

/-- The structural pass of a passenger commit (R62). -/
def State.structuralPassenger (s : State) (k : SlotIx) : Option (Result × Nat) :=
  let d := (s.slot k).draft
  if !d.lengthOk then some (.format, 0)
  else match s.firstOutOfRange d with
    | some i => some (.format, i)
    | none => (firstRepeated [] (d.captured.zipIdx 1)).map (fun i => (Result.repeated, i))

/-! ### Slot record changes -/

/-- The next revision: 255 is followed by 1 (R65, R73). -/
def nextRevision (r : Byte) : Byte := if r = 255 then 1 else r + 1

/-- Tell the tracker the scrubber's live slot, or that it has none (R65, R66, R71, R91). -/
def State.setLive (x : Option ScrubIx) (k : Option FleetIx) (s : State) : State :=
  match x with
  | none => s
  | some x => s.setScrub x { s.scrub x with liveSlot := k }

/-- Set a fleet slot's changed mark (R82); passenger slots have none. -/
def State.setChanged (k : SlotIx) (s : State) : State :=
  if isFleet k then s.setSlot k { s.slot k with changed := true } else s

/-- Clear a slot's changed mark (R80). -/
def State.clearChanged (k : SlotIx) (s : State) : State := s.setSlot k { s.slot k with changed := false }

/-- Record a slot's last result and failing index (R64). -/
def State.setResult (k : SlotIx) (r : Result) (i : Nat) (s : State) : State :=
  s.setSlot k { s.slot k with result := r, failIx := i }

/-- Take scrubber, mode and route from the draft as the slot leaves IDLE (R56, R60; log 18). -/
def State.captureFleet (k : SlotIx) (x : ScrubIx) (m : AuthMode) (s : State) : State :=
  s.setSlot k { s.slot k with scrubber := some x, mode := m, route := (s.slot k).draft.captured }

def State.capturePassenger (k : SlotIx) (s : State) : State :=
  s.setSlot k { s.slot k with route := (s.slot k).draft.captured }

/-- What the return to IDLE does to a slot record (R74, R87, R122; 7.2). -/
def Slot.toIdle (r : Slot) (res : Result) (i : Nat) : Slot :=
  { r with
    state := .idle, endIx := 0, progress := 0, route := [], evidence := [], pendingSet := [], scrubHold := false,
    holdingZones := [], deadline := none, confirmTimer := none, shortenTimer := none, result := res, failIx := i }

/-- A slot returns to IDLE (R74): the record, both words marked dirty, and the changed mark when its handover summary
was not zero before (R82). -/
def State.toIdle (k : SlotIx) (res : Result) (i : Nat) (s : State) : State :=
  let s1 := s.setSlot k ((s.slot k).toIdle res i)
  let s2 := s1.markSlotWords k
  if (s.slot k).state.authority then s2.setChanged k else s2

/-- The core clears the live slot of the slot's scrubber (R91). -/
def State.clearLiveOf (k : SlotIx) (s : State) : State :=
  if isFleet k then s.setLive (s.slot k).scrubber none else s

/-- Take a slot out of the waiting queue (R69). -/
def State.leaveQueue (k : SlotIx) (s : State) : State := s.setQueue (s.queue.filter (fun j => j != k))

/-- Join the waiting queue: a fleet slot at the back, a passenger slot behind the passenger slots (R66, R67, R69). -/
def joinQueue (k : SlotIx) (q : List SlotIx) : List SlotIx :=
  if isFleet k then q ++ [k] else q.filter (fun j => !isFleet j) ++ k :: q.filter isFleet

/-- Remove a passenger slot's claims from every segment of its route (R68). -/
def State.dropClaims (k : SlotIx) (s : State) : State := (s.slot k).route.foldl (fun s g => s.removeClaim k g) s

/-- End a slot with a result: the return to IDLE, the ENDED notice and the cleared live slot (R72, R103, R119, R121). -/
def State.endSlot (k : SlotIx) (res : Result) (s : State) : State :=
  let s1 := s.toIdle k res 0
  (s1.notifySlot .ended k res.code (s1.slot k).revision.toNat).clearLiveOf k

/-- A slot gives back everything it holds and ends (R103, R108, R119, R121). -/
def State.releaseAndEnd (k : SlotIx) (res : Result) (s : State) : State := (s.releaseAll k).endSlot k res

/-- Clear a slot's shorten-overdue mark, and with it its stop-all cause (R116, R117, R119, R123). -/
def State.clearOverdue (k : SlotIx) (s : State) : State := s.setSlot k { s.slot k with overdue := false }

/-! ### Grant and activation (R65, R67, R70) -/

/-- The record of a slot granted over its captured route (R65, steps 2 to 4). -/
def Slot.granted (r : Slot) : Slot :=
  { r with
    state := .granted, endIx := r.route.length, progress := 1, evidence := r.route.map (fun _ => Evidence.none),
    pendingSet := [], scrubHold := false, holdingZones := [], confirmTimer := none, shortenTimer := none,
    deadline := none, result := .granted, failIx := 0, revision := nextRevision r.revision, changed := true }

/-- The grant of a fleet slot (R65, R71). -/
def State.grant (k : SlotIx) (s : State) : State :=
  let s1 := s.takeHold k
  let s2 := (s1.setSlot k (s1.slot k).granted).leaveQueue k
  let s3 := (s2.setLive (s2.slot k).scrubber (asFleet k)).markSlotWords k
  s3.notifySlot .granted k (s3.slot k).revision.toNat (s3.slot k).endIx

/-- The record of a passenger slot activated over its route (R67, R70). -/
def Slot.activated (r : Slot) : Slot :=
  { r with
    state := .active, endIx := r.route.length, deadline := none, result := .granted, failIx := 0,
    revision := nextRevision r.revision }

/-- The activation of a passenger slot (R67, R70, R157). -/
def State.activate (k : SlotIx) (s : State) : State :=
  let s1 := s.takeHold k
  let s2 := ((s1.setSlot k (s1.slot k).activated).leaveQueue k).markDirty (.slotStatus k)
  (s2.setOps .passengerActive).notifySlot .passengerActive k (s2.slot k).revision.toNat (s2.slot k).route.length

/-! ### Shortening (R112 to R114) -/

/-- The record of a GRANTED slot shortened to e (R113). -/
def Slot.shortenedGranted (r : Slot) (e : Nat) : Slot :=
  { r with endIx := e, revision := nextRevision r.revision, changed := true }

/-- The record of a DELIVERED, ACTIVE or SHORTENING slot shortened to e: the indices newly pending, and the shorten
timer's expiry (R114). -/
def Slot.shortenedSent (r : Slot) (e : Nat) (newly : List Nat) (expiry : Word) : Slot :=
  { r with
    pendingSet := newly.foldl (fun p i => insertBy id i p) r.pendingSet, endIx := e,
    revision := nextRevision r.revision, state := .shortening, confirmTimer := none, shortenTimer := some expiry,
    changed := true }

/-- What every shortening that changes the end index does at its end (R112). -/
def State.shortenedNotice (k : SlotIx) (s : State) : State :=
  (s.markDirty (.slotStatus k)).notifySlot .shortened k (s.slot k).revision.toNat (s.slot k).endIx

/-- The effective end index (R112). -/
def Slot.effectiveEnd (r : Slot) (e : Nat) : Nat := max e r.progress

/-- The shortening request (R112): nothing for a passenger slot, an IDLE or WAITING slot, or an effective end that is
not below the end index. -/
def State.shorten (k : SlotIx) (e : Nat) (s : State) : State :=
  let r := s.slot k
  let e' := r.effectiveEnd e
  if !isFleet k || !r.state.authority || decide (r.endIx ≤ e') then s
  else if r.state = .granted then
    let s1 := s.releaseWhere k (fun x => decide (e' < x.2))
    (s1.setSlot k ((s1.slot k).shortenedGranted e')).shortenedNotice k
  else
    let newly := (s.heldAbove k e').map (·.2)
    let s1 := s.markPending k e'
    (s1.setSlot k ((s1.slot k).shortenedSent e' newly (s.after s.shortenTimeout))).shortenedNotice k

/-- Shorten the fleet slot that holds a segment ahead of its scrubber to the index before it, unless it is the slot to
leave out (R106 step 4, R108 step 3, R150 step 2). -/
def State.shortenHolder (g : SegIx) (except : Option SlotIx) (s : State) : State :=
  match (s.seg g).holder with
  | none => s
  | some k =>
    if isFleet k && some k != except then
      match (s.slot k).indexOf g with
      | some i => if (s.slot k).progress < i then s.shorten k (i - 1) else s
      | none => s
    else s

/-- Shorten a slot to its progress index (R106 step 3, R121, R150 step 3). -/
def State.shortenToProgress (k : SlotIx) (s : State) : State := s.shorten k (s.slot k).progress

/-! ### The waiting queue (R69 to R71) -/

/-- Note a new failure of a waiting slot (R70, R71). -/
def State.stillWaiting (k : SlotIx) (f : Result × Nat) (s : State) : State := s.setResult k f.1 f.2

/-- The checks of a waiting fleet slot's scrubber (R71). -/
def State.waitingScrubberCheck (s : State) (x : ScrubIx) (route : List SegIx) : Option (Result × Nat) :=
  let r := s.scrub x
  if r.state = .lost then some (.scrubberLost, 0)
  else if r.state ≠ .heard then some (.notPlaced, 0)
  else if r.mark then some (.violation, 0)
  else if route.head? ≠ r.current then some (.badStart, 1)
  else none

/-- A waiting fleet slot ends at re-evaluation with a permanent failure (R71). -/
def State.endWaiting (k : SlotIx) (f : Result × Nat) (s : State) : State :=
  let s1 := ((s.leaveQueue k).toIdle k f.1 f.2).clearLiveOf k
  s1.notifySlot .refused k f.1.code f.2

/-- The evaluation of one entry of the queue (R70, R71). -/
def State.reevalEntry (k : SlotIx) (s : State) : State :=
  if (s.slot k).state ≠ .waiting then s
  else if isFleet k then
    match (s.slot k).scrubber with
    | none => s
    | some x =>
      match s.waitingScrubberCheck x (s.slot k).route with
      | some f => s.endWaiting k f
      | none =>
        match s.availability k with
        | none => s.grant k
        | some f => if f.1.transient then s.stillWaiting k f else s.endWaiting k f
  else
    match s.availability k with
    | none => s.activate k
    | some f => s.stillWaiting k f

/-- The re-evaluation of the waiting queue (R70): front to back, as the queue stands when the pass begins. -/
def State.reevaluate (s : State) : State := s.queue.foldl (fun s k => s.reevalEntry k) s

/-- The end of an event (R39): one re-evaluation when a freeing change was made; those it makes itself start none. -/
def State.settle (s : State) : State :=
  if s.freeing then s.reevaluate.clearFreeing else s

/-- One event at the core: its changes, then its end (R39). -/
def State.event (f : State → State) (s : State) : State := (f s.clearFreeing).settle

/-! ### Preemption (R155) -/

/-- The first route index from progress + 1 to the end that holds a segment of a list (R155). -/
def Slot.firstReaching (r : Slot) (want : SegIx → Bool) : Option Nat :=
  (r.entries.find? (fun e => decide (r.progress < e.2) && decide (e.2 ≤ r.endIx) && want e.1)).map (·.2)

/-- Shorten a live fleet slot before the first segment of its remaining route that is wanted (R147, R155). -/
def State.shortenBefore (k : SlotIx) (want : SegIx → Bool) (s : State) : State :=
  match (s.slot k).firstReaching want with
  | some i => s.shorten k (i - 1)
  | none => s

/-- The preemption of a waiting passenger slot (R155). -/
def State.preempt (route : List SegIx) (s : State) : State :=
  (List.finRange 20).foldl
    (fun s k =>
      if (s.slot (fleetSlot k)).state.authority then s.shortenBefore (fleetSlot k) (fun g => decide (g ∈ route)) else s) s

/-! ### Commit (R59 to R67) -/

/-- A commit that leaves the slot IDLE (R59, R66). -/
def State.refuseCommit (k : SlotIx) (f : Result × Nat) (s : State) : State :=
  ((s.setResult k f.1 f.2).markDirty (.slotStatus k)).notifySlot .refused k f.1.code f.2

/-- A REFUSED notice that is not recorded in the slot (R59 step 2, R120, R121). -/
def State.refuseOnly (k : SlotIx) (r : Result) (s : State) : State := s.notifySlot .refused k r.code 0

/-- The slot becomes WAITING with a deadline (R66, R67). -/
def State.beginWaiting (k : SlotIx) (f : Result × Nat) (limit : Nat) (s : State) : State :=
  let d := s.after (10 * limit)
  let s1 := s.setSlot k { s.slot k with state := .waiting, deadline := some d, result := f.1, failIx := f.2 }
  let s2 := s1.setQueue (joinQueue k s1.queue)
  (s2.markDirty (.slotStatus k)).notify .waiting [pack4 (k.val + 1) f.1.code f.2 0, d]

/-- A fleet commit that is taken (R61, R63, R65, R66). -/
def State.commitFleet (k : SlotIx) (wait : Bool) (s : State) : State :=
  match s.structuralFleet k with
  | .error f => s.refuseCommit k f
  | .ok (x, m) =>
    let s1 := s.captureFleet k x m
    match s1.availability k with
    | none => s1.grant k
    | some f =>
      if wait && f.1.transient && decide (0 < s.fleetWaitLimit) then
        (s1.setLive (some x) (asFleet k)).beginWaiting k f s.fleetWaitLimit
      else s.refuseCommit k f

/-- A passenger commit that is taken (R62, R63, R67, R154). -/
def State.commitPassenger (k : SlotIx) (s : State) : State :=
  match s.structuralPassenger k with
  | some f => s.refuseCommit k f
  | none =>
    let s1 := s.capturePassenger k
    match s1.availability k with
    | none => s1.activate k
    | some f =>
      let s2 := s1.beginWaiting k f s.passengerWaitLimit
      let s3 := (s2.slot k).route.foldl (fun s g => s.addClaim k g) s2
      s3.preempt (s3.slot k).route

/-- A write of a slot's commit word (R59). -/
def State.commitWrite (k : SlotIx) (v : Word) (s : State) : State :=
  s.event fun s =>
    if s.mode ≠ .service then s.refuseCommit k (.notInService, 0)
    else if (s.slot k).state.live then s.refuseOnly k .state
    else if v ≠ commitValue ∧ v ≠ commitWaitValue then s.refuseCommit k (.format, 0)
    else if isFleet k then s.commitFleet k (decide (v = commitWaitValue))
    else s.commitPassenger k

/-! ### Cancel (R120, R121, R158) -/

/-- The release of an ACTIVE passenger slot (R158). -/
def State.releasePassenger (k : SlotIx) (s : State) : State :=
  let s1 := (s.releaseAll k).toIdle k .released 0
  s1.notifySlot .passengerReleased k (s1.slot k).revision.toNat 0

/-- A cancel of a DELIVERED, ACTIVE or SHORTENING fleet slot (R121). -/
def State.cancelSent (k : SlotIx) (s : State) : State :=
  let r := s.slot k
  if r.progress < r.endIx then s.shortenToProgress k
  else if r.state = .active then s.releaseAndEnd k .cancelled
  else s.refuseOnly k .state

/-- A cancel taken in a state other than IDLE (R120, R121, R158). -/
def State.cancelLive (k : SlotIx) (s : State) : State :=
  match (s.slot k).state with
  | .idle => s.refuseOnly k .state
  | .waiting =>
    let s1 := s.leaveQueue k
    (if isFleet k then s1 else s1.dropClaims k).endSlot k .cancelled
  | .granted => s.releaseAndEnd k .cancelled
  | .active => if isFleet k then s.cancelSent k else s.releasePassenger k
  | .delivered | .shortening => s.cancelSent k

/-- A write of a slot's cancel word (R120). -/
def State.cancelWrite (k : SlotIx) (v : Word) (s : State) : State :=
  s.event fun s => if v ≠ cancelValue then s.refuseOnly k .format else s.cancelLive k

/-! ### Draft, handover, timers -/

/-- The capture of a draft word (R58): the record changes nothing that the status word shows. -/
def State.draftWrite (k : SlotIx) (w : Fin 11) (v : Word) (s : State) : State :=
  s.setSlot k { s.slot k with draft := (s.slot k).draft.written w v }

/-- The record of a delivered slot (R79, steps 1 to 3). -/
def Slot.delivered (r : Slot) (expiry : Word) : Slot :=
  { r with state := .delivered, confirmTimer := some expiry, changed := false }

/-- What a gateway read of a fleet slot's handover word does at the core (R79, R80). -/
def State.gatewayHandover (k : SlotIx) (s : State) : State :=
  if (s.slot k).state = .granted then
    (s.setSlot k ((s.slot k).delivered (s.after s.confirmTimeout))).markDirty (.slotStatus k)
  else s.clearChanged k

/-- A confirm timer's expiry (R88), when the clock has reached it (log 7). -/
def State.confirmExpiry (k : SlotIx) (s : State) : State :=
  if (s.slot k).confirmTimer = some s.clock then
    let s1 := s.setSlot k { s.slot k with confirmTimer := none }
    (s1.setDsp .confirmOverdue).notifySlot .confirmOverdue k (s1.slot k).revision.toNat 0
  else s

/-- Set a slot's shorten-overdue mark (R123). -/
def State.setOverdue (k : SlotIx) (s : State) : State := s.setSlot k { s.slot k with overdue := true }

/-- A shorten timer's expiry (R123), when the clock has reached it (log 7). -/
def State.shortenExpiry (k : SlotIx) (s : State) : State :=
  if (s.slot k).shortenTimer = some s.clock then
    let s1 := s.setSlot k { s.slot k with shortenTimer := none }
    let s2 := if (s1.slot k).overdue then s1
      else (s1.raising (State.setOverdue k)).setDsp .shortenOverdue
    s2.notifySlot .shortenOverdue k (s2.slot k).revision.toNat 0
  else s

/-- A wait deadline's expiry (R72, R159), when the clock has reached it (log 7). -/
def State.waitExpiry (k : SlotIx) (s : State) : State :=
  if (s.slot k).state = .waiting ∧ (s.slot k).deadline = some s.clock then
    s.event fun s =>
      let s1 := s.leaveQueue k
      if isFleet k then s1.endSlot k .waitExpired
      else ((s1.dropClaims k).endSlot k .waitExpired).setOps .passengerExpired
  else s

end Sys2Proof.Machine
end

