-- ==== Sys2Proof/Machine/Recovery.lean ====
section
/-! DEFINITION. A restart of every block, and the entry to SERVICE (12_restart_and_recovery; R134, R172 to R177). -/
namespace Sys2Proof.Machine
open Sys2Proof

/-- A restart (R172): every block at its reset value, the cause recorded, the RESTART notice staged. What stands outside
the part stays: plan memory with its parity, and the level of the reset line (log 5, log 24). -/
def State.restart (c : Cause) (s : State) : State :=
  { pending := s.pending, mem := s.mem, badParity := s.badParity, lineHeld := s.lineHeld, cause := c,
    staging := [restartNotice c] }

/-- Whether the site model enrols a scrubber (R10). -/
def State.isEnrolled (s : State) (x : ScrubIx) : Bool :=
  match s.site with
  | none => false
  | some m => m.enrolled.getLsbD x.val

/-- One scrubber's part of the entry conditions 2 and 3 (R176). -/
def State.accounted (s : State) (x : ScrubIx) : Bool :=
  let r := s.scrub x
  (!s.isEnrolled x || r.state == .heard || r.state == .withdrawn) && (r.state != .heard || r.flags.stopped)

/-- The entry conditions of SERVICE (R176). -/
def State.serviceReady (s : State) : Bool :=
  s.ackRestart && (List.finRange 16).all s.accounted && !s.anyMark

/-- The restart-wet marking (R134). -/
def State.restartWet (s : State) : State :=
  s.segIxs.foldl (fun s g => if (s.floorClass (s.resolvedClass g)).restartWet then s.markWet g else s) s

/-- The entry to SERVICE (R177); the mode cause of stop-all goes with the mode. -/
def State.enterService (s : State) : State :=
  let s1 := ({ s with mode := .service } : State).restartWet
  s1.notify .serviceEntered [pack4 s1.cause.code 0 0 0]

/-- The site loader judges the conditions at the end of an event in RECOVERY that can make them hold (R176). -/
def State.judgeService (s : State) : State :=
  if s.mode = .recovery && s.serviceReady then s.enterService else s

/-- What ACK_RESTART does (R176). -/
def State.acknowledge (s : State) : State := ({ s with ackRestart := true } : State).judgeService

end Sys2Proof.Machine
end

