-- ==== Sys2Proof/Machine/Tracker.lean ====
section
/-! DEFINITION. The fleet tracker: reports, loss, and the scrubber commands (06; R85, R86, R89 to R110, R116 to R119). -/
namespace Sys2Proof.Machine
open Sys2Proof

/-- Where a valid report puts its scrubber. -/
structure Position where
  current : SegIx
  trailing : Option SegIx
  deriving DecidableEq, Repr

/-- The segments a scrubber stands on, current first. -/
def Position.segs (p : Position) : List SegIx := p.current :: p.trailing.toList

/-- Validity (R93): the scrubber and position of a valid report, or none. -/
def State.validReport (s : State) (r : Report) : Option (ScrubIx × Position) :=
  match ixOf 16 r.scrubber.toNat, ixOf 255 r.current.toNat with
  | some x, some c =>
    if (s.scrub x).state = .absent ∨ s.n ≤ c.val then none
    else match ixOf 255 r.trailing.toNat with
      | none => some (x, { current := c, trailing := none })
      | some t =>
        if s.n ≤ t.val ∨ t = c ∨ s.adjacent c t = false then none
        else some (x, { current := c, trailing := some t })
  | _, _ => none

/-- A scrubber's live slot when that slot is DELIVERED, ACTIVE or SHORTENING (R95). -/
def State.sentSlot (s : State) (x : ScrubIx) : Option SlotIx :=
  match (s.scrub x).liveSlot with
  | none => none
  | some k => if (s.slot (fleetSlot k)).state.sent then some (fleetSlot k) else none

/-- Step 2 (R94). -/
def State.hear (x : ScrubIx) (p : Position) (s : State) : State :=
  let r := s.scrub x
  if r.state = .unheard ∨ r.state = .lost then
    (s.setScrub x { r with state := .heard }).notify .scrubberHeard [pack4 (x.val + 1) (p.current.val + 1) 0 0]
  else s

/-- The allowed set (R95). -/
def State.allowed (s : State) (x : ScrubIx) (g : SegIx) : Bool :=
  (s.scrub x).current == some g || (s.scrub x).trailing == some g
    || (match s.sentSlot x with
        | none => false
        | some k => decide (g ∈ (s.slot k).route) && (s.seg g).holder == some k)

/-- Whether a reported segment is violated (R96). -/
def State.violated (s : State) (x : ScrubIx) (first : Bool) (g : SegIx) : Bool :=
  (if first then (s.seg g).holder.isSome && (s.scrub x).parked != some g else !s.allowed x g)
    || ((s.seg g).occupant.isSome && (s.seg g).occupant != some x)

/-- The segments a scrubber occupies, in increasing number. -/
def State.occupiedBy (s : State) (x : ScrubIx) : List SegIx :=
  s.segIxs.filter (fun g => (s.seg g).occupant == some x)

/-- The occupancy move (R97). -/
def State.moveTo (x : ScrubIx) (p : Position) (s : State) : State :=
  let left := (s.occupiedBy x).filter (fun g => !decide (g ∈ p.segs))
  let s1 := p.segs.foldl (fun s g => s.setOccupant x g) s
  let s2 := left.foldl (fun s g => s.clearOccupant x g) s1
  s2.setScrub x { s2.scrub x with current := some p.current, trailing := p.trailing, parked := none }

/-- The progress index after a report at route index j (R98). -/
def Slot.advanced (r : Slot) (j : Nat) : Slot := { r with progress := min (max r.progress j) r.endIx }

/-- Step 4 (R98). -/
def State.progressTo (x : ScrubIx) (p : Position) (s : State) : State :=
  match s.sentSlot x with
  | none => s
  | some k =>
    match (s.slot k).indexOf p.current with
    | none => s
    | some j => s.setSlot k ((s.slot k).advanced j)

/-- Whether the scrubber stands beyond the end: on a pending segment of its SHORTENING slot (R98; log 31). -/
def State.beyondEnd (s : State) (x : ScrubIx) (p : Position) : Bool :=
  match s.sentSlot x with
  | none => false
  | some k =>
    let r := s.slot k
    match r.indexOf p.current with
    | none => false
    | some j => r.state == .shortening && decide (r.endIx < j) && decide (j ∈ r.pendingSet)

/-- Set a scrubber's violation mark (R106). -/
def State.placeMark (x : ScrubIx) (s : State) : State := s.setScrub x { s.scrub x with mark := true }

/-- Set a scrubber's violation mark; STOPALL follows (R106, R124). -/
def State.setMark (x : ScrubIx) (s : State) : State := s.raising (State.placeMark x)

/-- Step 5 (R106, R107): v lists the violated segments, current first. -/
def State.violation (x : ScrubIx) (p : Position) (v : List SegIx) (s : State) : State :=
  match v with
  | [] => s
  | first :: _ =>
    let own := (s.scrub x).liveSlot.map fleetSlot
    let s1 := if (s.scrub x).mark then s else s.setMark x
    let s2 := match own with
      | none => s1
      | some k => s1.shortenToProgress k
    let s3 := v.foldl (fun s g => s.shortenHolder g own) s2
    if (s.scrub x).mark then s3
    else (s3.setDsp .violation).notify .violation
      [pack4 (x.val + 1) (p.current.val + 1) (first.val + 1) 0]

/-- Step 6 (R99). -/
def State.releaseBehind (x : ScrubIx) (p : Position) (s : State) : State :=
  match s.sentSlot x with
  | none => s
  | some k => s.releaseWhere k (fun e => decide (e.2 < (s.slot k).progress) && !decide (e.1 ∈ p.segs))

/-- The evidence of an entry the scrubber stands on (R100). -/
def Evidence.seen (scrubbing : Bool) : Evidence → Evidence
  | .none => if scrubbing then .seenScrubbing else .seenDry
  | .seenDry => if scrubbing then .seenScrubbing else .seenDry
  | .seenScrubbing => .seenScrubbing

/-- A slot's evidence after a report (R100). -/
def Slot.evidenced (r : Slot) (p : Position) (scrubbing : Bool) : Slot :=
  { r with
    evidence := (r.route.zip r.evidence).map (fun e => if e.1 ∈ p.segs then Evidence.seen scrubbing e.2 else e.2) }

/-- Step 7 (R100). -/
def State.witness (x : ScrubIx) (p : Position) (scrubbing : Bool) (s : State) : State :=
  match s.sentSlot x with
  | none => s
  | some k => s.setSlot k ((s.slot k).evidenced p scrubbing)

/-- The status word is dirty and a CONFIRMED notice goes out (R85, R116, R117). -/
def State.confirmedNotice (k : SlotIx) (s : State) : State :=
  (s.markDirty (.slotStatus k)).notifySlot .confirmed k (s.slot k).revision.toNat 0

/-- The confirmation of a delivery (R85). -/
def State.confirm (k : SlotIx) (s : State) : State :=
  (s.setSlot k { s.slot k with state := .active, confirmTimer := none }).confirmedNotice k

/-- The confirmation of a shortening (R116). -/
def State.confirmShortening (k : SlotIx) (s : State) : State :=
  let s1 := s.releaseWhere k (fun e => decide (e.2 ∈ (s.slot k).pendingSet))
  (s1.setSlot k
    { s1.slot k with state := .active, pendingSet := [], shortenTimer := none, overdue := false }).confirmedNotice k

/-- The confirmation from beyond the end (R117). -/
def State.confirmBeyond (k : SlotIx) (p : Position) (s : State) : State :=
  let s1 := s.releaseWhere k (fun e => decide (e.2 ∈ (s.slot k).pendingSet) && !decide (e.1 ∈ p.segs))
  let s2 := (s1.releaseAll k).clearOverdue k
  (s2.confirmedNotice k).endSlot k .completed

/-- A slot gives up everything and its overdue mark, and ends (R108 step 1, R119). -/
def State.giveUp (k : SlotIx) (res : Result) (s : State) : State := ((s.releaseAll k).clearOverdue k).endSlot k res

/-- Step 8 (R102): confirmation, confirmation of a shortening, disclaimer, or nothing. -/
def State.slotField (x : ScrubIx) (p : Position) (r : Report) (beyond : Bool) (s : State) : State :=
  match s.sentSlot x with
  | none => s
  | some k =>
    if r.slot = 0 then s.giveUp k .disclaimed
    else if r.slot.toNat ≠ k.val + 1 ∨ r.revision ≠ (s.slot k).revision then s
    else match (s.slot k).state with
      | .delivered => s.confirm k
      | .shortening => if beyond then s.confirmBeyond k p else s.confirmShortening k
      | .idle | .waiting | .granted | .active => s

/-- Whether a report completes a slot (R103). -/
def Slot.completedBy (r : Slot) (p : Position) (f : ReportFlags) : Bool :=
  r.state == .active && r.entryAt r.endIx == some p.current && p.trailing.isNone && f.endReached

/-- Step 9 (R103). -/
def State.complete (x : ScrubIx) (p : Position) (f : ReportFlags) (s : State) : State :=
  match s.sentSlot x with
  | none => s
  | some k => if (s.slot k).completedBy p f then s.releaseAndEnd k .completed else s

/-- The record that a processed report leaves (R104). -/
def Scrubber.reported (r : Scrubber) (now expiry : Word) (p : Report) : Scrubber :=
  { r with lastTime := now, timer := some expiry, flags := p.flags, lastSlot := p.slot, lastRevision := p.revision }

/-- Step 10 (R104). -/
def State.storeReport (x : ScrubIx) (r : Report) (s : State) : State :=
  (s.setScrub x ((s.scrub x).reported s.clock (s.after s.reportTimeout) r)).markDirty (.scrubView x)

/-- Steps 2 to 10 of a valid report from a scrubber that is not WITHDRAWN (R92). -/
def State.processReport (x : ScrubIx) (p : Position) (r : Report) (s : State) : State :=
  let first := (s.scrub x).state == .unheard
  let s2 := s.hear x p
  let v := p.segs.filter (fun g => s2.violated x first g)
  let s3 := s2.moveTo x p
  let beyond := s3.beyondEnd x p
  let s4 := s3.progressTo x p
  let s5 := s4.violation x p v
  let s6 := s5.releaseBehind x p
  let s7 := s6.witness x p r.flags.scrubbing
  let s8 := s7.slotField x p r beyond
  let s9 := s8.complete x p r.flags
  s9.storeReport x r

/-- An invalid report is discarded with a flag and a notice (R93). -/
def State.invalidReport (c : CellIx) (r : Report) (s : State) : State :=
  (s.setDsp .reportInvalid).notify .reportInvalid [pack4 c.val r.scrubber.toNat 0 0]

/-- The report event: word 3 of a cell is written (R89, R92, R93). -/
def State.reportEvent (c : CellIx) (v : Word) (s : State) : State :=
  let r := reportOf (s.cell c) v
  let s1 := s.setCell c {}
  match s1.validReport r with
  | none => s1.invalidReport c r
  | some (x, p) =>
    if (s1.scrub x).state = .withdrawn then
      s1.notify .withdrawnHeard [pack4 (x.val + 1) (p.current.val + 1) 0 0]
    else (s1.event (fun s => s.processReport x p r)).judgeService

/-- A gateway write of word 0, 1 or 2 of a cell (R89). -/
def State.cellWrite (c : CellIx) (w : Fin 3) (v : Word) (s : State) : State := s.setCell c ((s.cell c).written w v)

/-- A report timer's expiry (R105), when the clock has reached it (log 7). -/
def State.lostExpiry (x : ScrubIx) (s : State) : State :=
  let r := s.scrub x
  if r.state = .heard ∧ r.timer = some s.clock then
    let s1 := (s.setScrub x { r with state := .lost, timer := none }).markDirty (.scrubView x)
    (s1.setDsp .scrubberLost).notify .scrubberLost [pack4 (x.val + 1) (numOf r.current) 0 0]
  else s

/-! ### The scrubber commands (R108 to R110) -/

/-- WITHDRAW, step 1: the live slot ends (R108). -/
def State.withdrawSlot (x : ScrubIx) (s : State) : State :=
  match (s.scrub x).liveSlot with
  | none => s
  | some j =>
    if (s.slot (fleetSlot j)).state.authority then s.giveUp (fleetSlot j) .withdrawn
    else (s.leaveQueue (fleetSlot j)).endSlot (fleetSlot j) .withdrawn

/-- WITHDRAW, step 3: the scrubber is parked, and fleet slots that hold the segment ahead are shortened (R108). -/
def State.park (x : ScrubIx) (g : Option SegIx) (s : State) : State :=
  match g with
  | none => s
  | some g => (s.setOccupant x g).shortenHolder g none

/-- A scrubber record withdrawn (R108, steps 4 and 5). -/
def Scrubber.withdrawn (r : Scrubber) (g : Option SegIx) : Scrubber :=
  { r with state := .withdrawn, mark := false, current := none, trailing := none, timer := none, parked := g }

/-- What a WITHDRAW that passes its checks does (R108). -/
def State.withdraw (x : ScrubIx) (g : Option SegIx) (s : State) : State :=
  s.event fun s =>
    let s1 := s.withdrawSlot x
    let s2 := (s1.occupiedBy x).foldl (fun s h => s.clearOccupant x h) s1
    let s3 := s2.park x g
    (s3.setScrub x ((s3.scrub x).withdrawn g)).markDirty (.scrubView x)

/-- What a READMIT that passes its checks does (R109). -/
def State.readmit (x : ScrubIx) (s : State) : State :=
  (s.setScrub x { s.scrub x with state := .unheard }).markDirty (.scrubView x)

/-- What a CLEAR_VIOLATION that passes its checks does (R110). -/
def State.liftMark (x : ScrubIx) (s : State) : State :=
  (s.setScrub x { s.scrub x with mark := false }).markDirty (.scrubView x)

end Sys2Proof.Machine
end

