-- ==== Sys2Proof/Machine/Zones.lean ====
section
/-! DEFINITION. The zone presence monitor (09_the_zone_presence_monitor; R136 to R148). -/
namespace Sys2Proof.Machine
open Sys2Proof

/-! ### Arithmetic of a sample (R138) -/

/-- A value moved toward a target by their difference over 2 to a shift, the quotient truncated toward zero (R138). -/
def towards (v target shift : Nat) : Nat := ((v : Int) + ((target : Int) - (v : Int)).tdiv (2 ^ shift)).toNat

/-- The exit threshold (R138). -/
def Profile.exitThreshold (p : Profile) : Nat := p.presence * (256 - p.hysteresis) / 256

/-- Whether a delta exceeds the entry threshold (R138). -/
def Profile.exceeds (p : Profile) (d : Int) : Bool := decide ((p.presence : Int) < d)

/-- Whether a delta is below the exit threshold (R138). -/
def Profile.leaves (p : Profile) (d : Int) : Bool := decide (d < (p.exitThreshold : Int))

/-- Whether the baseline follows at its own shift in a state (R138, step 3). -/
def ZoneState.follows : ZoneState → Bool
  | .settling | .quiet => true
  | .unseeded | .entering | .present | .leaving | .stale => false

/-- The baseline after a sample, from the delta of step 2 (R138, step 3). -/
def baselineAfter (p : Profile) (st : ZoneState) (filtered baseline : Nat) (d : Int) : Nat :=
  if d < -(p.fastBound : Int) then towards baseline filtered p.fastShift
  else if st.follows && decide (d < (p.halt : Int)) then towards baseline filtered p.baselineShift
  else baseline

/-- Whether the halt timer may start in a state (R144). -/
def ZoneState.haltable : ZoneState → Bool
  | .settling | .quiet | .entering => true
  | .unseeded | .present | .leaving | .stale => false

/-- The halt timer at a sample (R144); an entry to PRESENT stops it after all. -/
def Zone.haltChecked (r : Zone) (p : Profile) (d : Int) (expiry : Word) : Zone :=
  if d < (p.halt : Int) then { r with haltTimer := none }
  else if r.state.haltable && r.haltTimer.isNone && p.stuckTimeout != 0 then { r with haltTimer := some expiry }
  else r

/-! ### Notices and entries to states -/

/-- A ZONE notice, when the zone's profile asks for them (R146, R168). -/
def State.zoneNotice (kind : NoticeKind) (z : ZoneIx) (s : State) : State :=
  if (s.profile z).notices then
    s.notify kind [pack4 (z.val + 1) 0 0 0, pack2 (s.zone z).filtered (s.zone z).baseline]
  else s

/-- Remove a zone from a slot's holding zones (R148). -/
def State.dropHolding (z : ZoneIx) (k : SlotIx) (s : State) : State :=
  if z ∈ (s.slot k).holdingZones then
    let rest := (s.slot k).holdingZones.filter (fun y => y != z)
    if rest.isEmpty then (s.setSlot k { s.slot k with holdingZones := rest, scrubHold := false }).setChanged k
    else s.setSlot k { s.slot k with holdingZones := rest }
  else s

/-- A zone reaches QUIET (R148): its holds go, and the queue is re-evaluated at the end of the event (R39). -/
def State.reachQuiet (z : ZoneIx) (s : State) : State :=
  let s1 := s.setZone z { s.zone z with state := .quiet, quietTimer := none }
  let s2 := (List.finRange 20).foldl (fun s k => s.dropHolding z (fleetSlot k)) s1
  (s2.zoneNotice .zoneQuiet z).noteFreeing

/-- An entry to SETTLING, or to QUIET when the quiet time is 0 (R142); the stuck timer stops (R141, R144). -/
def State.enterSettling (z : ZoneIx) (s : State) : State :=
  let q := (s.profile z).quietTime
  if q = 0 then (s.setZone z { s.zone z with stuckTimer := none }).reachQuiet z
  else s.setZone z { s.zone z with state := .settling, stuckTimer := none, quietTimer := some (s.after (10 * q)) }

/-- A reseed (R145). -/
def State.reseed (z : ZoneIx) (s : State) : State :=
  let r := s.zone z
  let s1 := s.setZone z { r with baseline := r.filtered, debounce := 0, stuckTimer := none, haltTimer := none }
  (s1.enterSettling z).zoneNotice .zoneReseeded z

/-- Whether a segment lies in a zone (R2). -/
def State.inZone (s : State) (z : ZoneIx) (g : SegIx) : Bool := (s.fixed g).zone == some z

/-- Whether a scrubber's current or trailing segment lies in a zone (R147). -/
def State.standsIn (s : State) (x : ScrubIx) (z : ZoneIx) : Bool :=
  ((s.scrub x).current.toList ++ (s.scrub x).trailing.toList).any (s.inZone z)

/-- A slot takes a zone into its holding zones (R147, case 1). -/
def State.addHolding (z : ZoneIx) (k : SlotIx) (s : State) : State :=
  let r := s.slot k
  let r' : Slot := { r with holdingZones := insertBy Fin.val z r.holdingZones }
  if r.holdingZones.isEmpty then (s.setSlot k { r' with scrubHold := true }).setChanged k else s.setSlot k r'

/-- What a zone turning PRESENT does to one fleet slot (R147). -/
def State.presentSlot (z : ZoneIx) (k : SlotIx) (s : State) : State :=
  let r := s.slot k
  if r.mode = .scrub ∧ r.state.authority = true then
    if (match r.scrubber with
        | none => false
        | some x => s.standsIn x z) then s.addHolding z k
    else s.shortenBefore k (s.inZone z)
  else s

/-- A zone record that enters PRESENT (R141). -/
def Zone.entered (r : Zone) (p : Profile) (expiry : Word) : Zone :=
  { r with
    state := .present, quietTimer := none, debounce := 0, haltTimer := none,
    stuckTimer := if p.stuckTimeout = 0 then none else some expiry }

/-- The stuck timeout in tenths, 600 to the minute (R141). -/
def Profile.stuckTenths (p : Profile) : Nat := 600 * p.stuckTimeout

/-- An entry to PRESENT (R141, R147). -/
def State.enterPresent (z : ZoneIx) (s : State) : State :=
  let p := s.profile z
  let s1 := s.setZone z ((s.zone z).entered p (s.after p.stuckTenths))
  let s2 := (List.finRange 20).foldl (fun s k => s.presentSlot z (fleetSlot k)) s1
  s2.zoneNotice .zonePresent z

/-- A failed entry returns to the return state (R140). -/
def State.endEntry (z : ZoneIx) (s : State) : State :=
  let r : Zone := { s.zone z with debounce := 0 }
  match r.ret with
  | .settling => s.setZone z { r with state := .settling }
  | .quiet => (s.setZone z r).reachQuiet z

/-- The judgement of a sample from the state it found (R138 step 4, R139 to R141). -/
def State.judgeZone (z : ZoneIx) (d : Int) (s : State) : State :=
  let p := s.profile z
  let r := s.zone z
  match r.state with
  | .settling =>
    if !p.exceeds d then s
    else if p.debounceIn = 1 then s.enterPresent z
    else s.setZone z { r with state := .entering, debounce := 1, ret := .settling }
  | .quiet =>
    if !p.exceeds d then s
    else if p.debounceIn = 1 then s.enterPresent z
    else s.setZone z { r with state := .entering, debounce := 1, ret := .quiet }
  | .entering =>
    if !p.exceeds d then s.endEntry z
    else if p.debounceIn ≤ r.debounce + 1 then s.enterPresent z
    else s.setZone z { r with debounce := r.debounce + 1 }
  | .present =>
    if !p.leaves d then s
    else if p.debounceOut = 1 then s.enterSettling z
    else s.setZone z { r with state := .leaving, debounce := 1 }
  | .leaving =>
    if !p.leaves d then s.setZone z { r with state := .present, debounce := 0 }
    else if p.debounceOut ≤ r.debounce + 1 then
      (s.setZone z { r with debounce := r.debounce + 1 }).enterSettling z
    else s.setZone z { r with debounce := r.debounce + 1 }
  | .unseeded | .stale => s

/-- A sample in a seeded state other than STALE (R138). -/
def State.workSample (z : ZoneIx) (fig : Nat) (s : State) : State :=
  let p := s.profile z
  let r := s.zone z
  let f := towards r.filtered fig p.filterShift
  let d : Int := (f : Int) - (r.baseline : Int)
  let r1 : Zone := { r with filtered := f, baseline := baselineAfter p r.state f r.baseline d }
  (s.setZone z (r1.haltChecked p d (s.after p.stuckTenths))).judgeZone z d

/-- A sample by the zone's state (R138, R139, R143). -/
def State.takeSample (z : ZoneIx) (fig : Nat) (s : State) : State :=
  let r := s.zone z
  match r.state with
  | .unseeded => (s.setZone z { r with filtered := fig, baseline := fig, debounce := 0 }).enterSettling z
  | .stale => (s.setZone z { r with filtered := towards r.filtered fig (s.profile z).filterShift }).enterSettling z
  | .settling | .quiet | .entering | .present | .leaving => s.workSample z fig

/-- Restart the sample timer: 100 tenths (R138). -/
def State.restartSample (z : ZoneIx) (s : State) : State :=
  s.setZone z { s.zone z with sampleTimer := some (s.after 100) }

/-- A copy of a presence figure word (R137): one sample, or nothing for a zone above z. -/
def State.zoneSample (z : ZoneIx) (fig : Nat) (s : State) : State :=
  if z.val < s.z then s.event (fun s => (s.takeSample z fig).restartSample z) else s

/-- A copy of a moisture figure word (R137). -/
def State.moisture (z : ZoneIx) (fig : Nat) (s : State) : State :=
  if z.val < s.z then s.setZone z { s.zone z with moisture := min fig 1000 } else s

/-! ### Expiries (R142 to R144), each taken when the clock has reached it (log 7) -/

/-- What the quiet timer's expiry does (R142). -/
def State.quietEnds (z : ZoneIx) (s : State) : State :=
  let r : Zone := { s.zone z with quietTimer := none }
  match r.state with
  | .settling => (s.setZone z r).reachQuiet z
  | .entering => s.setZone z { r with ret := .quiet }
  | .unseeded | .quiet | .present | .leaving | .stale => s.setZone z r

/-- The quiet timer's expiry (R142). -/
def State.quietExpiry (z : ZoneIx) (s : State) : State :=
  if (s.zone z).quietTimer = some s.clock then s.event (State.quietEnds z) else s

/-- A zone record that becomes STALE (R143). -/
def Zone.gone (r : Zone) : Zone :=
  { r with state := .stale, debounce := 0, quietTimer := none, stuckTimer := none, haltTimer := none,
           sampleTimer := none }

/-- The sample timer's expiry (R143). -/
def State.staleExpiry (z : ZoneIx) (s : State) : State :=
  if (s.zone z).sampleTimer = some s.clock then
    ((s.setZone z (s.zone z).gone).setDsp .zoneStale).zoneNotice .zoneStale z
  else s

/-- The stuck timer's expiry (R144). -/
def State.stuckExpiry (z : ZoneIx) (s : State) : State :=
  if (s.zone z).stuckTimer = some s.clock then s.event (fun s => s.reseed z) else s

/-- The halt timer's expiry (R144). -/
def State.haltExpiry (z : ZoneIx) (s : State) : State :=
  if (s.zone z).haltTimer = some s.clock then s.event (fun s => s.reseed z) else s

end Sys2Proof.Machine
end

