-- ==== Sys2Proof/Machine/Drying.lean ====
section
/-! DEFINITION. The drying unit's expiries (08_drying; R126 to R132). -/
namespace Sys2Proof.Machine
open Sys2Proof

/-- The segment dries (R129). -/
def State.dry (e : DryEntry) (s : State) : State :=
  let s1 := s.dropEntry e.seg
  let s2 := s1.setSeg e.seg { s1.seg e.seg with wet := none }
  (s2.notify .dry [pack4 (e.seg.val + 1) e.cls.val e.count 0]).noteFreeing

/-- An entry extended by 300 tenths from its old expiry (R130). -/
def DryEntry.extended (e : DryEntry) : DryEntry := { e with expiry := e.expiry + 300, count := e.count + 1 }

/-- The extension of a drying segment (R130). -/
def State.extend (e : DryEntry) (z : ZoneIx) (s : State) : State :=
  let e' := e.extended
  let s1 := s.dropEntry e.seg
  let s2 := s1.setDrying (insertEntry e' s1.drying)
  let s3 := s2.setSeg e.seg { s2.seg e.seg with wet := some { expiry := e'.expiry, count := e'.count } }
  s3.notify .dryingExtended
    [pack4 (e.seg.val + 1) (z.val + 1) e'.count 0, pack2 (s.zone z).moisture (s.profile z).dryThreshold, e'.expiry]

/-- The segment is taken out of use (R131). -/
def State.dryOverdue (e : DryEntry) (z : ZoneIx) (s : State) : State :=
  let s1 := s.dropEntry e.seg
  let s2 := s1.setSeg e.seg
    { s1.seg e.seg with wet := none, closure := { (s1.seg e.seg).closure with drying := true } }
  (s2.setDsp .dryingOverdue).notify .dryingOverdue
    [pack4 (e.seg.val + 1) (z.val + 1) 0 0, pack2 (s.zone z).moisture (s.profile z).dryThreshold]

/-- The expiry of an entry (R129 to R131). -/
def State.expireEntry (e : DryEntry) (s : State) : State :=
  if !e.check then s.dry e
  else match (s.fixed e.seg).zone with
    | none => s.dry e
    | some z =>
      if (s.zone z).moisture ≤ (s.profile z).dryThreshold then s.dry e
      else if e.count < 4 then s.extend e z
      else s.dryOverdue e z

/-- The drying list entry of a segment whose expiry the clock has reached (log 7). -/
def State.dueEntry (s : State) (g : SegIx) : Option DryEntry :=
  s.drying.find? (fun e => e.seg == g && e.expiry == s.clock)

/-- A drying expiry (R129). -/
def State.dryingExpiry (g : SegIx) (s : State) : State :=
  match s.dueEntry g with
  | none => s
  | some e => s.event (fun s => s.expireEntry e)

end Sys2Proof.Machine
end

