-- ==== Sys2Proof/Machine/Closures.lean ====
section
/-! DEFINITION. Closing and reopening floor (10_closures_and_passenger_paths; R149 to R153). -/
namespace Sys2Proof.Machine
open Sys2Proof

/-- Steps 1 to 3 of a closure of one segment whose set lacks the issuer's origin (R150). -/
def State.closeFloor (i : Issuer) (g : SegIx) (s : State) : State :=
  if (s.seg g).closure.hasIssuer i then s
  else
    let s1 := s.setClosure g ((s.seg g).closure.withIssuer i)
    let s2 := s1.shortenHolder g none
    match (s2.seg g).occupant with
    | none => s2
    | some x =>
      match (s2.scrub x).liveSlot with
      | none => s2
      | some k => s2.shortenToProgress (fleetSlot k)

/-- What a CLOSE_SEGMENT that passes its checks does (R150). -/
def State.closeSegment (i : Issuer) (g : SegIx) (s : State) : State :=
  if (s.seg g).closure.hasIssuer i then s
  else s.event fun s =>
    let s1 := s.closeFloor i g
    s1.notify .closed [pack4 (g.val + 1) (originOf i).code (s1.seg g).closure.code 0]

/-- The origins that an issuer's reopen would remove from a segment (R152). -/
def State.reopenable (s : State) (i : Issuer) (g : SegIx) : Closure := (s.seg g).closure.reopenRight i

/-- The removal of origins from one segment (R152). -/
def State.reopenFloor (i : Issuer) (g : SegIx) (s : State) : State :=
  if (s.reopenable i g).closed then s.setClosure g ((s.seg g).closure.less (s.reopenable i g)) else s

/-- What a REOPEN_SEGMENT that passes its checks does (R152); the notice shows the origins that were present and
removed (log 16). -/
def State.reopenSegment (i : Issuer) (g : SegIx) (s : State) : State :=
  if (s.reopenable i g).closed then
    s.event fun s =>
      let s1 := s.reopenFloor i g
      s1.notify .reopened [pack4 (g.val + 1) (s.reopenable i g).code (s1.seg g).closure.code 0]
  else s

/-- The segments of a zone, in increasing number (R153). -/
def State.zoneSegs (s : State) (z : ZoneIx) : List SegIx := s.segIxs.filter (s.inZone z)

/-- The one notice of a zone closure or reopen (R153, R179): bit 7 of the second byte set, the count in the third. Which
origins the second byte shows is open (log 15). -/
def zonePayload (z : ZoneIx) (asked changed : Closure) (count : Nat) : List Word :=
  [pack4 (z.val + 1) (128 + (if Config.zoneNoticeShowsAsked then asked else changed).code) count 0]

/-- What a CLOSE_ZONE that passes its checks does (R153). -/
def State.closeZone (z : ZoneIx) (s : State) : State :=
  s.event fun s =>
    let fresh := (s.zoneSegs z).filter (fun g => !(s.seg g).closure.operations)
    let s1 := fresh.foldl (fun s g => s.closeFloor .operations g) s
    s1.notify .closed (zonePayload z { operations := true } { operations := !fresh.isEmpty } fresh.length)

/-- What a REOPEN_ZONE that passes its checks does (R153). -/
def State.reopenZone (z : ZoneIx) (s : State) : State :=
  s.event fun s =>
    let shut := (s.zoneSegs z).filter (fun g => (s.seg g).closure.closed)
    let gone := shut.foldl (fun c g => c.join (s.seg g).closure) {}
    let s1 := shut.foldl (fun s g => s.reopenFloor .operations g) s
    s1.notify .reopened (zonePayload z { operations := true, dispatch := true, drying := true } gone shut.length)

end Sys2Proof.Machine
end

