-- ==== Sys2Proof/Machine/Writers.lean ====
section
/-! DEFINITION. The mirror writer, the notice writer and the interlock clock (R33 to R37, R166 to R171), and the words
the part owns in the control area (13.1). -/
namespace Sys2Proof.Machine
open Sys2Proof

/-! ### Control words (13.1) -/

/-- The mode word (R174). -/
def State.modeWord (s : State) : Word :=
  fld 3 0 s.mode.code ||| fld 2 4 s.cause.code ||| bitFld 7 s.ackRestart ||| fld 5 8 s.siteFault.reason.code
    ||| fld 8 16 s.siteFault.item

/-- A result word (R160). -/
def CmdResult.word (r : CmdResult) : Word :=
  fld 8 0 r.code.toNat ||| fld 3 8 r.outcome.code ||| fld 8 24 r.tag.toNat

/-- The refused-access word (R23). -/
def refusedWord (c : Option RefusedAccess) : Word :=
  match c with
  | none => 0
  | some r =>
    fld 18 0 r.addr.toNat ||| fld 2 20 (tagCode r.tag) ||| bitFld 22 r.isWrite ||| fld 3 24 r.mode.code
      ||| bitFld 31 true

/-- What an owned control word or the copy of an acted one holds (R26, 13.1). -/
def State.controlValue (s : State) (c : CtlWord) : Word :=
  match c with
  | .dspResult => s.dspResult.word
  | .opsResult => s.opsResult.word
  | .tuning i => s.tuning[i.val]
  | .dspStatus => s.dspFlags.setWidth 32
  | .dspMask => s.dspMask.setWidth 32
  | .gwyMask => s.gwyMask.setWidth 32
  | .opsStatus => s.opsFlags.setWidth 32
  | .opsMask => s.opsMask.setWidth 32
  | .writeIx => s.writeIx.setWidth 32
  | .readIx => s.readIx.setWidth 32
  | .refused => refusedWord s.capture
  | .mode | .clock | .changedSlots | .dspCommand | .opsCommand | .dspClear | .opsClear | .unassigned => 0

/-! ### The mirror writer (R34 to R37) -/

/-- The segment a view entry's number names, when it lies in 1 to n (R55). -/
def State.viewedSeg (s : State) (n : Fin 256) : Option SegIx :=
  match ixOf 255 n.val with
  | none => none
  | some g => if g.val < s.n then some g else none

/-- The words of a segment view entry: zero for number 0 and above n (R54, R55). -/
def State.segViewOf (s : State) (n : Fin 256) : List Word :=
  match s.viewedSeg n with
  | none => [0, 0]
  | some g => segViewWords (s.fixed g).pinch (s.seg g)

/-- Words at consecutive addresses. -/
def fromAddr (a : Nat) (l : List Word) : List (BitVec 18 × Word) :=
  (l.zipIdx a).map (fun p => (BitVec.ofNat 18 p.2, p.1))

/-- The words of a mirror record as its owner has them (R34, R35). -/
def State.recordWords (s : State) (r : MirrorRec) : List (BitVec 18 × Word) :=
  match r with
  | .control c => fromAddr r.addr [s.controlValue c]
  | .slotActed k => [(slotAddr k 11, 0), (slotAddr k 15, 0)]
  | .slotStatus k => fromAddr r.addr [(s.slot k).statusWord]
  | .slotProgress k => fromAddr r.addr [(s.slot k).progressWord]
  | .segView n => fromAddr r.addr (s.segViewOf n)
  | .scrubView x => fromAddr r.addr (s.scrub x).viewWords

/-- The record the mirror writer takes at a grant (R35). -/
def State.nextRecord (s : State) : Option MirrorRec :=
  match s.promo with
  | r :: _ => some r
  | [] =>
    match s.dirty.find? (fun r => decide (s.lastWritten < r.addr)) with
    | some r => some r
    | none => s.dirty.head?

/-- A record is taken: its mark is cleared and it leaves the promotion list (R35). -/
def State.takeRecord (r : MirrorRec) (s : State) : State :=
  { s with dirty := s.dirty.erase r, promo := s.promo.erase r, lastWritten := r.addr }

/-- One grant of the memory port to the mirror writer (R33, R35). -/
def State.mirrorGrant (s : State) : State :=
  match s.nextRecord with
  | none => s
  | some r => ((s.takeRecord r).writeWords (s.recordWords r)).served .mirror

/-! ### The notice writer (R168 to R171) -/

/-- The address of a ring offset (R169). -/
def ringAddr (o : BitVec 10) : BitVec 18 := BitVec.ofNat 18 (0x800 + o.toNat)

/-- The words of a grant's notice at the offsets from its first onward, counting round (R169). -/
def NoticeGrant.words (g : NoticeGrant) : List (BitVec 18 × Word) :=
  (g.notice.words.zipIdx).map (fun p => (ringAddr (g.start + BitVec.ofNat 10 p.2), p.1))

/-- The front notice is dropped at admission (R169). -/
def State.dropNotice (rest : List Notice) (s : State) : State :=
  ({ s with staging := rest } : State).setDsp .noticeLost

/-- NOTICE_THRESHOLD is set when the fill is at or above the threshold in force (R162, R169). -/
def State.judgeThreshold (s : State) : State :=
  if s.noticeThreshold ≤ s.fill then s.setDsp .noticeThreshold else s

/-- The publication of the notice that the writer holds (R169). -/
def State.publish (s : State) : State :=
  match s.held with
  | none => s
  | some n =>
    let s1 : State := { s with held := none, writeIx := s.writeIx + BitVec.ofNat 10 n.length }
    ((s1.markDirty (.control .writeIx)).setDsp .noticesPending).judgeThreshold

/-! ### The memory port arbiter (R33) -/

/-- Whether the mirror writer waits for the port (R35); it does no work in LOADING (R37). -/
def State.mirrorWaits (s : State) : Bool := s.mode != .loading && s.nextRecord.isSome

/-- Whether the notice writer waits for the port: it holds a notice whose grant has not begun (R169). The grant of a
notice that RESET_NOTICES has taken back (R171) is not the grant of the notice held after it. -/
def State.noticeWaits (s : State) : Bool :=
  s.held.isSome && (match s.noticeGrant with | none => true | some g => !g.publish)

/-- The writers that wait for the port. -/
def State.portWaiters (s : State) : List PortUser :=
  (if s.mirrorWaits then [.mirror] else []) ++ (if s.noticeWaits then [.notice] else [])

/-- The notice writer's grant begins (R33). -/
def State.beginGrant (s : State) : State :=
  match s.held with
  | none => s
  | some n => ({ s with noticeGrant := some { notice := n, start := s.writeIx, publish := true } } : State).served .notice

/-- The notice writer's grant ends: its words are written, and its notice is published unless a reset has come between
(R33, R169, R171). -/
def State.endGrant (s : State) : State :=
  match s.noticeGrant with
  | none => s
  | some g =>
    let s1 := ({ s with noticeGrant := none } : State).writeWords g.words
    if g.publish then s1.publish else s1

/-- The arbiter of a free port gives the notice writer its grant when its turn has come (R33). -/
def State.arbitrate (s : State) : State :=
  if s.noticeGrant.isNone && decide (s.grantNext s.portWaiters = some .notice) then s.beginGrant else s

/-- Whether the arbiter gives the port to an access that asks for it now (R33). -/
def State.portReady (s : State) : Bool :=
  s.noticeGrant.isNone && decide (s.grantNext (.passage :: s.portWaiters) = some .passage)

/-- The grant of a writer that comes before a waiting access, whole (R33). -/
def State.serveAhead (s : State) : State :=
  match s.grantNext (.passage :: s.portWaiters) with
  | some .mirror => s.mirrorGrant
  | some .notice => s.beginGrant.endGrant
  | some .passage | none => s

/-- The grants that come before the grant of an access: the one that lasts, then at most one record of the mirror writer
and one notice of the notice writer (R33; log 9). -/
def State.awaitPort (s : State) : State := s.endGrant.serveAhead.serveAhead

/-- MIRROR_RECORD_WRITE: the mirror writer's grant, when the port is free and its turn has come (R33, R35; log 8). -/
def State.mirrorWrite (s : State) : State :=
  if s.noticeGrant.isNone && decide (s.grantNext s.portWaiters = some .mirror) then s.mirrorGrant.arbitrate else s

/-- NOTICE_ADMISSION: the writer takes and judges the front staged notice (R169; log 30); no work in LOADING (R168). An
admitted notice waits for the port, or has it at once (R33). -/
def State.noticeAdmission (s : State) : State :=
  if s.mode = .loading ∨ s.held.isSome = true then s
  else match s.staging with
    | [] => s
    | n :: rest =>
      if n.length ≤ s.free then ({ s with staging := rest, held := some n } : State).arbitrate else s.dropNotice rest

/-- NOTICE_PUBLISH: the notice writer's grant ends (R169; log 8). -/
def State.noticePublish (s : State) : State := if s.noticeGrant.isSome then s.endGrant.arbitrate else s

/-! ### The indices (R170, R171) -/

/-- What RESET_NOTICES does (R171). -/
def State.resetNotices (s : State) : State :=
  let s1 : State :=
    { s with
      writeIx := 0, readIx := 0, held := none, staging := s.held.toList ++ s.staging,
      noticeGrant := s.noticeGrant.map (fun g => { g with publish := false }) }
  ((s1.markDirty (.control .writeIx)).markDirty (.control .readIx)).notify .noticesReset []

/-- An acceptable read index is taken (R170). -/
def State.takeReadIx (v : Word) (s : State) : State :=
  ({ s with readIx := v.setWidth 10 } : State).markDirty (.control .readIx)

/-! ### Tuning words (R162) -/

/-- Whether a tuning value is in range. -/
def tuningOk (i : Fin 8) (v : Word) : Bool :=
  match i with
  | 0 => decide (5 ≤ v.toNat ∧ v.toNat ≤ 255)
  | 1 => decide (10 ≤ v.toNat ∧ v.toNat ≤ 255)
  | 2 => decide (10 ≤ v.toNat ∧ v.toNat ≤ 255)
  | 3 => decide (1 ≤ v.toNat ∧ v.toNat ≤ 255)
  | 4 => decide (1 ≤ v.toNat ∧ v.toNat ≤ 255)
  | 5 => decide (1 ≤ v.toNat ∧ v.toNat ≤ 8)
  | 6 => decide (1 ≤ v.toNat ∧ v.toNat ≤ 1023)
  | 7 => decide (v.toNat < 32)

/-- The value a tuning write stores: out of range stores 0. -/
def tuningStored (i : Fin 8) (v : Word) : Word := if tuningOk i v then v else 0

/-- A tuning write (R162); a write of the notice threshold is judged against the fill at once. -/
def State.tune (i : Fin 8) (v : Word) (s : State) : State :=
  let s1 := ({ s with tuning := s.tuning.set i.val (tuningStored i v) } : State).markDirty (.control (.tuning i))
  if i = 6 then s1.judgeThreshold else s1

/-! ### The clock (R166) -/

/-- One tenth of the reference clock; the clock stays 0 while the reset line is held (R172). -/
def State.tick (s : State) : State := if s.lineHeld then s else { s with clock := s.clock + 1 }

end Sys2Proof.Machine
end

