-- ==== Sys2Proof/Machine/Commands.lean ====
section
/-! DEFINITION. Command words: judgement, outcome, refusal (11.1; R108 to R110, R145, R149, R152, R160, R161, R176). -/
namespace Sys2Proof.Machine
open Sys2Proof

/-! ### Numbers in operands -/

/-- Operand A as an enrolled scrubber (R160): BAD_OPERAND otherwise. -/
def State.scrubOperand (s : State) (v : Byte) : Option ScrubIx :=
  match ixOf 16 v.toNat with
  | none => none
  | some x => if (s.scrub x).state = .absent then none else some x

/-- Operand A as a segment 1 to n. -/
def State.segOperand (s : State) (v : Byte) : Option SegIx :=
  match ixOf 255 v.toNat with
  | none => none
  | some g => if g.val < s.n then some g else none

/-- Operand A as a zone 1 to z. -/
def State.zoneOperand (s : State) (v : Byte) : Option ZoneIx :=
  match ixOf 32 v.toNat with
  | none => none
  | some z => if z.val < s.z then some z else none

/-- Whether a command accepted in RECOVERY and SERVICE is accepted now (R160). -/
def State.running (s : State) : Bool := s.mode == .recovery || s.mode == .service

/-- Whether every slot is IDLE. -/
def State.allIdle (s : State) : Bool := (List.finRange 24).all (fun k => (s.slot k).state == .idle)

/-! ### Each command: its refusal, or the state it leaves (R160) -/

/-- ACK_RESTART (R176). -/
def State.cmdAckRestart (s : State) : Except CmdOutcome State :=
  if s.mode = .recovery then .ok s.acknowledge else .error .wrongMode

/-- WITHDRAW (R108). -/
def State.cmdWithdraw (f : CmdFields) (s : State) : Except CmdOutcome State :=
  if !s.running then .error .wrongMode
  else match s.scrubOperand f.a with
    | none => .error .badOperand
    | some x =>
      if s.n < f.b.toNat then .error .badOperand
      else match ixOf 255 f.b.toNat with
        | none => .ok (s.withdraw x none).judgeService
        | some g =>
          if (s.seg g).occupant.isSome && (s.seg g).occupant != some x then .error .notPermitted
          else .ok (s.withdraw x (some g)).judgeService

/-- READMIT (R109). -/
def State.cmdReadmit (f : CmdFields) (s : State) : Except CmdOutcome State :=
  if !s.running then .error .wrongMode
  else match s.scrubOperand f.a with
    | none => .error .badOperand
    | some x => if (s.scrub x).state = .withdrawn then .ok (s.readmit x) else .error .notPermitted

/-- CLEAR_VIOLATION (R110). -/
def State.cmdClearViolation (f : CmdFields) (s : State) : Except CmdOutcome State :=
  if !s.running then .error .wrongMode
  else match s.scrubOperand f.a with
    | none => .error .badOperand
    | some x =>
      if (s.scrub x).state = .heard ∧ (s.scrub x).mark = true ∧ (s.scrub x).flags.stopped = true then
        .ok (s.liftMark x).judgeService
      else .error .notPermitted

/-- CLOSE_SEGMENT (R149, R150). -/
def State.cmdCloseSegment (i : Issuer) (f : CmdFields) (s : State) : Except CmdOutcome State :=
  if !s.running then .error .wrongMode
  else match s.segOperand f.a with
    | none => .error .badOperand
    | some g => .ok (s.closeSegment i g)

/-- Whether an issuer may reopen a segment (R152). -/
def State.mayReopen (s : State) (i : Issuer) (g : SegIx) : Bool :=
  match i with
  | .operations => true
  | .dispatch => !(s.seg g).closure.operations

/-- REOPEN_SEGMENT (R149, R152). -/
def State.cmdReopenSegment (i : Issuer) (f : CmdFields) (s : State) : Except CmdOutcome State :=
  if !s.running then .error .wrongMode
  else match s.segOperand f.a with
    | none => .error .badOperand
    | some g => if s.mayReopen i g then .ok (s.reopenSegment i g) else .error .notPermitted

/-- CLOSE_ZONE (R149, R153). -/
def State.cmdCloseZone (f : CmdFields) (s : State) : Except CmdOutcome State :=
  if !s.running then .error .wrongMode
  else match s.zoneOperand f.a with
    | none => .error .badOperand
    | some z => .ok (s.closeZone z)

/-- REOPEN_ZONE (R149, R153). -/
def State.cmdReopenZone (f : CmdFields) (s : State) : Except CmdOutcome State :=
  if !s.running then .error .wrongMode
  else match s.zoneOperand f.a with
    | none => .error .badOperand
    | some z => .ok (s.reopenZone z)

/-- The zone states that a reseed may be made from (R145). -/
def ZoneState.seedable : ZoneState → Bool
  | .unseeded | .stale => false
  | .settling | .quiet | .entering | .present | .leaving => true

/-- RESEED_ZONE (R145). -/
def State.cmdReseedZone (f : CmdFields) (s : State) : Except CmdOutcome State :=
  if !s.running then .error .wrongMode
  else match s.zoneOperand f.a with
    | none => .error .badOperand
    | some z =>
      if (s.zone z).state.seedable then .ok (s.event (fun s => s.reseed z)) else .error .notPermitted

/-- RESET_NOTICES (R171). -/
def State.cmdResetNotices (s : State) : Except CmdOutcome State :=
  if !s.running then .error .wrongMode else .ok s.resetNotices

/-- RELOAD_SITE (R160): the restart. -/
def State.cmdReloadSite (s : State) : Except CmdOutcome State :=
  if s.mode = .noSite then .ok (s.restart .reload)
  else if s.mode = .service then (if s.allIdle then .ok (s.restart .reload) else .error .notPermitted)
  else .error .wrongMode

/-- The command of a code, for an issuer that has it (R160's table). -/
def State.cmdOf (i : Issuer) (code : Nat) (f : CmdFields) (s : State) : Except CmdOutcome State :=
  match code with
  | 1 => s.cmdAckRestart
  | 2 => s.cmdWithdraw f
  | 3 => s.cmdReadmit f
  | 4 => s.cmdClearViolation f
  | 5 => s.cmdCloseSegment i f
  | 6 => s.cmdReopenSegment i f
  | 7 => s.cmdCloseZone f
  | 8 => s.cmdReopenZone f
  | 9 => s.cmdReseedZone f
  | 10 => s.cmdResetNotices
  | 11 => s.cmdReloadSite
  | _ => .error .unknownCode

/-! ### Outcome (R160, R161) -/

/-- The issuer's result record; its word is dirty (R160). -/
def State.setResultRec (i : Issuer) (r : CmdResult) (s : State) : State :=
  match i with
  | .dispatch => ({ s with dspResult := r } : State).markDirty (.control .dspResult)
  | .operations => ({ s with opsResult := r } : State).markDirty (.control .opsResult)

/-- The issuer's COMMAND_REFUSED flag (R161). -/
def State.flagRefused (i : Issuer) (s : State) : State :=
  match i with
  | .dispatch => s.setDsp .commandRefused
  | .operations => s.setOps .commandRefused

/-- A refused command (R161). -/
def State.refuseCommand (i : Issuer) (code : Byte) (f : CmdFields) (o : CmdOutcome) (s : State) : State :=
  ((s.setResultRec i { code := code, tag := f.tag, outcome := o }).flagRefused i).notify .commandRefused
    [pack4 (tagCode (issuerTag i)) code.toNat f.tag.toNat o.code]

/-- A taken command's record; a taken RELOAD_SITE has returned it to NONE (R160). -/
def State.recordDone (i : Issuer) (code : Byte) (f : CmdFields) (s : State) : State :=
  if code = 11 then s else s.setResultRec i { code := code, tag := f.tag, outcome := .done }

/-- A command (R160): judged, carried out and answered in the result record. -/
def State.issue (i : Issuer) (code : Byte) (f : CmdFields) (s : State) : State :=
  match (if i.knows code then s.cmdOf i code.toNat f else .error .unknownCode) with
  | .ok t => t.recordDone i code f
  | .error o => s.refuseCommand i code f o

/-- A write of an issuer's command word (R160). -/
def State.commandWrite (i : Issuer) (v : Word) (s : State) : State := s.issue i (byteAt v 0) (cmdFieldsOf v)

end Sys2Proof.Machine
end

