-- ==== Sys2Proof/Machine/Loader.lean ====
section
/-! DEFINITION. The site loader: checks of the image and installation (01; R1, R13 to R17, R180). -/
namespace Sys2Proof.Machine
open Sys2Proof

/-! ### Reading the image (R180) -/

/-- A byte of the store; one that the operand does not give reads as FFh, as a silent store does (R13; log 12). -/
def byteOf (b : List Byte) (i : Nat) : Nat := (b.getD i 0xFF).toNat

/-- A two-byte value, the more significant byte first (R180). -/
def be16 (b : List Byte) (i : Nat) : Nat := 256 * byteOf b i + byteOf b (i + 1)

/-- The first k bytes from a place on, with FFh where the operand has none. -/
def takeBytes (b : List Byte) (k : Nat) : List Byte := (List.range k).map (fun i => b.getD i 0xFF)

/-- n and z of a header. -/
def imageN (b : List Byte) : Nat := byteOf b 5
def imageZ (b : List Byte) : Nat := byteOf b 6

/-- The length that n and z give (R180). -/
def imageLength (n z : Nat) : Nat := 114 + z + 10 * n

/-! ### Checks 1 to 5 (R14) -/

/-- Checks 1 to 4, on the header (R14). -/
def headerCheck (b : List Byte) : Option FaultReason :=
  if byteOf b 0 ≠ 0x54 ∨ byteOf b 1 ≠ 0x47 ∨ byteOf b 2 ≠ 0x53 ∨ byteOf b 3 ≠ 0x49 then some .signature
  else if byteOf b 4 ≠ 1 then some .version
  else if imageN b = 0 ∨ 32 < imageZ b then some .counts
  else if be16 b 8 ≠ imageLength (imageN b) (imageZ b) then some .length
  else none

/-- One bit of the CRC-16 (R14). -/
def crcBit (c : BitVec 16) (d : Bool) : BitVec 16 :=
  if c.getLsbD 15 != d then (c <<< 1) ^^^ 0x1021 else c <<< 1

/-- One byte of the CRC-16, most significant bit first (R14). -/
def crcByte (c : BitVec 16) (b : Byte) : BitVec 16 :=
  [7, 6, 5, 4, 3, 2, 1, 0].foldl (fun c i => crcBit c (b.getLsbD i)) c

/-- The CRC-16 of a run of bytes (R14). -/
def crc16 (b : List Byte) : BitVec 16 := b.foldl crcByte 0xFFFF

/-- Check 5, on the whole image of a given length (R14). -/
def checkValueOk (b : List Byte) (len : Nat) : Bool :=
  decide ((crc16 (b.take (len - 2))).toNat = be16 b (len - 2))

/-! ### Ranges (R15) -/

/-- A fault with an item number. -/
def faultIf (bad : Bool) (r : FaultReason) (item : Nat) : Option SiteFault :=
  if bad then some { reason := r, item := item } else none

/-- The first fault of a list of checks. -/
def firstFault (l : List (Option SiteFault)) : Option SiteFault := l.findSome? id

/-- Whether a number lies in a range. -/
def within (lo hi v : Nat) : Bool := decide (lo ≤ v ∧ v ≤ hi)

/-- The ranges of the five timing values (R11). -/
def timingRange : Fin 5 → Nat × Nat
  | 0 => (5, 255)
  | 1 => (10, 255)
  | 2 => (10, 255)
  | 3 => (0, 255)
  | 4 => (1, 255)

/-- The built-in defaults of the five timing values (R11). -/
def timingDefault : Fin 5 → Nat
  | 0 => 30
  | 1 => 50
  | 2 => 40
  | 3 => 30
  | 4 => 90

/-- A timing value as the image holds it. -/
def rawTiming (b : List Byte) (i : Fin 5) : Nat := be16 b (14 + 2 * i.val)

/-- The marker "built-in default" (R180). -/
def timingMarker : Nat := 0xFFFF

/-- The image value of a timing value (R11). -/
def timingOf (b : List Byte) (i : Fin 5) : Nat :=
  if rawTiming b i = timingMarker then timingDefault i else rawTiming b i

/-- Header values (R15, 1). -/
def headerFaults (b : List Byte) : List (Option SiteFault) :=
  faultIf (decide (7 < byteOf b 7)) .defaultClass 0
    :: (List.finRange 5).map (fun i =>
      faultIf (rawTiming b i != timingMarker
        && !within (timingRange i).1 (timingRange i).2 (rawTiming b i)) .timing (i.val + 1))

/-- Classes (R15, 2). -/
def classFaults (b : List Byte) : List (Option SiteFault) :=
  (List.range 8).map (fun i => faultIf (!within 1 180 (byteOf b (24 + 2 * i))) .classRange i)

/-- Whether the profile at a place has a field out of range (R15, 3). -/
def profileBad (b : List Byte) (o : Nat) : Bool :=
  decide (7 < byteOf b o) || decide (15 < byteOf b (o + 1)) || decide (7 < byteOf b (o + 2))
    || decide (be16 b (o + 5) = 0) || !within 1 15 (byteOf b (o + 10)) || !within 1 15 (byteOf b (o + 11))
    || decide (1000 < be16 b (o + 14))

/-- Profiles (R15, 3). -/
def profileFaults (b : List Byte) : List (Option SiteFault) :=
  (List.range 4).map (fun i => faultIf (profileBad b (40 + 18 * i)) .profileRange (i + 1))

/-- Zones (R15, 4). -/
def zoneFaults (b : List Byte) : List (Option SiteFault) :=
  (List.range (imageZ b)).map (fun i => faultIf (!within 1 4 (byteOf b (112 + i))) .zoneProfile (i + 1))

/-- Where the entry of the segment with index i stands (R180). -/
def segPlace (b : List Byte) (i : Nat) : Nat := 112 + imageZ b + 10 * i

/-- The neighbour bytes of a segment, as many as its count says (R180). -/
def nbrBytes (b : List Byte) (i : Nat) : List Nat :=
  (List.range (byteOf b (segPlace b i + 3))).map (fun j => byteOf b (segPlace b i + 4 + j))

/-- The checks of a segment's neighbours, in stored order (R15, 5). -/
def nbrFaults (n self : Nat) : List Nat → List Nat → List (Option SiteFault)
  | _, [] => []
  | seen, v :: vs =>
    faultIf (!within 1 n v) .neighbourRange self :: faultIf (decide (v = self)) .neighbourSelf self
      :: faultIf (decide (v ∈ seen)) .neighbourRepeat self :: nbrFaults n self (v :: seen) vs

/-- The checks of one segment (R15, 5). -/
def segmentFault (b : List Byte) (i : Nat) : Option SiteFault :=
  let o := segPlace b i
  firstFault
    [faultIf (decide (imageZ b < byteOf b o)) .segmentZone (i + 1),
     faultIf (decide (7 < byteOf b (o + 1) ∧ byteOf b (o + 1) ≠ 15)) .segmentClass (i + 1),
     faultIf (decide (16 < byteOf b (o + 2))) .segmentPinch (i + 1),
     faultIf (decide (6 < byteOf b (o + 3))) .neighbourCount (i + 1),
     firstFault (nbrFaults (imageN b) (i + 1) [] (nbrBytes b i))]

/-- Segments (R15, 5). -/
def segmentFaults (b : List Byte) : List (Option SiteFault) := (List.range (imageN b)).map (segmentFault b)

/-- The symmetry of adjacency (R16). -/
def symmetryFaults (b : List Byte) : List (Option SiteFault) :=
  (List.range (imageN b)).map (fun i =>
    faultIf ((nbrBytes b i).any (fun v => !decide (i + 1 ∈ nbrBytes b (v - 1)))) .neighbourAsymmetry (i + 1))

/-- The checks after the header's, in their order (R14 check 5, R15, R16): the first fault, or none. -/
def imageFault (b : List Byte) : Option SiteFault :=
  if !checkValueOk b (imageLength (imageN b) (imageZ b)) then some { reason := .checkValue, item := 0 }
  else firstFault (headerFaults b ++ classFaults b ++ profileFaults b ++ zoneFaults b ++ segmentFaults b
    ++ symmetryFaults b)

/-! ### The model of an image that has passed (R1, R180) -/

/-- Bit j of a byte of the image. -/
def bitOf (b : List Byte) (i j : Nat) : Bool := (b.getD i 0xFF).getLsbD j

def polarityOf (v : Bool) : Polarity := if v then .activeHighDriven else .activeLowOpenDrain

def classAt (b : List Byte) (i : Nat) : FloorClass :=
  { drying := byteOf b (24 + 2 * i), wetScrub := bitOf b (25 + 2 * i) 0, moistureCheck := bitOf b (25 + 2 * i) 1,
    restartWet := bitOf b (25 + 2 * i) 2 }

def profileAt (b : List Byte) (i : Nat) : Profile :=
  let o := 40 + 18 * i
  { filterShift := byteOf b o, baselineShift := byteOf b (o + 1), fastShift := byteOf b (o + 2),
    fastBound := be16 b (o + 3), presence := be16 b (o + 5), halt := be16 b (o + 7), hysteresis := byteOf b (o + 9),
    debounceIn := byteOf b (o + 10), debounceOut := byteOf b (o + 11), quietTime := byteOf b (o + 12),
    stuckTimeout := byteOf b (o + 13), dryThreshold := be16 b (o + 14), notices := bitOf b (o + 16) 0 }

/-- The fixed fields of a segment (R2): class code 15 is the terminus default class. -/
def segmentAt (b : List Byte) (i : Nat) : SegFixed :=
  let o := segPlace b i
  { zone := ixOf 32 (byteOf b o),
    cls := if byteOf b (o + 1) = 15 then none else some (Fin.ofNat 8 (byteOf b (o + 1))),
    pinch := ixOf 16 (byteOf b (o + 2)),
    nbrs := (nbrBytes b i).filterMap (ixOf 255) }

/-- The site model of an image (R1). -/
def siteOf (b : List Byte) : Site :=
  { defaultClass := Fin.ofNat 8 (byteOf b 7),
    enrolled := BitVec.ofNat 16 (be16 b 10),
    dspPolarity := polarityOf (bitOf b 12 0),
    gwyPolarity := polarityOf (bitOf b 12 1),
    opsPolarity := polarityOf (bitOf b 12 2),
    timings := { report := timingOf b 0, confirm := timingOf b 1, shorten := timingOf b 2, fleetWait := timingOf b 3,
                 passengerWait := timingOf b 4 },
    classes := Vector.ofFn (fun i : Fin 8 => classAt b i.val),
    profiles := Vector.ofFn (fun i : Fin 4 => profileAt b i.val),
    zones := (List.range (imageZ b)).map (fun i => Fin.ofNat 4 (byteOf b (112 + i) - 1)),
    segs := (List.range (imageN b)).map (segmentAt b) }

/-! ### The load's events (R13, R17) -/

/-- The release of the reset line: the load begins (R13). -/
def State.releaseLine (s : State) : State := { s with lineHeld := false }

/-- A failed load (R17). -/
def State.failLoad (f : SiteFault) (s : State) : State := { s with mode := .noSite, siteFault := f, load := .idle }

/-- Installation makes each enrolled scrubber UNHEARD (R10). -/
def State.enrol (m : Site) (s : State) : State :=
  (List.finRange 16).foldl
    (fun s x => if m.enrolled.getLsbD x.val then s.setScrub x { s.scrub x with state := .unheard } else s) s

/-- Installation (R1); the segment, pinch and zone records stand at their empty values since the restart. -/
def State.install (m : Site) (s : State) : State :=
  ({ s with site := some m, mode := .initialising, load := .idle } : State).enrol m

/-- The header is in (R13): checks 1 to 4. While the reset line is held the load has not begun (R13). -/
def State.headerIn (store : List Byte) (s : State) : State :=
  if s.mode = .loading ∧ s.load = .header ∧ s.lineHeld = false then
    let h := takeBytes store 24
    match headerCheck h with
    | some r => s.failLoad { reason := r, item := 0 }
    | none => { s with load := .body h }
  else s

/-- The whole image is in (R13, R17): the other checks, then installation or failure. -/
def State.imageIn (store : List Byte) (s : State) : State :=
  match s.load with
  | .idle | .header => s
  | .body h =>
    if s.mode = .loading ∧ s.lineHeld = false then
      let b := h ++ takeBytes store (imageLength (imageN h) (imageZ h) - 24)
      match imageFault b with
      | some f => s.failLoad f
      | none => s.install (siteOf b)
    else s

/-- The flush ends: nothing is dirty in INITIALISING (R37). -/
def State.flushEnd (s : State) : State :=
  if s.mode = .initialising ∧ s.dirty.isEmpty = true then { s with mode := .recovery } else s

end Sys2Proof.Machine
end

