-- ==== Sys2Proof/Machine/Passage.lean ====
section
/-! DEFINITION. The passage unit: the fate of a plan-bus access and its carrying out (02; R18 to R33, R36, R75 to R80),
and what a restart cuts short (R172). -/
namespace Sys2Proof.Machine
open Sys2Proof

/-! ### What an access takes (R29) -/

/-- The data words of a transfer. -/
def transferData : Transfer → List BusWord
  | .read _ => []
  | .write w ws => w :: ws

/-- The addresses an access takes: all of a burst in the general area, else the first (R29). -/
def takenAddrs (a : Access) : List (BitVec 18) := if wholeGeneral a then coveredAddrs a else [a.addr]

/-- The words a write takes, each with its address (R29). -/
def takenWords (a : Access) : List (BitVec 18 × BusWord) := (takenAddrs a).zip (transferData a.transfer)

/-- The first data word of a write. -/
def firstData : Transfer → Word
  | .read _ => 0
  | .write w _ => w.data

/-- Whether an access is a single-word access. -/
def isSingle (t : Transfer) : Bool := decide (moreWords t = 0)

/-! ### Rights and state (R20 to R22) -/

/-- Whether a value is an acceptable read index (R22). -/
def State.readIxOk (s : State) (v : Word) : Bool :=
  decide (v.toNat ≤ 1023) && decide ((v.setWidth 10 - s.readIx).toNat ≤ s.fill)

/-- Whether the state of a word lets a write be taken (R22). -/
def State.stateAllows (s : State) (p : Place) (v : Word) : Bool :=
  match p with
  | .slot k w => decide (10 < w.val) || !(s.slot k).state.live
  | .control .readIx => s.readIxOk v
  | .general | .control _ | .cell _ _ | .figure _ _ | .segView _ _ | .scrubView _ _ | .ring _ => true

/-- Whether a word lies in an area whose writes NO_SITE refuses (R20). -/
def noSiteArea : Place → Bool
  | .control _ | .cell _ _ | .figure _ _ | .slot _ _ => true
  | .general | .segView _ _ | .scrubView _ _ | .ring _ => false

/-- The restriction of NO_SITE on a write (R20). -/
def State.noSiteAllows (s : State) (a : Access) (p : Place) : Bool :=
  s.mode != .noSite || !noSiteArea p || (decide (p = .control .dspCommand) && isSingle a.transfer)

/-- Whether R20 to R22 allow an access of tag 0 to 2. Every read is allowed (R21). -/
def State.allows (s : State) (a : Access) : Bool :=
  let p := placeOf a.addr
  match a.transfer with
  | .read _ => true
  | .write w _ => mayWrite a.tag p && s.stateAllows p w.data && s.noSiteAllows a p

/-! ### The gate (R28, R75, R76) -/

/-- Whether the gate of a slot word is open to the gateway. -/
def State.gateOpen (s : State) (k : SlotIx) (w : Fin 16) : Bool :=
  isFleet k && (s.slot k).state.authority
    && (!decide (1 ≤ w.val ∧ w.val ≤ 10) || decide (w.val ≤ (s.slot k).endIx))

/-! ### The fate of an access -/

/-- What becomes of an access (02, introduction). -/
inductive Fate where
  /-- RETRY in LOADING and INITIALISING (R20). -/
  | notReady
  /-- An access refusal (R23). -/
  | denied
  /-- Refused for bus parity (R30, R31). -/
  | badParity
  /-- A memory write of the taken words (R24). -/
  | pass (l : List (BitVec 18 × Word))
  /-- A write of a watched word: to memory, with a copy to its owner (R25). -/
  | watch (v : Word)
  /-- A write of an acted word (R26). -/
  | act (v : Word)
  /-- A read answered from the part's state (R27). -/
  | substitute
  /-- A gateway read whose gate is closed (R28). -/
  | shut
  /-- A read of a dirty mirror record (R36). -/
  | dirtyRead (r : MirrorRec)
  /-- A read from memory (R24). -/
  | fetch (l : List (BitVec 18))
  deriving DecidableEq, Repr

/-- Whether a gateway read finds its gate closed (R28). -/
def State.shutTo (s : State) (t : Tag) (p : Place) : Bool :=
  match p with
  | .slot k w => t == .gateway && !s.gateOpen k w
  | .general | .control _ | .cell _ _ | .figure _ _ | .segView _ _ | .scrubView _ _ | .ring _ => false

/-- The dirty record a read would meet (R36). -/
def State.dirtyAt (s : State) (p : Place) : Option MirrorRec :=
  match recordAt p with
  | none => none
  | some r => if r ∈ s.dirty then some r else none

/-- The fate of an allowed read (R24, R27, R28, R36). -/
def State.readFate (s : State) (a : Access) : Fate :=
  let p := placeOf a.addr
  if s.shutTo a.tag p then .shut
  else if classOf p = .substituted then .substitute
  else match s.dirtyAt p with
    | some r => .dirtyRead r
    | none => .fetch (takenAddrs a)

/-- Whether the parity of every taken word of a write is good (R31; log 14). -/
def dataParityOk (a : Access) : Bool := (takenWords a).all (fun w => wordParityOk w.2)

/-- The fate of an allowed write (R24 to R26, R31). -/
def writeFate (a : Access) : Fate :=
  let p := placeOf a.addr
  if p = .general then .pass ((takenWords a).map (fun w => (w.1, w.2.data)))
  else if !dataParityOk a then .badParity
  else match classOf p with
    | .watched => .watch (firstData a.transfer)
    | .acted => .act (firstData a.transfer)
    | .passing | .mirror | .substituted => .denied

/-- The fate of an access (R20 to R32, in their order). -/
def State.fateOf (s : State) (a : Access) : Fate :=
  if s.mode = .loading ∨ s.mode = .initialising then .notReady
  else if a.tag = .three then .denied
  else if !addrParityOk a && !isGeneral a.addr then .badParity
  else if !s.allows a then .denied
  else match a.transfer with
    | .read _ => s.readFate a
    | .write _ _ => writeFate a

/-- Whether an access sets BUS_PARITY (R30, R31). -/
def State.busParityFails (s : State) (a : Access) : Bool :=
  s.mode != .loading && s.mode != .initialising && a.tag != .three
    && (!addrParityOk a || (s.allows a && !dataParityOk a))

/-! ### Carrying out -/

/-- The record that a refused access leaves in an empty capture (R23). -/
def State.refusalRecord (s : State) (a : Access) : RefusedAccess :=
  { addr := a.addr, tag := a.tag, isWrite := isWrite a.transfer, mode := s.mode }

/-- An empty capture is filled and its word marked dirty (R23). -/
def State.fillCapture (a : Access) (s : State) : State :=
  match s.capture with
  | some _ => s
  | none => ({ s with capture := some (s.refusalRecord a) } : State).markDirty (.control .refused)

/-- An access refusal (R23). -/
def State.deny (a : Access) (s : State) : State :=
  let s1 := match a.tag with
    | .operations => s.setOps .accessRefused
    | .dispatch | .gateway | .three => s.setDsp .accessRefused
  (s1.fillCapture a).answered .refused

/-- A read of a dirty record: RETRY, and the record joins the promotion list (R36). -/
def State.promote (r : MirrorRec) (s : State) : State :=
  if r ∈ s.promo then s else { s with promo := s.promo ++ [r] }

/-- The value of a substituted word (R27). -/
def State.substituted (s : State) (p : Place) : Word :=
  match p with
  | .control .mode => s.modeWord
  | .control .clock => s.clock
  | .control .changedSlots => s.changedSlots.setWidth 32
  | .slot k _ => handoverSummary k (s.slot k)
  | .general | .control _ | .cell _ _ | .figure _ _ | .segView _ _ | .scrubView _ _ | .ring _ => 0

/-- What a gateway read of a fleet slot's handover word does at the core, its gate open or closed (R79, R80). -/
def State.handoverRead (t : Tag) (p : Place) (s : State) : State :=
  match p with
  | .slot k w => if t == .gateway && isFleet k && w == 13 then s.gatewayHandover k else s
  | .general | .control _ | .cell _ _ | .figure _ _ | .segView _ _ | .scrubView _ _ | .ring _ => s

/-- A read from memory, with the check of each word's parity (R24, R32). -/
def State.fetch (l : List (BitVec 18)) (s : State) : State :=
  let good := l.takeWhile (fun a => !s.wordBad a)
  let s1 := if good.length = l.length then s else s.setDsp .memoryParity
  let answer := if good.isEmpty then .refused else .done good.length (good.map (fun a => goodWord (s.readWord a)))
  (s1.served .passage).answered answer

/-- The copy of a watched word goes to its owner (R25). -/
def State.watchedCopy (p : Place) (v : Word) (s : State) : State :=
  match p with
  | .cell c w => if h : w.val < 3 then s.cellWrite c ⟨w.val, h⟩ v else s.reportEvent c v
  | .figure z m => if m then s.moisture z (figureOf v) else s.zoneSample z (figureOf v)
  | .slot k w => if h : w.val < 11 then s.draftWrite k ⟨w.val, h⟩ v else s
  | .general | .control _ | .segView _ _ | .scrubView _ _ | .ring _ => s

/-- The write of an acted control word goes to its owner (R26). -/
def State.controlWrite (c : CtlWord) (v : Word) (s : State) : State :=
  match c with
  | .dspCommand => s.commandWrite .dispatch v
  | .opsCommand => s.commandWrite .operations v
  | .tuning i => s.tune i v
  | .dspClear => s.clearDsp v
  | .opsClear => s.clearOps v
  | .dspMask => s.setDspMask v
  | .opsMask => s.setOpsMask v
  | .gwyMask => s.setGwyMask v
  | .readIx => s.takeReadIx v
  | .mode | .clock | .changedSlots | .dspResult | .opsResult | .dspStatus | .opsStatus | .writeIx | .refused
  | .unassigned => s

/-- The write of an acted word goes to its owner (R26). -/
def State.actedWrite (p : Place) (v : Word) (s : State) : State :=
  match p with
  | .control c => s.controlWrite c v
  | .slot k w => if w = 11 then s.commitWrite k v else if w = 15 then s.cancelWrite k v else s
  | .general | .cell _ _ | .figure _ _ | .segView _ _ | .scrubView _ _ | .ring _ => s

/-- What an access does at its event, before its turn at the port: a watched write hands its copy to the owner (R25). -/
def State.handOver (a : Access) (f : Fate) (s : State) : State :=
  match f with
  | .watch v => s.watchedCopy (placeOf a.addr) v
  | .notReady | .denied | .badParity | .pass _ | .act _ | .substitute | .shut | .dirtyRead _ | .fetch _ => s

/-- The memory part of a watched write (R24, R25). -/
def State.storeWatched (a : BitVec 18) (v : Word) (s : State) : State :=
  ((s.writeWord a v).served .passage).answered (.done 1 [])

/-- An access carried out by its fate (R18). -/
def State.carryOut (a : Access) (f : Fate) (s : State) : State :=
  let p := placeOf a.addr
  match f with
  | .notReady => s.answered .retry
  | .denied => s.deny a
  | .badParity => s.answered .refused
  | .pass l => ((s.writeWords l).served .passage).answered (.done l.length [])
  | .watch v => s.storeWatched a.addr v
  | .act v => (s.actedWrite p v).answered (.done 1 [])
  | .substitute =>
    let s1 := s.handoverRead a.tag p
    s1.answered (.done 1 [goodWord (s1.substituted p)])
  | .shut => (s.handoverRead a.tag p).answered (.done 1 [goodWord 0])
  | .dirtyRead r => (s.promote r).answered .retry
  | .fetch l => s.fetch l

/-- Whether a fate has a memory part, for which the access needs the port (R24, R25, R33). -/
def Fate.usesPort : Fate → Bool
  | .pass _ | .watch _ | .fetch _ => true
  | .notReady | .denied | .badParity | .act _ | .substitute | .shut | .dirtyRead _ => false

/-- BUS_PARITY is set for an access with a bad parity that the part checks (R30, R31). -/
def State.flagParity (bad : Bool) (s : State) : State := if bad then s.setDsp .busParity else s

/-- The turn at the port of an access that has asked for it at its event: at once when the port was its own by then,
and otherwise after the grants that come before its own (R33). -/
def State.atTurn (ready : Bool) (s : State) : State := if ready then s else s.awaitPort

/-- A plan-bus access (R18). Its fate is found at its event, and there BUS_PARITY is set and the copy of a watched word
handed over (R25, R30, R31). Its memory part is carried out when its turn at the port has come; then the arbiter goes on
(R33, R36; log 9). -/
def State.busAccess (a : Access) (s : State) : State :=
  let f := s.fateOf a
  let s1 := (s.flagParity (s.busParityFails a)).handOver a f
  if f.usesPort then ((s1.atTurn s.portReady).carryOut a f).arbitrate else s1.carryOut a f

/-! ### What a restart cuts short (R172; log 11) -/

/-- The words that the access in flight writes under the port's grant (R33). -/
def State.inFlightWords (s : State) (a : Access) : List (BitVec 18 × Word) :=
  match s.fateOf a with
  | .pass l => l
  | .watch v => [(a.addr, v)]
  | .notReady | .denied | .badParity | .act _ | .substitute | .shut | .dirtyRead _ | .fetch _ => []

/-- The words of the record that the mirror writer is writing. -/
def State.mirrorWords (s : State) : List (BitVec 18 × Word) :=
  if s.mode = .loading then []
  else match s.nextRecord with
    | none => []
    | some r => s.recordWords r

/-- The words that the grant which a restart ends where it stands has written: those of the notice writer's grant while it
lasts, and otherwise of the access in flight or of the mirror writer's record. -/
def State.cutWords (s : State) (f : InFlight) : List (BitVec 18 × Word) :=
  match s.noticeGrant, f.port, f.access with
  | some g, .notice m, _ => g.words.take m
  | none, .passage m, some a => (s.inFlightWords a).take m
  | none, .mirror m, _ => s.mirrorWords.take m
  | some _, .passage _, _ | some _, .mirror _, _ | none, .notice _, _ | _, .free, _ | none, .passage _, none => []

/-- The answer of an access in flight at a restart: RETRY (R172). -/
def cutAnswer (f : InFlight) : Option BusAnswer := f.access.map (fun _ => BusAnswer.retry)

/-- A restart by power or by the reset line, with what it cuts short (R172). -/
def State.restartWith (c : Cause) (f : InFlight) (s : State) : State :=
  { (s.writeWords (s.cutWords f)).restart c with answer := cutAnswer f }

/-- Whether a RELOAD_SITE would be taken (R160). -/
def State.reloadTaken (s : State) : Bool := s.mode == .noSite || (s.mode == .service && s.allIdle)

/-- The grant that a RELOAD_SITE cuts short, when it is taken (R160, R172). -/
def State.cutForReload (cut : PortCut) (s : State) : State :=
  if s.reloadTaken then s.writeWords (s.cutWords { access := none, port := cut }) else s

end Sys2Proof.Machine
end

