-- ==== Sys2Proof/Machine/BusRows.lean ====
section
/-! DEFINITION. The rows that are plan-bus accesses to watched, slot and acted words, one meaning each: the access a
sound initiator makes for them (log 25). -/
namespace Sys2Proof.Machine
open Sys2Proof

/-- PLAN_BUS_ACCESS (R18), after the disturbances of stored parity that came before it (R32; log 6).
The model's choice: when the access is a RELOAD_SITE that is taken, the notice or mirror grant that the restart ends
"where it stands" (R172) has written nothing, for this row has no operand for it (log 36). -/
def execPlanBusAccess (a : Access) (upsets : List (BitVec 20)) (s : State) : Host.Outcome State Fault Refusal :=
  .next ((s.upset upsets).busAccess a)

/-- REPORT_CELL_WRITE (R89). -/
def execReportCellWrite (c : CellIx) (w : Fin 3) (v : Word) (s : State) : Host.Outcome State Fault Refusal :=
  .next (s.busAccess (goodWrite .gateway (cellAddr c w.val) v))

/-- REPORT (R92). -/
def execReport (c : CellIx) (v : Word) (s : State) : Host.Outcome State Fault Refusal :=
  .next (s.busAccess (goodWrite .gateway (cellAddr c 3) v))

/-- SLOT_DRAFT_WRITE (R58), by the slot's drafter. -/
def execSlotDraftWrite (k : SlotIx) (w : Fin 11) (v : Word) (s : State) : Host.Outcome State Fault Refusal :=
  .next (s.busAccess (goodWrite (drafterOf k) (slotAddr k w.val) v))

/-- COMMIT (R59). -/
def execCommit (k : SlotIx) (s : State) : Host.Outcome State Fault Refusal :=
  .next (s.busAccess (goodWrite (drafterOf k) (slotAddr k 11) commitValue))

/-- COMMIT_WAIT (R66). -/
def execCommitWait (k : SlotIx) (s : State) : Host.Outcome State Fault Refusal :=
  .next (s.busAccess (goodWrite (drafterOf k) (slotAddr k 11) commitWaitValue))

/-- CANCEL (R120). -/
def execCancel (k : SlotIx) (v : Word) (s : State) : Host.Outcome State Fault Refusal :=
  .next (s.busAccess (goodWrite (drafterOf k) (slotAddr k 15) v))

/-- HANDOVER_READ (R79). -/
def execHandoverRead (k : FleetIx) (s : State) : Host.Outcome State Fault Refusal :=
  .next (s.busAccess (goodRead .gateway (slotAddr (fleetSlot k) 13)))

/-- SAMPLE (R138). -/
def execSample (z : ZoneIx) (v : Word) (s : State) : Host.Outcome State Fault Refusal :=
  .next (s.busAccess (goodWrite .operations (figureAddr z false) v))

/-- MOISTURE_FIGURE_WRITE (R137). -/
def execMoistureFigureWrite (z : ZoneIx) (v : Word) (s : State) : Host.Outcome State Fault Refusal :=
  .next (s.busAccess (goodWrite .operations (figureAddr z true) v))

/-- TUNING_WRITE (R162). -/
def execTuningWrite (i : Fin 8) (v : Word) (s : State) : Host.Outcome State Fault Refusal :=
  .next (s.busAccess (goodWrite .dispatch (controlAddr (.tuning i)) v))

/-- The attention mask word of an issuer (13.1). -/
def maskWordOf : Issuer → CtlWord
  | .dispatch => .dspMask
  | .operations => .opsMask

/-- ATTENTION_MASK_WRITE (R165). -/
def execAttentionMaskWrite (i : Issuer) (v : Word) (s : State) : Host.Outcome State Fault Refusal :=
  .next (s.busAccess (goodWrite (issuerTag i) (controlAddr (maskWordOf i)) v))

/-- GATEWAY_ATTENTION_MASK_WRITE (R84). -/
def execGatewayAttentionMaskWrite (v : Word) (s : State) : Host.Outcome State Fault Refusal :=
  .next (s.busAccess (goodWrite .dispatch (controlAddr .gwyMask) v))

/-- The clear word of an issuer (13.1). -/
def clearWordOf : Issuer → CtlWord
  | .dispatch => .dspClear
  | .operations => .opsClear

/-- CLEAR_WRITE (R164). -/
def execClearWrite (i : Issuer) (v : Word) (s : State) : Host.Outcome State Fault Refusal :=
  .next (s.busAccess (goodWrite (issuerTag i) (controlAddr (clearWordOf i)) v))

/-- NOTICE_READ_INDEX_WRITE (R170). -/
def execNoticeReadIndexWrite (v : Word) (s : State) : Host.Outcome State Fault Refusal :=
  .next (s.busAccess (goodWrite .dispatch (controlAddr .readIx) v))

end Sys2Proof.Machine
end

