-- ==== Sys2Proof/Machine/CommandRows.lean ====
section
/-! DEFINITION. The rows of the command words, one meaning each: the write of the issuer's command word (R160). -/
namespace Sys2Proof.Machine
open Sys2Proof

/-- The command word of an issuer (13.1). -/
def commandWordOf : Issuer → CtlWord
  | .dispatch => .dspCommand
  | .operations => .opsCommand

/-- The access that writes a command (R160). -/
def commandAccess (i : Issuer) (code : Byte) (f : CmdFields) : Access :=
  goodWrite (issuerTag i) (controlAddr (commandWordOf i)) (commandWord code f)

/-- UNKNOWN_CODE (R160). Outside the row's codes it is the command of that code, and for dispatch's 11 the grant cut
short has written nothing (R172; log 36). -/
def execUnknownCode (i : Issuer) (code : Byte) (f : CmdFields) (s : State) : Host.Outcome State Fault Refusal :=
  .next (s.busAccess (commandAccess i code f))

/-- ACK_RESTART (R176). -/
def execAckRestart (f : CmdFields) (s : State) : Host.Outcome State Fault Refusal :=
  .next (s.busAccess (commandAccess .dispatch 1 f))

/-- WITHDRAW (R108). -/
def execWithdraw (f : CmdFields) (s : State) : Host.Outcome State Fault Refusal :=
  .next (s.busAccess (commandAccess .dispatch 2 f))

/-- READMIT (R109). -/
def execReadmit (f : CmdFields) (s : State) : Host.Outcome State Fault Refusal :=
  .next (s.busAccess (commandAccess .dispatch 3 f))

/-- CLEAR_VIOLATION (R110). -/
def execClearViolation (f : CmdFields) (s : State) : Host.Outcome State Fault Refusal :=
  .next (s.busAccess (commandAccess .dispatch 4 f))

/-- CLOSE_SEGMENT (R150). -/
def execCloseSegment (i : Issuer) (f : CmdFields) (s : State) : Host.Outcome State Fault Refusal :=
  .next (s.busAccess (commandAccess i 5 f))

/-- REOPEN_SEGMENT (R152). -/
def execReopenSegment (i : Issuer) (f : CmdFields) (s : State) : Host.Outcome State Fault Refusal :=
  .next (s.busAccess (commandAccess i 6 f))

/-- CLOSE_ZONE (R153). -/
def execCloseZone (f : CmdFields) (s : State) : Host.Outcome State Fault Refusal :=
  .next (s.busAccess (commandAccess .operations 7 f))

/-- REOPEN_ZONE (R153). -/
def execReopenZone (f : CmdFields) (s : State) : Host.Outcome State Fault Refusal :=
  .next (s.busAccess (commandAccess .operations 8 f))

/-- RESEED_ZONE (R145). -/
def execReseedZone (i : Issuer) (f : CmdFields) (s : State) : Host.Outcome State Fault Refusal :=
  .next (s.busAccess (commandAccess i 9 f))

/-- RESET_NOTICES (R171). -/
def execResetNotices (f : CmdFields) (s : State) : Host.Outcome State Fault Refusal :=
  .next (s.busAccess (commandAccess .dispatch 10 f))

/-- RELOAD_SITE (R160), with the grant that the restart cuts short (R172; log 11). -/
def execReloadSite (f : CmdFields) (cut : PortCut) (s : State) : Host.Outcome State Fault Refusal :=
  .next ((s.cutForReload cut).busAccess (commandAccess .dispatch 11 f))

end Sys2Proof.Machine
end

