-- ==== Sys2Proof/Machine/ExpiryRows.lean ====
section
/-! DEFINITION. The rows of the timers' expiries, one meaning each; an expiry is taken when the clock equals it (R166;
log 7). -/
namespace Sys2Proof.Machine
open Sys2Proof

/-- CONFIRM_OVERDUE (R88). -/
def execConfirmOverdue (k : FleetIx) (s : State) : Host.Outcome State Fault Refusal :=
  .next (s.confirmExpiry (fleetSlot k))

/-- SHORTEN_OVERDUE (R123). -/
def execShortenOverdue (k : FleetIx) (s : State) : Host.Outcome State Fault Refusal :=
  .next (s.shortenExpiry (fleetSlot k))

/-- WAIT_EXPIRED (R72). -/
def execWaitExpired (k : SlotIx) (s : State) : Host.Outcome State Fault Refusal := .next (s.waitExpiry k)

/-- SCRUBBER_LOST (R105). -/
def execScrubberLost (x : ScrubIx) (s : State) : Host.Outcome State Fault Refusal := .next (s.lostExpiry x)

/-- DRYING_EXPIRY (R129). -/
def execDryingExpiry (g : SegIx) (s : State) : Host.Outcome State Fault Refusal := .next (s.dryingExpiry g)

/-- QUIET_TIMER_EXPIRY (R142). -/
def execQuietTimerExpiry (z : ZoneIx) (s : State) : Host.Outcome State Fault Refusal := .next (s.quietExpiry z)

/-- ZONE_STALE (R143). -/
def execZoneStale (z : ZoneIx) (s : State) : Host.Outcome State Fault Refusal := .next (s.staleExpiry z)

/-- STUCK_TIMER_EXPIRY (R144). -/
def execStuckTimerExpiry (z : ZoneIx) (s : State) : Host.Outcome State Fault Refusal := .next (s.stuckExpiry z)

/-- HALT_TIMER_EXPIRY (R144). -/
def execHaltTimerExpiry (z : ZoneIx) (s : State) : Host.Outcome State Fault Refusal := .next (s.haltExpiry z)

end Sys2Proof.Machine
end

