-- ==== Sys2Proof/Machine/LoadRows.lean ====
section
/-! DEFINITION. The rows of power, the reset line, the load, the writers and the clock, one meaning each. -/
namespace Sys2Proof.Machine
open Sys2Proof

/-- POWER (R172). -/
def execPower (f : InFlight) (s : State) : Host.Outcome State Fault Refusal := .next (s.restartWith .power f)

/-- LINE (R172): the line is then held asserted. -/
def execLine (f : InFlight) (s : State) : Host.Outcome State Fault Refusal :=
  .next { s.restartWith .line f with lineHeld := true }

/-- RESET_RELEASE (R13). -/
def execResetRelease (s : State) : Host.Outcome State Fault Refusal := .next s.releaseLine

/-- HEADER_READ (R13). -/
def execHeaderRead (store : List Byte) (s : State) : Host.Outcome State Fault Refusal := .next (s.headerIn store)

/-- SITE_LOAD_COMPLETE (R17). -/
def execSiteLoadComplete (store : List Byte) (s : State) : Host.Outcome State Fault Refusal := .next (s.imageIn store)

/-- FLUSH_END (R37). -/
def execFlushEnd (s : State) : Host.Outcome State Fault Refusal := .next s.flushEnd

/-- NOTICE_ADMISSION (R169). -/
def execNoticeAdmission (s : State) : Host.Outcome State Fault Refusal := .next s.noticeAdmission

/-- NOTICE_PUBLISH (R169). -/
def execNoticePublish (s : State) : Host.Outcome State Fault Refusal := .next s.noticePublish

/-- MIRROR_RECORD_WRITE (R35). -/
def execMirrorRecordWrite (s : State) : Host.Outcome State Fault Refusal := .next s.mirrorWrite

/-- INTERLOCK_CLOCK_TICK (R166). -/
def execInterlockClockTick (s : State) : Host.Outcome State Fault Refusal := .next s.tick

end Sys2Proof.Machine
end

