-- ==== Sys2Proof/Machine/Dispatch.lean ====
section
/-! DEFINITION. Each command's meaning: one arm for each row of opcode_table.json. -/
namespace Sys2Proof.Machine
open Sys2Proof

def exec (i : Instr) (s : State) : Host.Outcome State Fault Refusal :=
  match i with
  | .power f => Sys2Proof.Machine.execPower f s
  | .line f => Sys2Proof.Machine.execLine f s
  | .resetRelease => Sys2Proof.Machine.execResetRelease s
  | .headerRead store => Sys2Proof.Machine.execHeaderRead store s
  | .siteLoadComplete store => Sys2Proof.Machine.execSiteLoadComplete store s
  | .flushEnd => Sys2Proof.Machine.execFlushEnd s
  | .planBusAccess a upsets => Sys2Proof.Machine.execPlanBusAccess a upsets s
  | .reportCellWrite c w v => Sys2Proof.Machine.execReportCellWrite c w v s
  | .report c v => Sys2Proof.Machine.execReport c v s
  | .slotDraftWrite k w v => Sys2Proof.Machine.execSlotDraftWrite k w v s
  | .commit k => Sys2Proof.Machine.execCommit k s
  | .commitWait k => Sys2Proof.Machine.execCommitWait k s
  | .cancel k v => Sys2Proof.Machine.execCancel k v s
  | .handoverRead k => Sys2Proof.Machine.execHandoverRead k s
  | .confirmOverdue k => Sys2Proof.Machine.execConfirmOverdue k s
  | .shortenOverdue k => Sys2Proof.Machine.execShortenOverdue k s
  | .waitExpired k => Sys2Proof.Machine.execWaitExpired k s
  | .scrubberLost x => Sys2Proof.Machine.execScrubberLost x s
  | .dryingExpiry g => Sys2Proof.Machine.execDryingExpiry g s
  | .sample z v => Sys2Proof.Machine.execSample z v s
  | .moistureFigureWrite z v => Sys2Proof.Machine.execMoistureFigureWrite z v s
  | .quietTimerExpiry z => Sys2Proof.Machine.execQuietTimerExpiry z s
  | .zoneStale z => Sys2Proof.Machine.execZoneStale z s
  | .stuckTimerExpiry z => Sys2Proof.Machine.execStuckTimerExpiry z s
  | .haltTimerExpiry z => Sys2Proof.Machine.execHaltTimerExpiry z s
  | .unknownCode who code f => Sys2Proof.Machine.execUnknownCode who code f s
  | .ackRestart f => Sys2Proof.Machine.execAckRestart f s
  | .withdraw f => Sys2Proof.Machine.execWithdraw f s
  | .readmit f => Sys2Proof.Machine.execReadmit f s
  | .clearViolation f => Sys2Proof.Machine.execClearViolation f s
  | .closeSegment who f => Sys2Proof.Machine.execCloseSegment who f s
  | .reopenSegment who f => Sys2Proof.Machine.execReopenSegment who f s
  | .closeZone f => Sys2Proof.Machine.execCloseZone f s
  | .reopenZone f => Sys2Proof.Machine.execReopenZone f s
  | .reseedZone who f => Sys2Proof.Machine.execReseedZone who f s
  | .resetNotices f => Sys2Proof.Machine.execResetNotices f s
  | .reloadSite f cut => Sys2Proof.Machine.execReloadSite f cut s
  | .tuningWrite n v => Sys2Proof.Machine.execTuningWrite n v s
  | .attentionMaskWrite who v => Sys2Proof.Machine.execAttentionMaskWrite who v s
  | .gatewayAttentionMaskWrite v => Sys2Proof.Machine.execGatewayAttentionMaskWrite v s
  | .clearWrite who v => Sys2Proof.Machine.execClearWrite who v s
  | .noticeReadIndexWrite v => Sys2Proof.Machine.execNoticeReadIndexWrite v s
  | .noticeAdmission => Sys2Proof.Machine.execNoticeAdmission s
  | .noticePublish => Sys2Proof.Machine.execNoticePublish s
  | .mirrorRecordWrite => Sys2Proof.Machine.execMirrorRecordWrite s
  | .interlockClockTick => Sys2Proof.Machine.execInterlockClockTick s

end Sys2Proof.Machine
end

