-- ==== Sys2Proof/Safety.lean ====
section
/-! DEFINITION. What statements say of the whole part: the state that an event at the core leaves alone, and the laws the
manual states of the part (R59, R61, R69, R73, R124, R126, R168). -/
namespace Sys2Proof

/-- The rows that are one plan-bus access. -/
def Instr.busRow : Instr → Bool
  | .planBusAccess _ _ | .reportCellWrite _ _ _ | .report _ _ | .slotDraftWrite _ _ _ | .commit _ | .commitWait _
  | .cancel _ _ | .handoverRead _ | .sample _ _ | .moistureFigureWrite _ _ | .unknownCode _ _ _ | .ackRestart _
  | .withdraw _ | .readmit _ | .clearViolation _ | .closeSegment _ _ | .reopenSegment _ _ | .closeZone _
  | .reopenZone _ | .reseedZone _ _ | .resetNotices _ | .reloadSite _ _ | .tuningWrite _ _
  | .attentionMaskWrite _ _ | .gatewayAttentionMaskWrite _ | .clearWrite _ _ | .noticeReadIndexWrite _ => true
  | .power _ | .line _ | .resetRelease | .headerRead _ | .siteLoadComplete _ | .flushEnd | .confirmOverdue _
  | .shortenOverdue _ | .waitExpired _ | .scrubberLost _ | .dryingExpiry _ | .quietTimerExpiry _ | .zoneStale _
  | .stuckTimerExpiry _ | .haltTimerExpiry _ | .noticeAdmission | .noticePublish | .mirrorRecordWrite
  | .interlockClockTick => false

/-- The disturbances of stored parity that come with a row. -/
def Instr.upsets : Instr → List (BitVec 20)
  | .planBusAccess _ u => u
  | _ => []

/-- The first word of an access alone (R29). -/
def Access.firstOnly (a : Access) : Access :=
  { a with transfer := match a.transfer with | .read _ => .read 0 | .write w _ => .write w [] }

end Sys2Proof

namespace Sys2Proof.Machine
open Sys2Proof

/-! ### Frames -/

/-- The state that no event at the core, the tracker, the drying unit or the zone monitor reaches: the queue of
commands, plan memory, the bus, the port, the loader, the clock, the masks, results and tuning words, the ring's
indices. -/
structure Outside where
  pending : List Instr
  mem : List Host.Cell
  badParity : List Nat
  answer : Option BusAnswer
  capture : Option RefusedAccess
  lastServed : PortUser
  noticeGrant : Option NoticeGrant
  promo : List MirrorRec
  lastWritten : Nat
  mode : Mode
  cause : Cause
  siteFault : SiteFault
  lineHeld : Bool
  load : LoadPhase
  ackRestart : Bool
  site : Option Site
  clock : Word
  dspMask : BitVec 16
  opsMask : BitVec 5
  gwyMask : BitVec 20
  dspResult : CmdResult
  opsResult : CmdResult
  tuning : Vector Word 8
  held : Option Notice
  writeIx : BitVec 10
  readIx : BitVec 10
  deriving DecidableEq, Repr

/-- A state's outside. -/
def State.outside (s : State) : Outside :=
  { pending := s.pending, mem := s.mem, badParity := s.badParity, answer := s.answer, capture := s.capture,
    lastServed := s.lastServed, noticeGrant := s.noticeGrant, promo := s.promo, lastWritten := s.lastWritten,
    mode := s.mode, cause := s.cause, siteFault := s.siteFault, lineHeld := s.lineHeld, load := s.load,
    ackRestart := s.ackRestart, site := s.site, clock := s.clock, dspMask := s.dspMask, opsMask := s.opsMask,
    gwyMask := s.gwyMask, dspResult := s.dspResult, opsResult := s.opsResult, tuning := s.tuning, held := s.held,
    writeIx := s.writeIx, readIx := s.readIx }

/-- An outside with the bus answer of an access. -/
def Outside.answering (o : Outside) (b : BusAnswer) : Outside := { o with answer := some b }

/-- The answer to a write whose one word was taken (R18). -/
def tookOne : BusAnswer := .done 1 []

/-! ### The laws of the part -/

/-- Plan memory is in its canonical form. -/
def State.memoryLaw (s : State) : Prop := memWf s.mem = true

/-- While the mode is not SERVICE every slot is IDLE (R59, R124). -/
def State.idleLaw (s : State) : Prop := s.mode ≠ .service → ∀ k : SlotIx, (s.slot k).state = .idle

/-- The staging queue holds at most 16 notices, the held one included (R168). -/
def State.stagingLaw (s : State) : Prop := s.staged ≤ 16

/-- A live fleet slot names a scrubber, and no two live fleet slots name the same one (R61). -/
def State.oneSlotLaw (s : State) : Prop :=
  (∀ k : SlotIx, isFleet k = true → (s.slot k).state.live = true → (s.slot k).scrubber.isSome = true)
    ∧ ∀ j k : SlotIx, isFleet j = true → isFleet k = true → (s.slot j).state.live = true →
        (s.slot k).state.live = true → (s.slot j).scrubber = (s.slot k).scrubber → j = k

/-- The waiting queue holds exactly the slots in WAITING, each once, passenger slots ahead of fleet slots (R69). -/
def State.queueLaw (s : State) : Prop :=
  s.queue.Nodup ∧ (∀ k : SlotIx, k ∈ s.queue ↔ (s.slot k).state = .waiting)
    ∧ s.queue = s.queue.filter (fun k => !isFleet k) ++ s.queue.filter isFleet

/-- The wet field of a segment and its drying list entry agree (R126). -/
def State.wetAgrees (s : State) (g : SegIx) : Prop :=
  match (s.seg g).wet with
  | none => ∀ e ∈ s.drying, e.seg ≠ g
  | some w => ∃ e ∈ s.drying, e.seg = g ∧ e.expiry = w.expiry ∧ e.count = w.count

/-- The law of the drying list (R38, R126, R134): a segment is in it exactly when it is wet, at most once, with the
same expiry and count, in increasing order of expiry; a held segment is not wet; carried wet stands only under a fleet
holder; outside SERVICE nothing is wet or held. -/
def State.dryingLaw (s : State) : Prop :=
  (s.drying.map DryEntry.seg).Nodup
    ∧ s.drying.Pairwise (fun a b => a.expiry.toNat ≤ b.expiry.toNat)
    ∧ (∀ g : SegIx, s.wetAgrees g)
    ∧ (∀ g : SegIx, (s.seg g).holder.isSome = true → (s.seg g).wet = none)
    ∧ (∀ g : SegIx, (s.seg g).carried = true → (s.seg g).holder.any isFleet = true)
    ∧ (s.mode ≠ .service → ∀ g : SegIx, (s.seg g).wet = none ∧ (s.seg g).holder = none)

/-- A slot's route and end index stay in the ten entries of a draft (R60, R65, R113). -/
def State.routeLaw (s : State) : Prop := ∀ k : SlotIx, (s.slot k).route.length ≤ 10 ∧ (s.slot k).endIx ≤ 10

/-- No segment stands twice in a slot's route (R61, R62). -/
def State.distinctLaw (s : State) : Prop := ∀ k : SlotIx, (s.slot k).route.Nodup

/-- The live slot of a scrubber is a live fleet slot that names the scrubber (R65, R66, R74, R91). -/
def State.liveSlotLaw (s : State) : Prop :=
  ∀ (x : ScrubIx) (j : FleetIx), (s.scrub x).liveSlot = some j →
    (s.slot (fleetSlot j)).state.live = true ∧ (s.slot (fleetSlot j)).scrubber = some x

/-- A live fleet slot has a route; an authority's progress index lies within its end, and its end within its route (R65,
R98, R112). -/
def State.spanLaw (s : State) : Prop :=
  ∀ k : SlotIx, k.val < 20 → ((s.slot k).state ≠ .idle → (s.slot k).route ≠ [])
    ∧ ((s.slot k).state.authority = true →
        (s.slot k).progress ≤ (s.slot k).endIx ∧ (s.slot k).endIx ≤ (s.slot k).route.length)

/-- The dirty marks stand in rising order of their records' addresses, each once (R35). -/
def State.marksLaw (s : State) : Prop := s.dirty.Pairwise (fun a b => a.addr < b.addr)

/-- A header that is kept while the rest of the image is read has passed the header's checks (R13, R14). -/
def State.loadLaw (s : State) : Prop := ∀ h, s.load = .body h → h.length = 24 ∧ headerCheck h = none

/-- Whether a slot's authority is the same or has shrunk from one record to the next: the end index does not rise, and
the revision differs when the end index does (R73). -/
def Slot.onlyShrinks (r t : Slot) : Prop :=
  r.state.authority = true → t.state.authority = true →
    t.endIx ≤ r.endIx ∧ (t.endIx ≠ r.endIx → t.revision ≠ r.revision)

/-! ### The laws of held floor, of the pinch table and of the memory port -/

/-- The law of held floor (R38, R40, R99, R114, R115): a segment is held only by a fleet slot with an authority or an
ACTIVE passenger slot, and stands on its route; a fleet slot with an authority holds every entry from its progress
index to its end and every pending one, and nothing else at or above its progress index; pending entries belong to
SHORTENING and lie above the end; a segment is release-pending exactly when it is the segment of a pending entry of its
holder; evidence goes with the route; in LOADING nothing is occupied. -/
def State.holdingLaw (s : State) : Prop :=
  (∀ (g : SegIx) (k : SlotIx), (s.seg g).holder = some k → g ∈ (s.slot k).route
      ∧ (if k.val < 20 then (s.slot k).state.authority = true else (s.slot k).state = .active))
    ∧ (∀ k : SlotIx, k.val < 20 → (s.slot k).state.authority = true →
        ∀ e ∈ (s.slot k).entries, (s.slot k).progress ≤ e.2 →
        ((s.seg e.1).holder = some k ↔ e.2 ≤ (s.slot k).endIx ∨ e.2 ∈ (s.slot k).pendingSet))
    ∧ (∀ k : SlotIx, ∀ i ∈ (s.slot k).pendingSet, k.val < 20 ∧ (s.slot k).state = .shortening
        ∧ (s.slot k).endIx < i ∧ i ≤ (s.slot k).route.length)
    ∧ (∀ g : SegIx, (s.seg g).pendingRel = true ↔ ∃ k : SlotIx, (s.seg g).holder = some k
        ∧ ∃ e ∈ (s.slot k).entries, e.1 = g ∧ e.2 ∈ (s.slot k).pendingSet)
    ∧ (∀ k : SlotIx, k.val < 20 → (s.slot k).state.authority = true →
        (s.slot k).evidence.length = (s.slot k).route.length)
    ∧ (s.mode = .loading → ∀ g : SegIx, (s.seg g).occupant = none)

/-- The segments of a pinch group that a scrubber occupies or its fleet slot holds, counted, whoever else holds or
occupies them (R47; the model's choice where its sentences overlap, log 35). -/
def pinchUse (s : State) (p : PinchIx) (x : ScrubIx) : Nat :=
  ((List.finRange 255).filter (fun g => decide (g.val < s.n) && (s.fixed g).pinch == some p
    && ((s.seg g).occupant == some x
      || (s.seg g).holder.any (fun k => decide (k.val < 20) && (s.slot k).scrubber == some x)))).length

/-- Whether a segment is one of a pinch group (R4). -/
def inGroup (s : State) (p : PinchIx) (g : SegIx) : Prop := g.val < s.n ∧ (s.fixed g).pinch = some p

/-- The law of the pinch table (R47 to R49): a group without a holder has count 0, and none of its segments is occupied
or held by a fleet slot; a group's holder has the count of its use of the group, at least 1, and every fleet slot that
holds one of the group's segments names it. -/
def State.pinchLaw (s : State) : Prop :=
  ∀ p : PinchIx, match (s.pinchEntry p).holder with
    | none => (s.pinchEntry p).count = 0
        ∧ ∀ g : SegIx, inGroup s p g → (s.seg g).occupant = none ∧ ∀ k, (s.seg g).holder = some k → 20 ≤ k.val
    | some h => (s.pinchEntry p).count = pinchUse s p h ∧ 1 ≤ (s.pinchEntry p).count
        ∧ ∀ g : SegIx, inGroup s p g → ∀ k, (s.seg g).holder = some k → k.val < 20 → (s.slot k).scrubber = some h

/-- The entry that a group has once its count is brought up to date, its holder having been h (R48, R49): h with its
count, or, that count being 0, the occupant of the lowest-numbered occupied segment with its own, or nobody. -/
def pinchAfter (u : State) (p : PinchIx) (h : ScrubIx) (e : Pinch) : Prop :=
  (pinchUse u p h ≠ 0 → e = { holder := some h, count := pinchUse u p h })
    ∧ (pinchUse u p h = 0 →
      (∀ g y, inGroup u p g → (u.seg g).occupant = some y →
          (∀ f : SegIx, f.val < g.val → inGroup u p f → (u.seg f).occupant = none) →
          e = { holder := some y, count := pinchUse u p y })
      ∧ ((∀ g, inGroup u p g → (u.seg g).occupant = none) → e = {}))

/-- Whether the mirror writer waits for the port (R35, R37). -/
def mirrorAsks (s : State) : Prop := s.mode ≠ .loading ∧ (s.dirty ≠ [] ∨ s.promo ≠ [])

/-- Whether the notice writer comes before the mirror writer at a free port: the mirror writer does not wait, or is the
last requester served (R33). -/
def noticeComesNext (s : State) : Prop := ¬ mirrorAsks s ∨ s.lastServed = .mirror

/-- The law of the port (R33, R169, R171): a lasting grant of the notice writer makes it the last requester served, and
what it is to publish is the held notice at the write index; a held notice fits the free space; a held notice whose
grant has not begun waits for the mirror writer; in LOADING nothing is held or granted. -/
def State.portLaw (s : State) : Prop :=
  (∀ g, s.noticeGrant = some g → s.lastServed = .notice ∧ g.notice.payload.length + 2 ≤ 1023
      ∧ (g.publish = true → s.held = some g.notice ∧ g.start = s.writeIx))
    ∧ (∀ n, s.held = some n → (s.writeIx - s.readIx).toNat + (n.payload.length + 2) ≤ 1023)
    ∧ (s.held ≠ none → s.noticeGrant = none → ¬ noticeComesNext s)
    ∧ (s.mode = .loading → s.held = none ∧ s.noticeGrant = none)

/-! ### What statements say of a next state -/

/-- Accesses go on past R20: the mode is neither LOADING nor INITIALISING. -/
def State.attends (s : State) : Bool := s.mode != .loading && s.mode != .initialising

/-- The dirty marks after: those before, those listed, and a status word's when its flags have changed (R35, R163). -/
def State.marks (s t : State) (l : List MirrorRec) : Prop :=
  ∀ r, r ∈ t.dirty ↔ r ∈ s.dirty ∨ r ∈ l ∨ (r = .control .dspStatus ∧ t.dspFlags ≠ s.dspFlags)
    ∨ (r = .control .opsStatus ∧ t.opsFlags ≠ s.opsFlags)

/-- The notices of an event that are not suppressed (R162, R168). -/
def State.sendable (s : State) (l : List (NoticeKind × List Word)) : List (NoticeKind × List Word) :=
  l.filter (fun p => !s.suppressed p.1)

/-- The event has produced the notices l in order and set the dispatch flags listed: the staging queue takes those that
are not suppressed while it holds fewer than 16, and NOTICE_LOST is set when one found no room (R167, R168). -/
def State.notices (s t : State) (l : List (NoticeKind × List Word)) (flags : List DspFlag) : Prop :=
  t.staging = s.staging
      ++ ((s.sendable l).take (16 - s.staged)).map (fun p => { kind := p.1, clock := s.clock, payload := p.2 })
    ∧ ∀ f, t.dsp f = (s.dsp f || decide (f ∈ flags)
        || (f == .noticeLost && decide (16 - s.staged < (s.sendable l).length)))

/-- One word of plan memory has been written, with good parity, and no other (R24). -/
def State.wrote (s t : State) (a : BitVec 18) (v : Word) : Prop :=
  t.readWord a = v ∧ t.wordBad a = false
    ∧ ∀ b, b ≠ a → t.readWord b = s.readWord b ∧ t.wordBad b = s.wordBad b

/-- The state in which the turn at the port has come of an access whose event, found in s, has left u (R33; log 9). -/
def State.turn (s u : State) : State := if s.portReady = true then u else u.awaitPort

/-- An access has judged its parities at its event: BUS_PARITY is set when one fails, and nothing else (R30, R31). -/
def State.judgedParity (s u : State) (bad : Prop) : Prop :=
  u = { s with dspFlags := u.dspFlags, dirty := u.dirty }
    ∧ (∀ f, u.dsp f = true ↔ s.dsp f = true ∨ (f = .busParity ∧ bad)) ∧ s.marks u []

/-- The write of a watched word whose event, the owner's part included, has left u: when its turn at the port has come
the word goes to memory, and the write is answered DONE (R18, R24, R25, R33; log 9). -/
def State.tookWord (s u t : State) (a : BitVec 18) (v : Word) : Prop :=
  t = { s.turn u with mem := t.mem, badParity := t.badParity, lastServed := .passage, answer := some tookOne }
    ∧ (s.turn u).wrote t a v

/-- A row that writes a watched word hands the copy over at its event: the owner has acted, in u, before the port, the
writers and memory move; then the word is written in its turn (R25, R33). -/
def handsOverFirst (s : State) (c : Instr) (a : BitVec 18) (v : Word) : Prop :=
  ∃ u t, exec c s = .next t.arbitrate ∧ s.tookWord u t a v ∧ u.outside = { s.outside with mode := u.mode }

/-- Only one slot record has changed. -/
def State.onlySlot (s t : State) (k : SlotIx) (r : Slot) : Prop :=
  t.slot k = r ∧ ∀ j, j ≠ k → t.slot j = s.slot j

/-- Only one scrubber record has changed. -/
def State.onlyScrub (s t : State) (x : ScrubIx) (r : Scrubber) : Prop :=
  t.scrub x = r ∧ ∀ y, y ≠ x → t.scrub y = s.scrub y

/-- Only one zone record has changed. -/
def State.onlyZone (s t : State) (z : ZoneIx) (r : Zone) : Prop :=
  t.zone z = r ∧ ∀ y, y ≠ z → t.zone y = s.zone y

/-- Only one segment record has changed. -/
def State.onlySeg (s t : State) (g : SegIx) (r : Seg) : Prop :=
  t.seg g = r ∧ ∀ h, h ≠ g → t.seg h = s.seg h

/-- A slot record that has returned to IDLE (R74): draft, scrubber, mode, revision and overdue mark stay. -/
def Slot.returned (r : Slot) (res : Result) (i : Nat) (changed : Bool) : Slot :=
  { draft := r.draft, scrubber := r.scrubber, mode := r.mode, revision := r.revision, overdue := r.overdue,
    result := res, failIx := i, changed := changed }

/-- A slot's record has been shortened to the effective end e (R112 to R114). -/
def State.cut (s t : State) (k : SlotIx) (e : Nat) : Prop :=
  t.slot k = { s.slot k with
      endIx := e, revision := nextRevision (s.slot k).revision, changed := true, state := (t.slot k).state,
      pendingSet := (t.slot k).pendingSet, confirmTimer := (t.slot k).confirmTimer,
      shortenTimer := (t.slot k).shortenTimer }
    ∧ ((s.slot k).state = .granted →
        (t.slot k).state = .granted ∧ (t.slot k).pendingSet = (s.slot k).pendingSet
          ∧ (t.slot k).confirmTimer = (s.slot k).confirmTimer ∧ (t.slot k).shortenTimer = (s.slot k).shortenTimer)
    ∧ ((s.slot k).state ≠ .granted →
        (t.slot k).state = .shortening ∧ (t.slot k).confirmTimer = none
          ∧ (t.slot k).shortenTimer = some (s.clock + BitVec.ofNat 32 s.shortenTimeout)
          ∧ ∀ j, j ∈ (t.slot k).pendingSet ↔
              j ∈ (s.slot k).pendingSet ∨ ∃ g, (g, j) ∈ (s.slot k).entries ∧ e < j ∧ (s.seg g).holder = some k)

/-- A waiting fleet slot's entry ends at its evaluation with a permanent failure (R71): the slot's own return, the
queue, the scrubber's live slot, the REFUSED notice, and nothing else but dirty marks. -/
def State.endsWaiting (u : State) (k : SlotIx) (x : ScrubIx) (r : Result) (i : Nat) : Prop :=
  ∃ t, u.reevalEntry k = t ∧ t = { u with
      slots := t.slots, queue := u.queue.filter (fun j => j != k), scrubbers := t.scrubbers, staging := t.staging,
      dspFlags := t.dspFlags, dirty := t.dirty }
    ∧ u.onlySlot t k ((u.slot k).returned r i (u.slot k).changed)
    ∧ u.onlyScrub t x { u.scrub x with liveSlot := none }
    ∧ u.notices t [(.refused, [pack4 (k.val + 1) r.code i 0])] [] ∧ MirrorRec.slotStatus k ∈ t.dirty

/-- What the record of a segment says beside its occupant, holder, wet, carried and pending fields stays. -/
def Seg.sameClosure (r t : Seg) : Prop := t.closure = r.closure ∧ t.claims = r.claims

/-- A command's record in the issuer's result word (R160). -/
def State.resultOf (s : State) : Issuer → CmdResult
  | .dispatch => s.dspResult
  | .operations => s.opsResult

/-- The issuer's result word as a mirror record (R160). -/
def resultRecord : Issuer → MirrorRec
  | .dispatch => .control .dspResult
  | .operations => .control .opsResult

/-- A command has been refused (R161): the result record, the flag and the notice, and nothing else. -/
def State.refusedCommand (s t : State) (i : Issuer) (code tag : Byte) (o : CmdOutcome) : Prop :=
  t = { s with
      answer := some tookOne, dspResult := t.dspResult, opsResult := t.opsResult, dspFlags := t.dspFlags,
      opsFlags := t.opsFlags, staging := t.staging, dirty := t.dirty }
    ∧ t.resultOf i = { code := code, tag := tag, outcome := o }
    ∧ (∀ j, j ≠ i → t.resultOf j = s.resultOf j)
    ∧ s.notices t
        [(.commandRefused, [pack4 (tagCode (issuerTag i)) code.toNat tag.toNat o.code])]
        (match i with | .dispatch => [.commandRefused] | .operations => [])
    ∧ (∀ f, t.ops f = (s.ops f || decide (f = .commandRefused ∧ i = .operations)))
    ∧ s.marks t [resultRecord i]

/-! ### The words of the image (R14 to R16, R180) -/

/-- Two bytes of an image, the more significant first (R180). -/
def twoBytes (b : List Byte) (i : Nat) : Nat := 256 * byteOf b i + byteOf b (i + 1)

/-- The length that an image's n and z give (R180). -/
def imageLen (b : List Byte) : Nat := 114 + byteOf b 6 + 10 * byteOf b 5

/-- One bit into the CRC-16 of R14. -/
def crcStep (c : BitVec 16) (bit : Bool) : BitVec 16 := if c.getLsbD 15 = bit then c <<< 1 else (c <<< 1) ^^^ 0x1021

/-- The CRC-16 of R14: from FFFFh, each byte's bits from the most significant. -/
def crcOf (b : List Byte) : BitVec 16 :=
  (b.flatMap (fun v => (List.range 8).map (fun i => v.getLsbD (7 - i)))).foldl crcStep 0xFFFF

/-- Whether an image's check value is that of its bytes (R14, check 5). -/
def crcRight (b : List Byte) : Prop := (crcOf (b.take (imageLen b - 2))).toNat = twoBytes b (imageLen b - 2)

/-- Whether timing value i + 1 is the marker or in its range (R11, R15). -/
def timingRight (b : List Byte) (i : Nat) : Prop :=
  twoBytes b (14 + 2 * i) = 0xFFFF
    ∨ (if i = 0 then 5 else if i = 1 ∨ i = 2 then 10 else if i = 3 then 0 else 1) ≤ twoBytes b (14 + 2 * i)
      ∧ twoBytes b (14 + 2 * i) ≤ 255

/-- Whether the drying time of class i is in its range (R15, 2). -/
def classRight (b : List Byte) (i : Nat) : Prop := 1 ≤ byteOf b (24 + 2 * i) ∧ byteOf b (24 + 2 * i) ≤ 180

/-- Whether profile i + 1 has no field out of range (R15, 3). -/
def profileRight (b : List Byte) (i : Nat) : Prop :=
  byteOf b (40 + 18 * i) ≤ 7 ∧ byteOf b (41 + 18 * i) ≤ 15 ∧ byteOf b (42 + 18 * i) ≤ 7 ∧ twoBytes b (45 + 18 * i) ≠ 0
    ∧ (1 ≤ byteOf b (50 + 18 * i) ∧ byteOf b (50 + 18 * i) ≤ 15)
    ∧ (1 ≤ byteOf b (51 + 18 * i) ∧ byteOf b (51 + 18 * i) ≤ 15) ∧ twoBytes b (54 + 18 * i) ≤ 1000

/-- Whether zone i + 1 names a profile (R15, 4). -/
def zoneRight (b : List Byte) (i : Nat) : Prop := 1 ≤ byteOf b (112 + i) ∧ byteOf b (112 + i) ≤ 4

/-- Byte o of the entry of segment i + 1 (R180). -/
def segByte (b : List Byte) (i o : Nat) : Nat := byteOf b (112 + byteOf b 6 + 10 * i + o)

/-- Whether neighbour j of segment i + 1, counted from 0, is another segment 1 to n that no earlier one is (R15, 5). -/
def neighbourRight (b : List Byte) (i j : Nat) : Prop :=
  1 ≤ segByte b i (4 + j) ∧ segByte b i (4 + j) ≤ byteOf b 5 ∧ segByte b i (4 + j) ≠ i + 1
    ∧ ∀ h, h < j → segByte b i (4 + h) ≠ segByte b i (4 + j)

/-- Whether segment i + 1 passes its checks (R15, 5). -/
def segmentRight (b : List Byte) (i : Nat) : Prop :=
  segByte b i 0 ≤ byteOf b 6 ∧ (segByte b i 1 ≤ 7 ∨ segByte b i 1 = 15) ∧ segByte b i 2 ≤ 16 ∧ segByte b i 3 ≤ 6
    ∧ ∀ j, j < segByte b i 3 → neighbourRight b i j

/-- Whether every neighbour of segment i + 1 lists it back (R16). -/
def mutualRight (b : List Byte) (i : Nat) : Prop :=
  ∀ j, j < segByte b i 3 →
    ∃ h, h < segByte b (segByte b i (4 + j) - 1) 3 ∧ segByte b (segByte b i (4 + j) - 1) (4 + h) = i + 1

/-- What the checks of segment i + 1 give, those of the parts and segments before having passed (R15, 5): its first
failure, with the segment's number as item. -/
def segmentVerdict (b : List Byte) (i : Nat) (v : Option SiteFault) : Prop :=
  if byteOf b 6 < segByte b i 0 then v = some { reason := .segmentZone, item := i + 1 }
  else if 7 < segByte b i 1 ∧ segByte b i 1 ≠ 15 then v = some { reason := .segmentClass, item := i + 1 }
  else if 16 < segByte b i 2 then v = some { reason := .segmentPinch, item := i + 1 }
  else if 6 < segByte b i 3 then v = some { reason := .neighbourCount, item := i + 1 }
  else ∀ j, j < segByte b i 3 → (∀ h, h < j → neighbourRight b i h) →
    (segByte b i (4 + j) = 0 ∨ byteOf b 5 < segByte b i (4 + j) →
      v = some { reason := .neighbourRange, item := i + 1 })
    ∧ (1 ≤ segByte b i (4 + j) ∧ segByte b i (4 + j) ≤ byteOf b 5 →
      (segByte b i (4 + j) = i + 1 → v = some { reason := .neighbourSelf, item := i + 1 })
      ∧ (segByte b i (4 + j) ≠ i + 1 → (∃ h, h < j ∧ segByte b i (4 + h) = segByte b i (4 + j)) →
        v = some { reason := .neighbourRepeat, item := i + 1 }))

/-- Bit j of byte i of an image. -/
def imageBit (b : List Byte) (i j : Nat) : Bool := (byteOf b i).testBit j

/-- The polarity that a polarity bit names (R180). -/
def polarityIs (v : Bool) (p : Polarity) : Prop :=
  p = match v with | false => .activeLowOpenDrain | true => .activeHighDriven

/-- The image value of a timing value: as its two bytes say, or its built-in default at the marker (R11). -/
def timingIs (b : List Byte) (i default v : Nat) : Prop :=
  v = if twoBytes b (14 + 2 * i) = 0xFFFF then default else twoBytes b (14 + 2 * i)

/-- The floor class that class i of an image gives (R5, R180). -/
def classIs (b : List Byte) (i : Nat) (c : FloorClass) : Prop :=
  c.drying = byteOf b (24 + 2 * i) ∧ c.wetScrub = imageBit b (25 + 2 * i) 0
    ∧ c.moistureCheck = imageBit b (25 + 2 * i) 1 ∧ c.restartWet = imageBit b (25 + 2 * i) 2

/-- The sensing profile that profile i + 1 of an image gives (R9, R180). -/
def profileIs (b : List Byte) (i : Nat) (p : Profile) : Prop :=
  p.filterShift = byteOf b (40 + 18 * i) ∧ p.baselineShift = byteOf b (41 + 18 * i)
    ∧ p.fastShift = byteOf b (42 + 18 * i) ∧ p.fastBound = twoBytes b (43 + 18 * i)
    ∧ p.presence = twoBytes b (45 + 18 * i) ∧ p.halt = twoBytes b (47 + 18 * i)
    ∧ p.hysteresis = byteOf b (49 + 18 * i) ∧ p.debounceIn = byteOf b (50 + 18 * i)
    ∧ p.debounceOut = byteOf b (51 + 18 * i) ∧ p.quietTime = byteOf b (52 + 18 * i)
    ∧ p.stuckTimeout = byteOf b (53 + 18 * i) ∧ p.dryThreshold = twoBytes b (54 + 18 * i)
    ∧ p.notices = imageBit b (56 + 18 * i) 0

/-- The fixed fields that the entry of segment i + 1 of an image gives: class code 15 is the terminus default class, and
of the neighbour bytes only those of the count are read (R2, R3, R180). -/
def segmentIs (b : List Byte) (i : Nat) (r : SegFixed) : Prop :=
  numOf r.zone = segByte b i 0
    ∧ (match r.cls with | none => segByte b i 1 = 15 | some c => segByte b i 1 = c.val)
    ∧ numOf r.pinch = segByte b i 2
    ∧ r.nbrs.map (fun g => g.val + 1) = (List.range (segByte b i 3)).map (fun j => segByte b i (4 + j))

/-! ### Sound sites (R2, R3, R5, R8, R9, R11) -/

/-- A profile whose values lie in their ranges (R9). -/
def Profile.sound (p : Profile) : Prop :=
  p.filterShift ≤ 7 ∧ p.baselineShift ≤ 15 ∧ p.fastShift ≤ 7 ∧ p.fastBound ≤ 65535 ∧ 1 ≤ p.presence ∧ p.presence ≤ 65535
    ∧ p.halt ≤ 65535 ∧ p.hysteresis ≤ 255 ∧ 1 ≤ p.debounceIn ∧ p.debounceIn ≤ 15 ∧ 1 ≤ p.debounceOut
    ∧ p.debounceOut ≤ 15 ∧ p.quietTime ≤ 255 ∧ p.stuckTimeout ≤ 255 ∧ p.dryThreshold ≤ 1000

/-- The segment with index i of a site has its fields in range and a sound neighbour list (R2, R3). -/
def Site.soundSegment (m : Site) (i : Nat) (r : SegFixed) : Prop :=
  (∀ z, r.zone = some z → z.val < m.zones.length) ∧ r.nbrs.length ≤ 6 ∧ r.nbrs.Nodup
    ∧ ∀ h ∈ r.nbrs, h.val < m.segs.length ∧ h.val ≠ i
        ∧ ∃ q, m.segs[h.val]? = some q ∧ ∃ g ∈ q.nbrs, g.val = i

/-- A site model whose values all lie in their ranges, with symmetric adjacency. -/
def Site.sound (m : Site) : Prop :=
  1 ≤ m.segs.length ∧ m.segs.length ≤ 255 ∧ m.zones.length ≤ 32
    ∧ (∀ c : ClassIx, 1 ≤ (m.classes[c.val]).drying ∧ (m.classes[c.val]).drying ≤ 180)
    ∧ (∀ p : ProfileIx, (m.profiles[p.val]).sound)
    ∧ (5 ≤ m.timings.report ∧ m.timings.report ≤ 255) ∧ (10 ≤ m.timings.confirm ∧ m.timings.confirm ≤ 255)
    ∧ (10 ≤ m.timings.shorten ∧ m.timings.shorten ≤ 255) ∧ m.timings.fleetWait ≤ 255
    ∧ (1 ≤ m.timings.passengerWait ∧ m.timings.passengerWait ≤ 255)
    ∧ ∀ i r, m.segs[i]? = some r → m.soundSegment i r

/-- The site model in force is sound. -/
def State.siteLaw (s : State) : Prop := ∀ m, s.site = some m → m.sound

/-! ### The law of the mirrors (R34, R35) and of the drafts (R58, R60) -/

/-- Every clean mirror record stands in plan memory as its owner has it; in LOADING every record is dirty (R35, R37). -/
def State.mirrorLaw (s : State) : Prop :=
  (∀ r ∈ allRecords, r ∉ s.dirty → ∀ p ∈ s.recordWords r, s.readWord p.1 = p.2)
    ∧ (s.mode = .loading → ∀ r ∈ allRecords, r ∈ s.dirty)

/-- A route value of a draft that has been written stands in plan memory (R58), and a captured route is made of such
values while its slot is not IDLE (R60). -/
def State.draftLaw (s : State) : Prop :=
  (∀ (k : SlotIx) (i : Fin 10), (s.slot k).draft.route[i.val] ≠ 0 →
      s.readWord (slotAddr k (i.val + 1)) = (s.slot k).draft.route[i.val])
    ∧ ∀ k : SlotIx, (s.slot k).state ≠ .idle → ∀ i g, (s.slot k).route[i]? = some g →
        s.readWord (slotAddr k (i + 1)) = BitVec.ofNat 32 (g.val + 1)

/-! ### The layouts of words (R178, R179, 13.1, 13.2, 13.4) -/

/-- A word whose fields are the ones listed, each by its lowest place, its width and its number, with 0 in every place
that no field takes (R178). -/
def hasFields (w : Word) (l : List (Nat × Nat × Nat)) : Prop :=
  (∀ f ∈ l, w.extractLsb' f.1 f.2.1 = BitVec.ofNat f.2.1 f.2.2)
    ∧ ∀ i, i < 32 → (∀ f ∈ l, ¬ (f.1 ≤ i ∧ i < f.1 + f.2.1)) → w.getLsbD i = false

/-- A place of a word that shows a condition. -/
def place (b : Bool) : Nat := if b then 1 else 0

/-- The layout of a segment's state summary (R54, 13.4). -/
def segmentFields (f : SegFixed) (r : Seg) : List (Nat × Nat × Nat) :=
  [(0, 5, numOf r.holder), (5, 5, numOf r.occupant), (10, 1, place r.wet.isSome), (11, 1, place r.carried),
   (12, 1, place r.closure.operations), (13, 1, place r.closure.dispatch), (14, 1, place r.closure.drying),
   (15, 1, place (decide (r.claims ≠ []))), (16, 1, place r.pendingRel), (20, 5, numOf f.pinch)]

/-- The layout of a slot's status word (13.2). -/
def statusFields (r : Slot) : List (Nat × Nat × Nat) :=
  [(0, 3, r.state.code), (8, 5, r.result.code), (16, 4, r.failIx), (20, 4, r.endIx), (24, 8, r.revision.toNat)]

/-- The layouts of a scrubber view entry's words 0 to 4 (R111, 13.4). -/
def scrubberFields (r : Scrubber) : List (List (Nat × Nat × Nat)) :=
  [[(0, 3, r.state.code), (8, 1, place r.mark)],
   [(0, 8, numOf r.current), (8, 8, numOf r.trailing), (16, 8, numOf r.parked)],
   [(0, 8, numOf r.liveSlot)],
   [(0, 8, r.lastSlot.toNat), (8, 8, r.lastRevision.toNat)],
   [(0, 1, place r.flags.scrubbing), (1, 1, place r.flags.stopped), (2, 1, place r.flags.endReached),
    (3, 1, place r.flags.machineFault)]]

/-- The layout of an issuer's result word (R160, 13.1). -/
def resultFields (r : CmdResult) : List (Nat × Nat × Nat) :=
  [(0, 8, r.code.toNat), (8, 3, r.outcome.code), (24, 8, r.tag.toNat)]

/-- The layout of the refused-access word while the capture holds a record (R23, 13.1). -/
def captureFields (r : RefusedAccess) : List (Nat × Nat × Nat) :=
  [(0, 18, r.addr.toNat), (20, 2, tagCode r.tag), (22, 1, place r.isWrite), (24, 3, r.mode.code), (31, 1, 1)]

/-- The layout of a notice's header (R179). -/
def headerFields (n : Notice) : List (Nat × Nat × Nat) :=
  [(0, 8, n.kind.code), (8, 3, n.kind.group), (12, 4, n.payload.length + 2)]

/-- The codes that the words show: slot states (R57), results (R64), scrubber states (13.4), command outcomes (13.1),
and the kinds and groups of notices (R167, R179). -/
def codesStand : Prop :=
  [SlotState.idle, .waiting, .granted, .delivered, .active, .shortening].map SlotState.code = [0, 1, 2, 3, 4, 5]
    ∧ [Result.none, .granted, .format, .state, .notInService, .notEnrolled, .notPlaced, .scrubberBusy, .scrubberLost,
        .violation, .badStart, .notAdjacent, .repeated, .floor].map Result.code
      = [0, 1, 2, 3, 4, 5, 6, 7, 8, 9, 10, 11, 12, 13]
    ∧ [Result.closed, .wet, .held, .claimed, .occupied, .pinch, .zone].map Result.code = [16, 17, 18, 19, 20, 21, 22]
    ∧ [Result.completed, .cancelled, .disclaimed, .withdrawn, .waitExpired, .released].map Result.code
      = [24, 25, 26, 27, 28, 29]
    ∧ [ScrubState.absent, .unheard, .heard, .lost, .withdrawn].map ScrubState.code = [0, 1, 2, 3, 4]
    ∧ [CmdOutcome.none, .done, .unknownCode, .badOperand, .wrongMode, .notPermitted].map CmdOutcome.code
      = [0, 1, 2, 3, 4, 5]
    ∧ [NoticeKind.granted, .refused, .waiting, .shortened, .confirmed, .ended, .confirmOverdue, .shortenOverdue].map
        (fun k => (k.group, k.code)) = [(0, 1), (0, 2), (0, 3), (0, 4), (0, 5), (0, 6), (0, 7), (0, 8)]
    ∧ [NoticeKind.scrubberHeard, .scrubberLost, .violation, .reportInvalid, .withdrawnHeard].map
        (fun k => (k.group, k.code)) = [(1, 16), (1, 17), (1, 18), (1, 19), (1, 20)]
    ∧ [NoticeKind.dry, .dryingExtended, .dryingOverdue].map (fun k => (k.group, k.code)) = [(2, 32), (2, 33), (2, 34)]
    ∧ [NoticeKind.zonePresent, .zoneQuiet, .zoneReseeded, .zoneStale].map (fun k => (k.group, k.code))
      = [(3, 48), (3, 49), (3, 50), (3, 51)]
    ∧ [NoticeKind.closed, .reopened, .passengerActive, .passengerReleased].map (fun k => (k.group, k.code))
      = [(4, 64), (4, 65), (4, 66), (4, 67)]
    ∧ [NoticeKind.restart, .serviceEntered, .commandRefused, .noticesReset].map (fun k => (k.group, k.code))
      = [(5, 80), (5, 81), (5, 82), (5, 83)]

/-- The places of the status flags and the addresses of the mirrored control words (13.1). -/
def controlPlaces : Prop :=
  [DspFlag.restarted, .stopAll, .violation, .shortenOverdue, .scrubberLost, .zoneStale, .noticeThreshold,
      .noticesPending, .confirmOverdue, .dryingOverdue, .noticeLost, .commandRefused, .accessRefused, .busParity,
      .memoryParity, .reportInvalid].map DspFlag.place = [0, 1, 2, 3, 4, 5, 6, 7, 8, 9, 10, 11, 12, 13, 14, 15]
    ∧ [OpsFlag.restarted, .passengerActive, .passengerExpired, .commandRefused, .accessRefused].map OpsFlag.place
      = [0, 1, 2, 3, 4]
    ∧ [CtlWord.mode, .clock, .changedSlots, .dspCommand, .dspResult, .opsCommand, .opsResult, .tuning 0, .tuning 1,
        .tuning 2, .tuning 3, .tuning 4, .tuning 5, .tuning 6, .tuning 7].map CtlWord.addr
      = [0x00, 0x01, 0x02, 0x04, 0x05, 0x06, 0x07, 0x08, 0x09, 0x0A, 0x0B, 0x0C, 0x0D, 0x0E, 0x0F]
    ∧ [CtlWord.dspStatus, .dspClear, .dspMask, .gwyMask, .opsStatus, .opsClear, .opsMask, .writeIx, .readIx,
        .refused].map CtlWord.addr = [0x10, 0x11, 0x12, 0x13, 0x14, 0x15, 0x16, 0x18, 0x19, 0x1A]

/-- What the mirror record of an owned control word, or of the copy of an acted one, shows (R26, 13.1). -/
def controlShows (s : State) (c : CtlWord) (w : Word) : Prop :=
  match c with
  | .dspCommand | .opsCommand | .dspClear | .opsClear => w = 0
  | .dspResult => hasFields w (resultFields s.dspResult)
  | .opsResult => hasFields w (resultFields s.opsResult)
  | .tuning i => w = s.tuning[i.val]
  | .dspStatus => (∀ f : DspFlag, w.getLsbD f.place = s.dsp f) ∧ ∀ i, 16 ≤ i → w.getLsbD i = false
  | .opsStatus => (∀ f : OpsFlag, w.getLsbD f.place = s.ops f) ∧ ∀ i, 5 ≤ i → w.getLsbD i = false
  | .dspMask => w = s.dspMask.setWidth 32
  | .opsMask => w = s.opsMask.setWidth 32
  | .gwyMask => w = s.gwyMask.setWidth 32
  | .writeIx => w = s.writeIx.setWidth 32
  | .readIx => w = s.readIx.setWidth 32
  | .refused => match s.capture with
    | none => w = 0
    | some r => hasFields w (captureFields r)
  | .mode | .clock | .changedSlots | .unassigned => False

/-! ### Rights (R21, R22) -/

/-- The write rights of R21 and R22 in RECOVERY and SERVICE, by the word's place. -/
def writePermitted (s : State) (tag : Tag) (p : Place) (v : Word) : Prop :=
  tag ≠ .three ∧ match p with
    | .general => True
    | .control c =>
      (tag = .dispatch ∧ (c = .dspCommand ∨ c = .dspClear ∨ c = .dspMask ∨ c = .gwyMask ∨ (∃ i, c = .tuning i)
          ∨ (c = .readIx ∧ v.toNat ≤ 1023 ∧ (v.setWidth 10 - s.readIx).toNat ≤ (s.writeIx - s.readIx).toNat)))
        ∨ (tag = .operations ∧ (c = .opsCommand ∨ c = .opsClear ∨ c = .opsMask))
    | .cell _ _ => tag = .gateway
    | .figure _ _ => tag = .operations
    | .slot k w =>
      tag = (if k.val < 20 then .dispatch else .operations)
        ∧ ((w.val ≤ 10 ∧ (s.slot k).state = .idle) ∨ w.val = 11 ∨ w.val = 15)
    | .segView _ _ | .scrubView _ _ | .ring _ => False

/-- Whether a word is read from memory whatever the dirty marks: a word of the ring, an unassigned control word, a cell
or figure word, and a slot's header or route word, which the gateway reads behind an open gate (R24, R28, R76). -/
def plainWord (s : State) (tag : Tag) (p : Place) : Prop :=
  match p with
  | .control c => c = .unassigned
  | .cell _ _ | .figure _ _ | .ring _ => True
  | .slot k w => w.val ≤ 10 ∧ (tag = .gateway →
      k.val < 20 ∧ (s.slot k).state.authority = true ∧ (1 ≤ w.val → w.val ≤ (s.slot k).endIx))
  | .general | .segView _ _ | .scrubView _ _ => False

/-! ### Zones (R137, R138, R145 to R148) -/

/-- The event has brought zone z to QUIET (R148): the zone has left the holding zones of every fleet slot; a slot whose
set became empty has lost its scrub hold and has its changed mark; nothing else but the zone records, the notices, the
flags they set and dirty marks has changed. -/
def State.broughtQuiet (s u : State) (z : ZoneIx) : Prop :=
  u = { s with
      zones := u.zones, slots := u.slots, staging := u.staging, dspFlags := u.dspFlags, dirty := u.dirty,
      freeing := true }
    ∧ (∀ y, y ≠ z → u.zone y = s.zone y) ∧ (u.zone z).state = .quiet ∧ (u.zone z).quietTimer = none
    ∧ (∀ k : SlotIx, u.slot k =
        if k.val < 20 ∧ z ∈ (s.slot k).holdingZones then
          (if (s.slot k).holdingZones.filter (fun y => y != z) = [] then
            { s.slot k with holdingZones := [], scrubHold := false, changed := true }
          else { s.slot k with holdingZones := (s.slot k).holdingZones.filter (fun y => y != z) })
        else s.slot k)

/-- The words of a ZONE notice (R146, R179). -/
def zoneWords (z : ZoneIx) (filtered baseline : Nat) : List Word :=
  [pack4 (z.val + 1) 0 0 0, pack2 filtered baseline]

/-- The figure of a presence figure word (R137). -/
def presenceOf (v : Word) : Nat := (v.extractLsb' 0 16).toNat

/-- The filtered value that a sample leaves (R138, step 1): the quotient is truncated toward zero. -/
def filteredAfter (s : State) (z : ZoneIx) (v : Word) : Nat :=
  ((((s.zone z).filtered : Int)
    + ((presenceOf v : Int) - ((s.zone z).filtered : Int)).tdiv (2 ^ (s.profile z).filterShift))).toNat

/-- The baseline moved toward the filtered value at a shift (R138, step 3). -/
def baselineMoved (s : State) (z : ZoneIx) (v : Word) (shift : Nat) : Nat :=
  (((s.zone z).baseline : Int)
    + ((filteredAfter s z v : Int) - ((s.zone z).baseline : Int)).tdiv (2 ^ shift)).toNat

/-- The delta of a sample (R138, step 2). -/
def sampleDelta (s : State) (z : ZoneIx) (v : Word) : Int := (filteredAfter s z v : Int) - ((s.zone z).baseline : Int)

/-- Whether a sample's delta exceeds the entry threshold (R138). -/
def sampleExceeds (s : State) (z : ZoneIx) (v : Word) : Prop := ((s.profile z).presence : Int) < sampleDelta s z v

/-- Whether a sample's delta is below the exit threshold (R138). -/
def sampleLeaves (s : State) (z : ZoneIx) (v : Word) : Prop :=
  sampleDelta s z v < (((s.profile z).presence * (256 - (s.profile z).hysteresis) / 256 : Nat) : Int)

/-- The states a sample is judged in (R138 to R141). -/
def seededState (x : ZoneState) : Prop := x ≠ .unseeded ∧ x ≠ .stale

/-- Whether a sample turns its zone PRESENT by an entry (R139 to R141). -/
def sampleEnters (s : State) (z : ZoneIx) (v : Word) : Prop :=
  sampleExceeds s z v
    ∧ (((s.zone z).state = .settling ∨ (s.zone z).state = .quiet) ∧ (s.profile z).debounceIn = 1
      ∨ (s.zone z).state = .entering ∧ (s.profile z).debounceIn ≤ (s.zone z).debounce + 1)

/-- Whether a slot is one that a zone turning PRESENT examines (R147). -/
def scrubAuthority (s : State) (k : SlotIx) : Prop :=
  k.val < 20 ∧ (s.slot k).mode = .scrub ∧ (s.slot k).state.authority = true

/-- Whether the scrubber of a slot stands in a zone by its record (R147, case 1). -/
def slotStandsIn (s : State) (k : SlotIx) (z : ZoneIx) : Prop :=
  ∃ x g, (s.slot k).scrubber = some x ∧ ((s.scrub x).current = some g ∨ (s.scrub x).trailing = some g)
    ∧ (s.fixed g).zone = some z

/-- The event has reseeded zone z (R145): baseline, count and timers; SETTLING with its quiet timer, or QUIET when the
quiet time is 0; ZONE_RESEEDED sent as the profile says, after ZONE_QUIET when QUIET was reached. -/
def State.reseeded (s u : State) (z : ZoneIx) : Prop :=
  ((s.profile z).quietTime ≠ 0 →
    u = { s with zones := u.zones, staging := u.staging, dspFlags := u.dspFlags, dirty := u.dirty, freeing := false }
    ∧ s.onlyZone u z { s.zone z with
        state := .settling, baseline := (s.zone z).filtered, debounce := 0, stuckTimer := none, haltTimer := none,
        quietTimer := some (s.clock + BitVec.ofNat 32 (10 * (s.profile z).quietTime)) }
    ∧ s.notices u (if (s.profile z).notices then
        [(.zoneReseeded, zoneWords z (s.zone z).filtered (s.zone z).filtered)] else []) []
    ∧ s.marks u [])
  ∧ ((s.profile z).quietTime = 0 →
    s.broughtQuiet u z
    ∧ u.zone z = { s.zone z with
        state := .quiet, baseline := (s.zone z).filtered, debounce := 0, stuckTimer := none, haltTimer := none,
        quietTimer := none }
    ∧ s.notices u (if (s.profile z).notices then
        [(.zoneQuiet, zoneWords z (s.zone z).filtered (s.zone z).filtered),
         (.zoneReseeded, zoneWords z (s.zone z).filtered (s.zone z).filtered)] else []) [])

/-! ### Drying (R129, R130) -/

/-- Whether an entry dries at its expiry (R129, R130). -/
def entryDries (s : State) (e : DryEntry) : Prop :=
  e.check = false ∨ ∀ z, (s.fixed e.seg).zone = some z → (s.zone z).moisture ≤ (s.profile z).dryThreshold

/-! ### Reports (R95, R96) -/

/-- Whether scrubber x may report segment g without violation: the allowed set of R95. -/
def allowedFor (s : State) (x : ScrubIx) (g : SegIx) : Prop :=
  (s.scrub x).current = some g ∨ (s.scrub x).trailing = some g
    ∨ ∃ j, (s.scrub x).liveSlot = some j
        ∧ ((s.slot (fleetSlot j)).state = .delivered ∨ (s.slot (fleetSlot j)).state = .active
          ∨ (s.slot (fleetSlot j)).state = .shortening)
        ∧ g ∈ (s.slot (fleetSlot j)).route ∧ (s.seg g).holder = some (fleetSlot j)

/-- Whether a reported segment is violated (R96). -/
def violatedBy (s : State) (x : ScrubIx) (g : SegIx) : Prop :=
  ((s.scrub x).state ≠ .unheard ∧ ¬ allowedFor s x g)
    ∨ ((s.scrub x).state = .unheard ∧ (s.seg g).holder ≠ none ∧ (s.scrub x).parked ≠ some g)
    ∨ ∃ y, (s.seg g).occupant = some y ∧ y ≠ x

/-- Whether a report's position is a violating one (R96). -/
def violatingAt (s : State) (x : ScrubIx) (p : Position) : Prop :=
  violatedBy s x p.current ∨ ∃ g, p.trailing = some g ∧ violatedBy s x g

/-- The progress index that a report from segment g leaves (R98). -/
def progressAfter (r : Slot) (g : SegIx) : Nat :=
  match r.route.idxOf? g with
  | none => r.progress
  | some i => min (max r.progress (i + 1)) r.endIx

/-- The evidence that a report leaves, by its scrubbing flag (R100). -/
def evidenceAfter (r : Slot) (p : Position) (scrubbing : Bool) : List Evidence :=
  (r.route.zip r.evidence).map (fun e =>
    if e.1 = p.current ∨ p.trailing = some e.1 then
      (if scrubbing then .seenScrubbing else if e.2 = .none then .seenDry else e.2)
    else e.2)

/-- A slot's record after steps 4 and 7 of a report (R98, R100). -/
def Slot.walked (r : Slot) (p : Position) (scrubbing : Bool) : Slot :=
  { r with progress := progressAfter r p.current, evidence := evidenceAfter r p scrubbing }

/-- Whether a report completes its scrubber's slot when that is ACTIVE (R103). -/
def completesAt (r : Slot) (p : Position) (f : ReportFlags) : Prop :=
  r.entryAt r.endIx = some p.current ∧ p.trailing = none ∧ f.endReached = true

/-- Whether a segment of a report's position is violated. -/
def violatedHere (s : State) (x : ScrubIx) (p : Position) (g : SegIx) : Prop :=
  (g = p.current ∨ p.trailing = some g) ∧ violatedBy s x g

/-- A notice of the event stands in the queue, unless its group is suppressed or n notices before it could fill the
queue (R168). -/
def State.tells (s t : State) (n : Nat) (kind : NoticeKind) (payload : List Word) : Prop :=
  s.suppressed kind = false → s.staged + n < 16 → { kind := kind, clock := s.clock, payload := payload } ∈ t.staging

/-! ### Drafts, releases and shortenings -/

/-- A route value of a draft that names no segment 1 to n. -/
def valueOutOfRange (s : State) (v : Word) : Prop := v.toNat = 0 ∨ s.n < v.toNat

/-- Whether the release of a slot's entry at index i chooses wet, by the table of R101; a passenger slot's never does.
-/
def wetChosen (k : SlotIx) (r : Slot) (i : Nat) : Prop :=
  k.val < 20 ∧ r.mode = .scrub
    ∧ (r.evidence.getD (i - 1) .none = .seenScrubbing ∨ (i ≤ r.progress ∧ r.evidence.getD (i - 1) .none = .none))

/-- The expiry that a segment marked wet now takes: the full drying time of its resolved class (R127). -/
def State.dryAt (s : State) (g : SegIx) : Word :=
  s.clock + BitVec.ofNat 32 (100 * (s.floorClass (s.resolvedClass g)).drying)

/-- The drying list entry of a segment marked wet now (R126, R127). -/
def State.newEntry (s : State) (g : SegIx) : DryEntry :=
  { seg := g, expiry := s.dryAt g, count := 0, cls := s.resolvedClass g,
    check := (s.floorClass (s.resolvedClass g)).moistureCheck && (s.fixed g).zone.isSome }

/-- The record t that the release of a segment leaves, with a wet choice, beside its occupant and its claims: no holder,
not pending, and wet with its full drying time when it was carried wet or the choice is wet (R41, R44). -/
def State.releasedAs (s : State) (g : SegIx) (wet : Prop) (t : Seg) : Prop :=
  t = { s.seg g with
      holder := none, pendingRel := false, occupant := t.occupant, claims := t.claims, carried := t.carried,
      wet := t.wet }
    ∧ ((s.seg g).carried = true ∨ wet → t.carried = false ∧ t.wet = some { expiry := s.dryAt g, count := 0 })
    ∧ (¬ ((s.seg g).carried = true ∨ wet) → t.carried = (s.seg g).carried ∧ t.wet = (s.seg g).wet)

/-- The slot has given back all that it held of its route (R41, R44, R101): nothing is held or pending; what was
carried wet or was released wet is wet with its full drying time and stands in the drying list; no other segment has
changed, and no pinch entry but those of the groups of its route. -/
def State.gaveBack (s u : State) (k : SlotIx) : Prop :=
  (∀ g, ¬ (g ∈ (s.slot k).route ∧ (s.seg g).holder = some k) → u.seg g = s.seg g)
    ∧ (∀ g i, (g, i) ∈ (s.slot k).entries → (s.seg g).holder = some k →
        s.releasedAs g (wetChosen k (s.slot k) i) (u.seg g)
          ∧ (u.seg g).occupant = (s.seg g).occupant ∧ (u.seg g).claims = (s.seg g).claims)
    ∧ (∀ d, d ∈ u.drying ↔ d ∈ s.drying ∨ ∃ g i, (g, i) ∈ (s.slot k).entries ∧ (s.seg g).holder = some k
        ∧ ((s.seg g).carried = true ∨ wetChosen k (s.slot k) i) ∧ d = s.newEntry g)
    ∧ ∀ p, (∀ g ∈ (s.slot k).route, (s.fixed g).pinch ≠ some p) → u.pinchEntry p = s.pinchEntry p

/-- Fleet slot k of scrubber x has taken hold of a route (R40, R47, R48; what counts is log 35): every segment of it is
held; wet floor at route index 1 is carried wet and out of the drying list; each pinch group of the route has x as
holder, with its count; nothing else of these tables has changed. -/
def State.tookFloor (s u : State) (k : SlotIx) (x : ScrubIx) (route : List SegIx) : Prop :=
  (∀ g, g ∉ route → u.seg g = s.seg g)
    ∧ (∀ g i, (g, i) ∈ route.zipIdx 1 → u.seg g = { s.seg g with
        holder := some k, wet := none, carried := (s.seg g).carried || (decide (i = 1) && (s.seg g).wet.isSome) })
    ∧ (∀ d, d ∈ u.drying ↔ d ∈ s.drying ∧ ¬ (route.head? = some d.seg ∧ (s.seg d.seg).wet ≠ none))
    ∧ ((∃ g, route.head? = some g ∧ (s.seg g).wet ≠ none) → u.freeing = true)
    ∧ (∀ p, (∃ g ∈ route, (s.fixed g).pinch = some p) →
        u.pinchEntry p = { holder := some x, count := pinchUse u p x })
    ∧ ∀ p, (∀ g ∈ route, (s.fixed g).pinch ≠ some p) → u.pinchEntry p = s.pinchEntry p

/-- Whether the remaining route of a fleet authority meets a path, and at what index first (R155). -/
def meetsAt (s : State) (j : SlotIx) (path : List SegIx) (e : Nat) : Prop :=
  j.val < 20 ∧ (s.slot j).state.authority = true ∧ (s.slot j).progress < e ∧ e ≤ (s.slot j).endIx
    ∧ (∃ g ∈ path, (g, e) ∈ (s.slot j).entries)
    ∧ ∀ x ∈ (s.slot j).entries, (s.slot j).progress < x.2 → x.2 < e → x.1 ∉ path

/-- Whether slot k holds segment g ahead of its scrubber, at route index i up to its end (R106, R108, R150). -/
def holdsAhead (s : State) (k : SlotIx) (g : SegIx) (i : Nat) : Prop :=
  k.val < 20 ∧ (s.slot k).state.authority = true ∧ (s.seg g).holder = some k ∧ (s.slot k).route.Nodup
    ∧ (g, i) ∈ (s.slot k).entries ∧ (s.slot k).progress < i ∧ i ≤ (s.slot k).endIx

/-- Whether slot j is the live slot of the scrubber that occupies segment g (R150, step 3). -/
def liveOn (s : State) (g : SegIx) (j : FleetIx) : Prop :=
  ∃ x, (s.seg g).occupant = some x ∧ (s.scrub x).liveSlot = some j

/-! ### Commands (R160, R161, R176) -/

/-- A taken command, once its effect has been made (R160): the issuer's result record, its mirror mark, the answer. -/
def State.tookCommand (i : Issuer) (code tag : Byte) (u : State) : State :=
  (u.setResultRec i { code := code, tag := tag, outcome := .done }).answered tookOne

/-- A command is turned away with an outcome (R160, R161). -/
def State.turnsAway (s : State) (c : Instr) (i : Issuer) (code tag : Byte) (o : CmdOutcome) : Prop :=
  ∃ t, exec c s = .next t ∧ s.refusedCommand t i code tag o

/-- The conditions of the entry to SERVICE that the fleet must meet: conditions 2 to 4 of R176. -/
def fleetReady (s : State) : Prop :=
  ∀ x, (s.isEnrolled x = true → (s.scrub x).state = .heard ∨ (s.scrub x).state = .withdrawn)
    ∧ ((s.scrub x).state = .heard → (s.scrub x).flags.stopped = true) ∧ (s.scrub x).mark = false

/-- Whether a tuning value is in range: the table of R162. -/
def tuningInRange (i : Fin 8) (v : Word) : Prop :=
  (i = 0 ∧ 5 ≤ v.toNat ∧ v.toNat ≤ 255) ∨ ((i = 1 ∨ i = 2) ∧ 10 ≤ v.toNat ∧ v.toNat ≤ 255)
    ∨ ((i = 3 ∨ i = 4) ∧ 1 ≤ v.toNat ∧ v.toNat ≤ 255) ∨ (i = 5 ∧ 1 ≤ v.toNat ∧ v.toNat ≤ 8)
    ∨ (i = 6 ∧ 1 ≤ v.toNat ∧ v.toNat ≤ 1023) ∨ (i = 7 ∧ v.toNat ≤ 31)

/-- The conditions of the latched dispatch flags: the table of R163. -/
def latchedHolds (s : State) : DspFlag → Prop
  | .stopAll => s.stopAll = true
  | .violation => ∃ x, (s.scrub x).mark = true
  | .shortenOverdue => ∃ k, (s.slot k).overdue = true
  | .scrubberLost => ∃ x, (s.scrub x).state = .lost
  | .zoneStale => ∃ z, z.val < s.z ∧ (s.zone z).state = .stale
  | .noticeThreshold => (if s.tuning[6] = 0 then 768 else (s.tuning[6]).toNat) ≤ (s.writeIx - s.readIx).toNat
  | .noticesPending => s.writeIx ≠ s.readIx
  | _ => False

/-- The level that a line's polarity in force gives its condition, by the mode and the site model (R12). -/
def lineShows (s : State) (polarity : Site → Polarity) (level : LineLevel) (calls : Prop) : Prop :=
  (s.mode = .loading → level = .undriven)
    ∧ (s.mode ≠ .loading → s.site = none ∨ (∃ m, s.site = some m ∧ polarity m = .activeLowOpenDrain) →
        (calls → level = .low) ∧ (¬ calls → level = .undriven))
    ∧ ∀ m, s.mode ≠ .loading → s.site = some m → polarity m = .activeHighDriven →
        (calls → level = .high) ∧ (¬ calls → level = .low)

/-- The mirror record that a grant takes (R35). -/
def recordChosen (s : State) (r : MirrorRec) : Prop :=
  s.promo.head? = some r
    ∨ (s.promo = [] ∧ r ∈ s.dirty
      ∧ ((s.lastWritten < r.addr ∧ ∀ q ∈ s.dirty, s.lastWritten < q.addr → r.addr ≤ q.addr)
        ∨ ((∀ q ∈ s.dirty, q.addr ≤ s.lastWritten) ∧ ∀ q ∈ s.dirty, r.addr ≤ q.addr)))

/-- The segments of a zone whose closure set lacks OPERATIONS (R153), counted. -/
def zoneOpenCount (s : State) (z : ZoneIx) : Nat :=
  ((List.finRange 255).filter (fun g =>
    decide (g.val < s.n ∧ (s.fixed g).zone = some z ∧ (s.seg g).closure.operations = false))).length

/-- The segments of a zone whose closure set is not empty (R153), counted. -/
def zoneShutCount (s : State) (z : ZoneIx) : Nat :=
  ((List.finRange 255).filter (fun g =>
    decide (g.val < s.n ∧ (s.fixed g).zone = some z ∧ (s.seg g).closure ≠ {}))).length

/-- The origins present in the closure sets of a zone's segments, together, in their code (R153, R179). -/
def zoneOrigins (s : State) (z : ZoneIx) : Nat :=
  Closure.code
    { operations := (List.finRange 255).any (fun g =>
        decide (g.val < s.n ∧ (s.fixed g).zone = some z ∧ (s.seg g).closure.operations = true)),
      dispatch := (List.finRange 255).any (fun g =>
        decide (g.val < s.n ∧ (s.fixed g).zone = some z ∧ (s.seg g).closure.dispatch = true)),
      drying := (List.finRange 255).any (fun g =>
        decide (g.val < s.n ∧ (s.fixed g).zone = some z ∧ (s.seg g).closure.drying = true)) }

end Sys2Proof.Machine
end

