-- ==== Sys2Proof/Certificates/Slice0/Obligations.lean ====
section
/-! DEFINITION. The statements for the provers: what the manual's rules say of each command, and the laws that every step
keeps. Where a statement names them, these are the model's own and no rule's: the queue (log 1), the note of a freeing
change (log 19), the field that holds the bus answer (log 28), the upsets of stored parity (log 6). -/
open Sys2Proof Sys2Proof.Machine

/-! ### The queue, restarts and the load -/

/-- O1. What a restart with cause POWER leaves, the reset line released; it satisfies every law of the part (R172; the
choice of that cause and line level for the model's reset state, the empty memory and the model's own fields are log
2, 3, 17, 28 and 33). -/
def Obligations.ResetState : Prop :=
  (State.reset.mode = .loading ∧ State.reset.cause = .power ∧ State.reset.siteFault = { reason := .none, item := 0 }
    ∧ State.reset.site = none ∧ State.reset.lineHeld = false ∧ State.reset.load = .header
    ∧ State.reset.ackRestart = false ∧ State.reset.clock = 0
    ∧ (∀ g, State.reset.seg g = {}) ∧ (∀ p, State.reset.pinchEntry p = {}) ∧ (∀ k, State.reset.slot k = {})
    ∧ State.reset.queue = [] ∧ (∀ x, State.reset.scrub x = {}) ∧ (∀ c, State.reset.cell c = {})
    ∧ State.reset.drying = [] ∧ (∀ z, State.reset.zone z = {})
    ∧ State.reset.staging = [{ kind := .restart, clock := 0, payload := [1] }] ∧ State.reset.held = none
    ∧ State.reset.writeIx = 0 ∧ State.reset.readIx = 0
    ∧ (∀ f, State.reset.dsp f = decide (f = .restarted)) ∧ (∀ f, State.reset.ops f = decide (f = .restarted))
    ∧ State.reset.dspMask = 7 ∧ State.reset.opsMask = 1 ∧ State.reset.gwyMask = 0xFFFFF
    ∧ (∀ i : Fin 8, State.reset.tuning[i.val] = 0) ∧ State.reset.dspResult = {} ∧ State.reset.opsResult = {}
    ∧ State.reset.capture = none ∧ State.reset.lastServed = .notice ∧ State.reset.noticeGrant = none
    ∧ State.reset.lastWritten = 0x678
    ∧ State.reset.promo = [] ∧ (∀ r ∈ allRecords, r ∈ State.reset.dirty)
    ∧ State.reset.pending = [] ∧ State.reset.mem = [] ∧ State.reset.badParity = [] ∧ State.reset.answer = none
    ∧ State.reset.stopAll = true ∧ State.reset.dspAtn = .undriven ∧ State.reset.gwyAtn = .undriven
    ∧ State.reset.opsAtn = .undriven)
    ∧ State.reset.memoryLaw ∧ State.reset.idleLaw ∧ State.reset.stagingLaw ∧ State.reset.oneSlotLaw
    ∧ State.reset.queueLaw ∧ State.reset.dryingLaw ∧ State.reset.routeLaw ∧ State.reset.distinctLaw
    ∧ State.reset.liveSlotLaw ∧ State.reset.spanLaw ∧ State.reset.marksLaw ∧ State.reset.loadLaw ∧ State.reset.siteLaw
    ∧ State.reset.mirrorLaw ∧ State.reset.draftLaw ∧ State.reset.holdingLaw ∧ State.reset.pinchLaw
    ∧ State.reset.portLaw

/-- O2. A step takes the command at the front of the queue and runs it on the state with the rest of the queue; every
command answers a next state and leaves the queue to the step; an empty queue idles (log 1). -/
def Obligations.StepTakesTheFrontCommand : Prop :=
  (∀ (c : Instr) (rest : List Instr) (s : State), s.pending = c :: rest → step s = exec c { s with pending := rest })
    ∧ (∀ s : State, s.pending = [] → step s = .next s)
    ∧ ∀ (c : Instr) (s : State), ∃ t, exec c s = .next t ∧ t.pending = s.pending

/-- O3. POWER and LINE (R172): every block at its reset value with the cause recorded, the RESTART notice staged, the
access in flight answered RETRY, and plan memory as it stood but for the words that the port's grant had written. What
a grant has written is an operand (log 11); memory and the line's level outlast the restart (log 5, log 24). -/
def Obligations.PowerAndLineRestart : Prop :=
  ∀ (s : State) (f : InFlight),
    (∃ t, exec (.power f) s = .next t
      ∧ t = { State.reset with
          pending := s.pending, mem := t.mem, badParity := t.badParity, lineHeld := s.lineHeld,
          answer := f.access.map (fun _ => BusAnswer.retry) }
      ∧ t.mem = (s.writeWords (s.cutWords f)).mem ∧ t.stopAll = true
      ∧ (f.port = .free → t.mem = s.mem ∧ t.badParity = s.badParity)
      ∧ (s.memoryLaw → ∀ a, (∀ p ∈ s.cutWords f, p.1 ≠ a) →
          t.readWord a = s.readWord a ∧ t.wordBad a = s.wordBad a))
    ∧ ∃ t, exec (.line f) s = .next t
      ∧ t = { State.reset with
          pending := s.pending, mem := t.mem, badParity := t.badParity, lineHeld := true, cause := .line,
          staging := [{ kind := .restart, clock := 0, payload := [2] }],
          answer := f.access.map (fun _ => BusAnswer.retry) }
      ∧ t.mem = (s.writeWords (s.cutWords f)).mem ∧ t.stopAll = true
      ∧ (f.port = .free → t.mem = s.mem ∧ t.badParity = s.badParity)
      ∧ (s.memoryLaw → ∀ a, (∀ p ∈ s.cutWords f, p.1 ≠ a) →
          t.readWord a = s.readWord a ∧ t.wordBad a = s.wordBad a)

/-- O4. While the reset line is held the load does not begin and the clock stands; RESET_RELEASE releases it.
FLUSH_END moves INITIALISING to RECOVERY when no record is dirty, and otherwise changes nothing. HEADER_READ applies
checks 1 to 4 to the store's first 24 bytes, in their order; a failure ends the load in NO_SITE with its reason and
item 0, and a header that passes is kept (R13, R14, R17, R37, R172, R180; log 8). A byte the operand lacks reads FFh
(log 12). -/
def Obligations.LoadBegins : Prop :=
  (∀ s : State, exec .resetRelease s = .next { s with lineHeld := false })
  ∧ (∀ (s : State) (store : List Byte), s.lineHeld = true →
      exec (.headerRead store) s = .next s ∧ exec (.siteLoadComplete store) s = .next s
        ∧ exec .interlockClockTick s = .next s)
  ∧ (∀ s : State,
      (s.mode = .initialising → s.dirty = [] → exec .flushEnd s = .next { s with mode := .recovery })
        ∧ (s.mode ≠ .initialising ∨ s.dirty ≠ [] → exec .flushEnd s = .next s))
  ∧ ∀ (s : State) (store : List Byte), s.mode = .loading → s.load = .header → s.lineHeld = false →
    exec (.headerRead store) s = .next
      (if byteOf store 0 ≠ 0x54 ∨ byteOf store 1 ≠ 0x47 ∨ byteOf store 2 ≠ 0x53 ∨ byteOf store 3 ≠ 0x49 then
        { s with mode := .noSite, siteFault := { reason := .signature, item := 0 }, load := .idle }
      else if byteOf store 4 ≠ 1 then
        { s with mode := .noSite, siteFault := { reason := .version, item := 0 }, load := .idle }
      else if byteOf store 5 = 0 ∨ 32 < byteOf store 6 then
        { s with mode := .noSite, siteFault := { reason := .counts, item := 0 }, load := .idle }
      else if 256 * byteOf store 8 + byteOf store 9 ≠ 114 + byteOf store 6 + 10 * byteOf store 5 then
        { s with mode := .noSite, siteFault := { reason := .length, item := 0 }, load := .idle }
      else { s with load := .body (takeBytes store 24) })

/-- O5. SITE_LOAD_COMPLETE applies the other checks to the whole image: the first failure ends the load in NO_SITE
with its reason and item; an image that passes is installed, every enrolled scrubber UNHEARD, and INITIALISING
entered. Then the verdict on any image, check by check in the order of check 5 of R14, R15 and R16 (R1, R9, R10, R11,
R13 to R17, R180). A byte that the operand lacks reads FFh (log 12). -/
def Obligations.SiteLoadEnds : Prop :=
  (∀ (s : State) (store h : List Byte), s.mode = .loading → s.lineHeld = false → s.load = .body h →
    (∀ f, imageFault (h ++ takeBytes store (114 + imageZ h + 10 * imageN h - 24)) = some f →
      exec (.siteLoadComplete store) s = .next { s with mode := .noSite, siteFault := f, load := .idle })
    ∧ (imageFault (h ++ takeBytes store (114 + imageZ h + 10 * imageN h - 24)) = none →
      ∃ m t, m = siteOf (h ++ takeBytes store (114 + imageZ h + 10 * imageN h - 24))
        ∧ exec (.siteLoadComplete store) s = .next t
        ∧ t = { s with
            site := some m, mode := .initialising, load := .idle, scrubbers := t.scrubbers, dirty := t.dirty }
        ∧ (∀ x, t.scrub x = if m.enrolled.getLsbD x.val then { s.scrub x with state := .unheard } else s.scrub x)
        ∧ (∀ r ∈ s.dirty, r ∈ t.dirty) ∧ ∀ r ∈ t.dirty, r ∈ s.dirty ∨ ∃ x, r = .scrubView x))
  ∧ ∀ b : List Byte,
    (¬ crcRight b → imageFault b = some { reason := .checkValue, item := 0 })
    ∧ (crcRight b →
      (7 < byteOf b 7 → imageFault b = some { reason := .defaultClass, item := 0 })
      ∧ (byteOf b 7 ≤ 7 →
        (∀ i, i < 5 → (∀ j, j < i → timingRight b j) → ¬ timingRight b i →
          imageFault b = some { reason := .timing, item := i + 1 })
        ∧ ((∀ i, i < 5 → timingRight b i) →
          (∀ i, i < 8 → (∀ j, j < i → classRight b j) → ¬ classRight b i →
            imageFault b = some { reason := .classRange, item := i })
          ∧ ((∀ i, i < 8 → classRight b i) →
            (∀ i, i < 4 → (∀ j, j < i → profileRight b j) → ¬ profileRight b i →
              imageFault b = some { reason := .profileRange, item := i + 1 })
            ∧ ((∀ i, i < 4 → profileRight b i) →
              (∀ i, i < byteOf b 6 → (∀ j, j < i → zoneRight b j) → ¬ zoneRight b i →
                imageFault b = some { reason := .zoneProfile, item := i + 1 })
              ∧ ((∀ i, i < byteOf b 6 → zoneRight b i) →
                (∀ i, i < byteOf b 5 → (∀ j, j < i → segmentRight b j) → ¬ segmentRight b i →
                  segmentVerdict b i (imageFault b))
                ∧ ((∀ i, i < byteOf b 5 → segmentRight b i) →
                  (∀ i, i < byteOf b 5 → (∀ j, j < i → mutualRight b j) → ¬ mutualRight b i →
                    imageFault b = some { reason := .neighbourAsymmetry, item := i + 1 })
                  ∧ ((∀ i, i < byteOf b 5 → mutualRight b i) → imageFault b = none))))))))

/-- O6. Which bytes of an image that passes give which fields of the site model: n, z, the default class, the enrolment
set and the polarities; the five timing values, each its built-in default at the marker; the floor classes, the sensing
profiles, the zones and the segments. Then what is in force under a model: n, z, the fields of segments, classes and
profiles, the timing values and the default class, a tuning word that is not 0 taking its value's place (R1, R2, R3, R5,
R6, R8, R9, R10, R11, R12, R162, R180). A byte that the operand lacks reads FFh (log 12). -/
def Obligations.SiteModelFields : Prop :=
  (∀ (b : List Byte) (m : Site), imageFault b = none → m = siteOf b →
    m.segs.length = byteOf b 5 ∧ m.zones.length = byteOf b 6 ∧ m.defaultClass.val = byteOf b 7
    ∧ (∀ x : ScrubIx, m.enrolled.getLsbD x.val = (twoBytes b 10).testBit x.val)
    ∧ polarityIs (imageBit b 12 0) m.dspPolarity ∧ polarityIs (imageBit b 12 1) m.gwyPolarity
    ∧ polarityIs (imageBit b 12 2) m.opsPolarity
    ∧ timingIs b 0 30 m.timings.report ∧ timingIs b 1 50 m.timings.confirm ∧ timingIs b 2 40 m.timings.shorten
    ∧ timingIs b 3 30 m.timings.fleetWait ∧ timingIs b 4 90 m.timings.passengerWait
    ∧ (∀ c : ClassIx, classIs b c.val (m.classes[c.val]))
    ∧ (∀ p : ProfileIx, profileIs b p.val (m.profiles[p.val]))
    ∧ (∀ i p, m.zones[i]? = some p → p.val + 1 = byteOf b (112 + i))
    ∧ ∀ i r, m.segs[i]? = some r → segmentIs b i r)
  ∧ (∀ s : State, s.site = none → s.n = 0 ∧ s.z = 0)
  ∧ ∀ (s : State) (m : Site), s.site = some m →
    s.n = m.segs.length ∧ s.z = m.zones.length
    ∧ (∀ (g : SegIx) (r : SegFixed), m.segs[g.val]? = some r →
        s.fixed g = r ∧ s.resolvedClass g = (match r.cls with | some c => c | none => s.defaultClass))
    ∧ (∀ c : ClassIx, s.floorClass c = m.classes[c.val])
    ∧ (∀ (z : ZoneIx) (p : ProfileIx), m.zones[z.val]? = some p → s.profile z = m.profiles[p.val])
    ∧ s.reportTimeout = (if s.tuning[0] = 0 then m.timings.report else (s.tuning[0]).toNat)
    ∧ s.confirmTimeout = (if s.tuning[1] = 0 then m.timings.confirm else (s.tuning[1]).toNat)
    ∧ s.shortenTimeout = (if s.tuning[2] = 0 then m.timings.shorten else (s.tuning[2]).toNat)
    ∧ s.fleetWaitLimit = (if s.tuning[3] = 0 then m.timings.fleetWait else (s.tuning[3]).toNat)
    ∧ s.passengerWaitLimit = (if s.tuning[4] = 0 then m.timings.passengerWait else (s.tuning[4]).toNat)
    ∧ (s.tuning[5] = 0 → s.defaultClass = m.defaultClass)
    ∧ ∀ c : ClassIx, (s.tuning[5]).toNat = c.val + 1 → s.defaultClass = c

/-! ### The words that the part shows -/

/-- O7. The addresses and the words of every mirror record, field by field: the control words, the result and
refused-access words among them; a slot's status, progress, commit and cancel words; a segment's view entry, zero for
number 0 and above n; a scrubber's view entry. Then the header and words of a notice, the packing of its payload, and
the codes, flag places and addresses that the words use; places without a field are 0 (R23, R26, R34, R54, R55, R57,
R64, R111, R160, R163, R167, R178, R179; 13.1, 13.2, 13.4). -/
def Obligations.RecordWords : Prop :=
  (∀ (s : State) (c : CtlWord), MirrorRec.control c ∈ allRecords →
    ∃ w, s.recordWords (.control c) = [(controlAddr c, w)] ∧ controlShows s c w)
  ∧ (∀ (s : State) (k : SlotIx), s.recordWords (.slotActed k) = [(slotAddr k 11, 0), (slotAddr k 15, 0)]
    ∧ (∃ w, s.recordWords (.slotStatus k) = [(slotAddr k 12, w)] ∧ hasFields w (statusFields (s.slot k)))
    ∧ ∃ w, s.recordWords (.slotProgress k) = [(slotAddr k 14, w)] ∧ hasFields w [(0, 4, (s.slot k).progress)])
  ∧ (∀ (s : State) (n : Fin 256), ∃ v w, s.recordWords (.segView n)
      = [(BitVec.ofNat 18 (0x400 + 2 * n.val), v), (BitVec.ofNat 18 (0x401 + 2 * n.val), w)]
    ∧ (n.val = 0 ∨ s.n < n.val → v = 0 ∧ w = 0)
    ∧ ∀ g : SegIx, n.val = g.val + 1 → n.val ≤ s.n → hasFields v (segmentFields (s.fixed g) (s.seg g))
      ∧ w = match (s.seg g).wet with | none => 0 | some e => e.expiry)
  ∧ (∀ (s : State) (x : ScrubIx), ∃ a b c d e, s.recordWords (.scrubView x)
      = ([a, b, c, d, e, (s.scrub x).lastTime, 0, 0].zipIdx (0x600 + 8 * x.val)).map
          (fun p => (BitVec.ofNat 18 p.2, p.1))
    ∧ ∀ p ∈ [a, b, c, d, e].zip (scrubberFields (s.scrub x)), hasFields p.1 p.2)
  ∧ (∀ n : Notice, ∃ h, n.words = h :: n.clock :: n.payload ∧ hasFields h (headerFields n))
  ∧ (∀ a b c d, hasFields (pack4 a b c d) [(0, 8, a), (8, 8, b), (16, 8, c), (24, 8, d)])
  ∧ (∀ a b, hasFields (pack2 a b) [(0, 16, a), (16, 16, b)])
  ∧ codesStand ∧ controlPlaces

/-! ### Plan-bus accesses -/

/-- O8. In LOADING and INITIALISING every access is answered RETRY and changes nothing; the upsets that come with
PLAN_BUS_ACCESS are outside disturbances (log 6). An access refused under R20 to R22 (tag 3, or an access that they do
not allow) is answered REFUSED, sets the initiator's ACCESS_REFUSED flag and fills an empty capture, and changes nothing
else, whatever its data parity. An access to an interlock area with bad address parity, and an allowed write there with
bad data parity, is answered REFUSED, sets BUS_PARITY and changes nothing else: no ACCESS_REFUSED, no capture (R23, R30,
R31; log 6). -/
def Obligations.TurnedAwayAccesses : Prop :=
  (∀ (s : State) (i : Instr), s.mode = .loading ∨ s.mode = .initialising → i.busRow = true →
    exec i s = .next { s with answer := some .retry, badParity := (s.upset i.upsets).badParity })
  ∧ (∀ (s : State) (a : Access) (u : List (BitVec 20)), s.attends = true →
    a.tag = .three ∨ (addrParityOk a = true ∧ s.allows a = false) →
    ∃ t, exec (.planBusAccess a u) s = .next t
      ∧ t = { s with
          badParity := (s.upset u).badParity, answer := some .refused, capture := t.capture, dspFlags := t.dspFlags,
          opsFlags := t.opsFlags, dirty := t.dirty }
      ∧ t.capture = some (s.capture.getD { addr := a.addr, tag := a.tag, isWrite := isWrite a.transfer, mode := s.mode })
      ∧ (∀ f, t.dsp f = (s.dsp f || decide (f = .accessRefused ∧ a.tag ≠ .operations)))
      ∧ (∀ f, t.ops f = (s.ops f || decide (f = .accessRefused ∧ a.tag = .operations)))
      ∧ s.marks t (if s.capture = none then [.control .refused] else []))
  ∧ ∀ (s : State) (a : Access) (u : List (BitVec 20)), s.attends = true → a.tag ≠ .three → isGeneral a.addr = false →
    (addrParityOk a = false
      ∨ s.allows a = true ∧ ∃ w more, a.transfer = .write w more ∧ wordParityOk w = false) →
    ∃ t, exec (.planBusAccess a u) s = .next t
      ∧ t = { s with
          badParity := (s.upset u).badParity, answer := some .refused, dspFlags := t.dspFlags, dirty := t.dirty }
      ∧ (∀ f, t.dsp f = (s.dsp f || decide (f = .busParity)))
      ∧ s.marks t []

/-- O9. In RECOVERY and SERVICE a sound single-word write is answered DONE when the rights and the word's state permit
it, and REFUSED otherwise; in NO_SITE the write must besides fall in the general area or be of the dispatch command
word (R18, R20, R21, R22). A RELOAD_SITE that restarts the part is answered DONE here (log 13). -/
def Obligations.WriteRights : Prop :=
  (∀ (s : State) (tag : Tag) (a : BitVec 18) (v : Word), s.mode = .recovery ∨ s.mode = .service →
    ∃ t, exec (.planBusAccess (goodWrite tag a v) []) s = .next t
      ∧ (writePermitted s tag (placeOf a) v → t.answer = some (.done 1 []))
      ∧ (¬ writePermitted s tag (placeOf a) v → t.answer = some .refused))
  ∧ ∀ (s : State) (tag : Tag) (a : BitVec 18) (v : Word), s.mode = .noSite →
    ∃ t, exec (.planBusAccess (goodWrite tag a v) []) s = .next t
      ∧ (writePermitted s tag (placeOf a) v → placeOf a = .general ∨ placeOf a = .control .dspCommand →
          t.answer = some (.done 1 []))
      ∧ (¬ writePermitted s tag (placeOf a) v ∨ ¬ (placeOf a = .general ∨ placeOf a = .control .dspCommand) →
          t.answer = some .refused)

/-- O10. A write whose words all lie in the general area is taken whole: BUS_PARITY is set at its event, in p, when the
address or any data parity fails; when its turn at the memory port has come, in w, each word is written as received with
good parity, and no other word changes (R24, R29, R30, R31, R33, O16; log 6, log 9). -/
def Obligations.GeneralWrite : Prop :=
  ∀ (s : State) (a : Access) (u : List (BitVec 20)) (first : BusWord) (more : List BusWord), s.memoryLaw →
    s.attends = true → a.tag ≠ .three → a.transfer = .write first more → a.wf = true → wholeGeneral a = true →
    ∃ p w t : State, exec (.planBusAccess a u) s = .next t.arbitrate
      ∧ (s.upset u).judgedParity p (addrParityOk a = false ∨ ∃ d ∈ first :: more, wordParityOk d = false)
      ∧ w = s.turn p
      ∧ t = { w with
          mem := t.mem, badParity := t.badParity, answer := some (.done (more.length + 1) []),
          lastServed := .passage }
      ∧ (∀ (i : Nat) (d : BusWord), (first :: more)[i]? = some d →
          t.readWord (a.addr + BitVec.ofNat 18 i) = d.data ∧ t.wordBad (a.addr + BitVec.ofNat 18 i) = false)
      ∧ ∀ b, b ∉ coveredAddrs a → t.readWord b = w.readWord b ∧ t.wordBad b = w.wordBad b

/-- O11. A read whose words all lie in the general area returns them in address order up to the first word whose byte
parity fails: DONE with those before it, REFUSED when it is the first, with MEMORY_PARITY set. A read of a word of the
ring, of an unassigned control word, of a cell or figure word, and of a slot's header or route word (the gateway's
through an open gate) returns that one word, or is REFUSED with MEMORY_PARITY (R24, R28, R29, R30, R32, R76; log 6).
BUS_PARITY is set at the access's event, in p; w is the state in which its turn at the memory port has come (R33, O16;
log 9). -/
def Obligations.MemoryRead : Prop :=
  (∀ (s : State) (a : Access) (u : List (BitVec 20)) (more : Nat), s.attends = true → a.tag ≠ .three →
    a.transfer = .read more → wholeGeneral a = true →
    ∃ p w t : State, exec (.planBusAccess a u) s = .next t.arbitrate
      ∧ (s.upset u).judgedParity p (addrParityOk a = false) ∧ w = s.turn p
      ∧ t = { w with answer := t.answer, lastServed := .passage, dspFlags := t.dspFlags, dirty := t.dirty }
      ∧ ((∀ i, i ≤ more → w.wordBad (a.addr + BitVec.ofNat 18 i) = false) →
          t.answer = some (.done (more + 1)
            ((List.range (more + 1)).map (fun i => goodWord (w.readWord (a.addr + BitVec.ofNat 18 i))))))
      ∧ (∀ k, k ≤ more → w.wordBad (a.addr + BitVec.ofNat 18 k) = true →
          (∀ i, i < k → w.wordBad (a.addr + BitVec.ofNat 18 i) = false) →
          t.answer = some (if k = 0 then .refused else .done k
            ((List.range k).map (fun i => goodWord (w.readWord (a.addr + BitVec.ofNat 18 i))))))
      ∧ (∀ f, t.dsp f = (w.dsp f
          || decide (f = .memoryParity ∧ ∃ i ≤ more, w.wordBad (a.addr + BitVec.ofNat 18 i) = true)))
      ∧ w.marks t [])
  ∧ ∀ (s w : State) (a : Access) (u : List (BitVec 20)), s.attends = true → a.tag ≠ .three → addrParityOk a = true →
    isWrite a.transfer = false → plainWord s a.tag (placeOf a.addr) → w = (s.upset u).awaitPort →
    (w.wordBad a.addr = false →
      exec (.planBusAccess a u) s = .next
        ({ w with answer := some (.done 1 [goodWord (w.readWord a.addr)]), lastServed := .passage } : State).arbitrate)
    ∧ (w.wordBad a.addr = true →
      ∃ t, exec (.planBusAccess a u) s = .next t.arbitrate
        ∧ t = { w with
            answer := some .refused, lastServed := .passage, dspFlags := t.dspFlags, dirty := t.dirty }
        ∧ (∀ f, t.dsp f = (w.dsp f || decide (f = .memoryParity))) ∧ w.marks t [])

/-- O12. A burst that covers any word of an interlock area is taken as its first word alone (R29); a burst write to
the dispatch command word in NO_SITE is no single-word write and is refused (R20). That a burst write there is judged
by the parity of its first word alone is log 14. -/
def Obligations.CutBurst : Prop :=
  ∀ (s : State) (a : Access) (u : List (BitVec 20)), wholeGeneral a = false →
    (¬ (s.mode = .noSite ∧ placeOf a.addr = .control .dspCommand ∧ isWrite a.transfer = true) →
      exec (.planBusAccess a u) s = exec (.planBusAccess a.firstOnly u) s)
    ∧ (s.mode = .noSite → placeOf a.addr = .control .dspCommand → isWrite a.transfer = true →
        0 < moreWords a.transfer → addrParityOk a = true →
        ∃ t, exec (.planBusAccess a u) s = .next t ∧ t.answer = some .refused)

/-- O13. A read of a word of a mirror record is answered RETRY and promotes the record while it is dirty. While it is
clean the read is carried out from memory when its turn at the memory port has come, in the state w, even if the
record is dirty again by then (R24, R32, R33, R36; log 6, log 9). -/
def Obligations.MirrorReads : Prop :=
  ∀ (s w : State) (a : Access) (u : List (BitVec 20)) (r : MirrorRec), s.attends = true → a.tag ≠ .three →
    addrParityOk a = true → isWrite a.transfer = false → recordAt (placeOf a.addr) = some r →
    s.shutTo a.tag (placeOf a.addr) = false → w = (s.upset u).awaitPort →
    (r ∈ s.dirty → exec (.planBusAccess a u) s = .next { s with
        badParity := (s.upset u).badParity, answer := some .retry,
        promo := if r ∈ s.promo then s.promo else s.promo ++ [r] })
    ∧ (r ∉ s.dirty → w.wordBad a.addr = false → exec (.planBusAccess a u) s = .next
        ({ w with answer := some (.done 1 [goodWord (w.readWord a.addr)]), lastServed := .passage } : State).arbitrate)
    ∧ (r ∉ s.dirty → w.wordBad a.addr = true → ∃ t, exec (.planBusAccess a u) s = .next t.arbitrate
        ∧ t = { w with
            answer := some .refused, lastServed := .passage, dspFlags := t.dspFlags, dirty := t.dirty }
        ∧ (∀ f, t.dsp f = (w.dsp f || decide (f = .memoryParity))) ∧ w.marks t [])

/-- O14. A gateway read of a slot word whose gate is closed is answered DONE with zero and has no effect, but that a
read of a fleet handover word clears the slot's changed mark (R28, R75, R76, R80). -/
def Obligations.ClosedGateReadsZero : Prop :=
  ∀ (s : State) (a : Access) (u : List (BitVec 20)) (k : SlotIx) (w : Fin 16), s.attends = true → a.tag = .gateway →
    addrParityOk a = true → isWrite a.transfer = false → a.addr = slotAddr k w.val →
    ¬ (k.val < 20 ∧ ((s.slot k).state = .granted ∨ (s.slot k).state = .delivered ∨ (s.slot k).state = .active
        ∨ (s.slot k).state = .shortening) ∧ (1 ≤ w.val → w.val ≤ 10 → w.val ≤ (s.slot k).endIx)) →
    ∃ t, exec (.planBusAccess a u) s = .next t
      ∧ t = { s with
          badParity := (s.upset u).badParity, answer := some (.done 1 [goodWord 0]), slots := t.slots }
      ∧ s.onlySlot t k
          (if k.val < 20 ∧ w.val = 13 then { s.slot k with changed := false } else s.slot k)

/-- O15. HANDOVER_READ by the gateway: a GRANTED slot is delivered, its confirm timer started and its changed mark
cleared, and the summary formed from the record so left is returned; a slot already sent shows its summary and loses
its changed mark alone; a closed gate shows zero and clears the changed mark. A read of a handover word by dispatch or
by the operations link is answered DONE with the summary, and has no other effect. The summary's places for a fleet
slot with an authority, for an ACTIVE passenger slot, and for every other slot (R77, R78, R79, R80, R87, 13.2). -/
def Obligations.HandoverReads : Prop :=
  (∀ (s : State) (j : FleetIx), s.attends = true →
    ∃ t, exec (.handoverRead j) s = .next t
      ∧ t = { s with answer := t.answer, slots := t.slots, dirty := t.dirty }
      ∧ ((s.slot (fleetSlot j)).state = .granted →
          s.onlySlot t (fleetSlot j) { s.slot (fleetSlot j) with
            state := .delivered, confirmTimer := some (s.clock + BitVec.ofNat 32 s.confirmTimeout), changed := false }
          ∧ t.answer = some (.done 1 [goodWord (handoverSummary (fleetSlot j) (t.slot (fleetSlot j)))])
          ∧ s.marks t [.slotStatus (fleetSlot j)])
      ∧ ((s.slot (fleetSlot j)).state ≠ .granted →
          s.onlySlot t (fleetSlot j) { s.slot (fleetSlot j) with changed := false } ∧ t.dirty = s.dirty)
      ∧ ((s.slot (fleetSlot j)).state.sent = true →
          t.answer = some (.done 1 [goodWord (handoverSummary (fleetSlot j) (s.slot (fleetSlot j)))]))
      ∧ ((s.slot (fleetSlot j)).state = .idle ∨ (s.slot (fleetSlot j)).state = .waiting →
          t.answer = some (.done 1 [goodWord 0])))
  ∧ (∀ (s : State) (a : Access) (k : SlotIx), s.attends = true → a.tag = .dispatch ∨ a.tag = .operations →
    addrParityOk a = true → isWrite a.transfer = false → a.addr = slotAddr k 13 →
    exec (.planBusAccess a []) s = .next { s with answer := some (.done 1 [goodWord (handoverSummary k (s.slot k))]) })
  ∧ ∀ (k : SlotIx) (r : Slot),
    (k.val < 20 → r.state.authority = true →
      (handoverSummary k r).extractLsb' 0 3 = BitVec.ofNat 3 r.state.code
        ∧ (handoverSummary k r).getLsbD 3 = r.scrubHold
        ∧ (handoverSummary k r).getLsbD 4 = decide (r.endIx ≤ r.progress)
        ∧ (handoverSummary k r).extractLsb' 5 2 = BitVec.ofNat 2 r.mode.code
        ∧ (handoverSummary k r).extractLsb' 7 5 = BitVec.ofNat 5 (numOf r.scrubber)
        ∧ (handoverSummary k r).extractLsb' 12 4 = BitVec.ofNat 4 r.endIx
        ∧ (handoverSummary k r).extractLsb' 16 8 = BitVec.ofNat 8 (numOf (r.entryAt r.endIx))
        ∧ (handoverSummary k r).extractLsb' 24 8 = r.revision)
    ∧ (20 ≤ k.val → r.state = .active →
      (handoverSummary k r).extractLsb' 0 3 = 4 ∧ (handoverSummary k r).extractLsb' 3 9 = 0
        ∧ (handoverSummary k r).extractLsb' 12 4 = BitVec.ofNat 4 r.endIx
        ∧ (handoverSummary k r).extractLsb' 16 8 = BitVec.ofNat 8 (numOf (r.entryAt r.endIx))
        ∧ (handoverSummary k r).extractLsb' 24 8 = r.revision)
    ∧ ((k.val < 20 → r.state.authority = false) → (20 ≤ k.val → r.state ≠ .active) → handoverSummary k r = 0)

/-- O16. The memory port serves one requester at a time, in the cycle passage unit, mirror writer, notice writer. An
access with a memory part asks for it at its event: its turn comes at once when the port was its own in the state that
the event met, and else in awaitPort of the state that the event left: after the notice writer's grant, if it lasts,
then after the grants of the writers that wait and come before it in the cycle, at most one record and one notice. A
free port whose turn has come to a held notice is granted to it. Waiting changes no block but the two writers and the
status flags. A watched write hands its copy over at its event, before any grant ahead of it ends (R24, R25, R33). That
an access and a record of the mirror writer are one step each is log 8 and log 9. -/
def Obligations.PortInTurn : Prop :=
  (∀ s : State, s.portReady = true ↔
    s.noticeGrant = none
      ∧ (s.lastServed = .notice ∨ s.held = none ∧ (s.lastServed = .mirror ∨ ¬ mirrorAsks s)))
  ∧ (∀ s : State, s.awaitPort.portReady = true ∧ (s.portReady = true → s.awaitPort = s)
    ∧ s.awaitPort = { s with
        mem := s.awaitPort.mem, badParity := s.awaitPort.badParity, held := s.awaitPort.held,
        writeIx := s.awaitPort.writeIx, dspFlags := s.awaitPort.dspFlags, dirty := s.awaitPort.dirty,
        promo := s.awaitPort.promo, lastWritten := s.awaitPort.lastWritten, lastServed := s.awaitPort.lastServed,
        noticeGrant := none })
  ∧ (∀ s : State, s.noticeGrant ≠ none → s.awaitPort = s.endGrant.awaitPort)
  ∧ (∀ s : State, s.noticeGrant = none →
    (s.lastServed = .passage → mirrorAsks s → s.awaitPort = s.mirrorGrant.awaitPort)
    ∧ ∀ n, s.held = some n → noticeComesNext s →
      (s.lastServed ≠ .notice → s.awaitPort = ({ s with
          noticeGrant := some { notice := n, start := s.writeIx, publish := true }, lastServed := .notice } :
            State).awaitPort)
      ∧ s.arbitrate = { s with
          noticeGrant := some { notice := n, start := s.writeIx, publish := true }, lastServed := .notice })
  ∧ (∀ s : State, s.noticeGrant ≠ none ∨ s.held = none ∨ ¬ noticeComesNext s → s.arbitrate = s)
  ∧ (∀ (s : State) (a : Access) (u : List (BitVec 20)), s.attends = true → a.tag ≠ .three → wholeGeneral a = true →
    addrParityOk a = true → (∀ d ∈ transferData a.transfer, wordParityOk d = true) →
    exec (.planBusAccess a u) s = exec (.planBusAccess a []) (s.upset u).awaitPort)
  ∧ ∀ s : State, s.memoryLaw → s.mode = .recovery ∨ s.mode = .service →
    (∀ c w v, handsOverFirst s (.reportCellWrite c w v) (cellAddr c w.val) v)
    ∧ (∀ c v, handsOverFirst s (.report c v) (cellAddr c 3) v)
    ∧ (∀ z v, handsOverFirst s (.sample z v) (figureAddr z false) v)
    ∧ (∀ z v, handsOverFirst s (.moistureFigureWrite z v) (figureAddr z true) v)
    ∧ ∀ k w v, (s.slot k).state = .idle → handsOverFirst s (.slotDraftWrite k w v) (slotAddr k w.val) v

/-- O17. The attention lines. DSP_ATN and OPS_ATN call while a flag that is set is enabled in the mask, GWY_ATN while
a fleet slot with its changed mark is enabled in the gateway mask. A line is undriven in LOADING; after that an
active-low open-drain line is low when it calls and undriven when not, an active-high driven line high or low, and
without a site model each line is active-low open-drain. STOPALL is asserted exactly while the mode is not SERVICE, a
scrubber carries a violation mark, or a slot a shorten-overdue mark, and is high then and low otherwise (R12, R84, R124,
R165; 7.7). -/
def Obligations.AttentionLines : Prop :=
  ∀ s : State,
    lineShows s (·.dspPolarity) s.dspAtn (∃ f, s.dsp f = true ∧ s.dspMask.getLsbD f.place = true)
    ∧ lineShows s (·.opsPolarity) s.opsAtn (∃ f, s.ops f = true ∧ s.opsMask.getLsbD f.place = true)
    ∧ lineShows s (·.gwyPolarity) s.gwyAtn
        (∃ k : FleetIx, (s.slot (fleetSlot k)).changed = true ∧ s.gwyMask.getLsbD k.val = true)
    ∧ (s.stopAll = true ↔
        s.mode ≠ .service ∨ (∃ x, (s.scrub x).mark = true) ∨ ∃ k, (s.slot k).overdue = true)
    ∧ s.stopAllLevel = if s.stopAll = true then .high else .low

/-- O18. A read of the mode word is answered DONE with mode, cause, site fault code and the memory of ACK_RESTART in
NO_SITE, RECOVERY and SERVICE, and RETRY in LOADING and INITIALISING, with no side effect. INTERLOCK_CLOCK_TICK adds
one tenth, counted round; a read of the clock word and of the changed-slots word is answered with the count and the
set of the moment and has no side effect (R27, R83, R166, R174). -/
def Obligations.ClockAndSubstitutedReads : Prop :=
  ((∀ (s : State) (a : Access), a.tag ≠ .three → a.addr = controlAddr .mode → addrParityOk a = true →
      isWrite a.transfer = false →
      (s.mode = .noSite ∨ s.mode = .recovery ∨ s.mode = .service →
        exec (.planBusAccess a []) s = .next { s with answer := some (.done 1 [goodWord s.modeWord]) })
      ∧ (s.mode = .loading ∨ s.mode = .initialising →
        exec (.planBusAccess a []) s = .next { s with answer := some .retry }))
    ∧ ∀ s : State,
        s.modeWord.extractLsb' 0 3 = (match s.mode with
          | .loading => 0 | .noSite => 1 | .initialising => 2 | .recovery => 3 | .service => 4)
        ∧ s.modeWord.extractLsb' 4 2 = (match s.cause with | .power => 1 | .line => 2 | .reload => 3)
        ∧ s.modeWord.getLsbD 7 = s.ackRestart
        ∧ s.modeWord.extractLsb' 8 5 = BitVec.ofNat 5 s.siteFault.reason.code
        ∧ s.modeWord.extractLsb' 16 8 = BitVec.ofNat 8 s.siteFault.item)
  ∧ (∀ s : State, s.lineHeld = false → exec .interlockClockTick s = .next { s with clock := s.clock + 1 })
    ∧ (∀ (s : State) (a : Access), s.attends = true → a.tag ≠ .three → addrParityOk a = true →
        isWrite a.transfer = false →
        (a.addr = controlAddr .clock →
          exec (.planBusAccess a []) s = .next { s with answer := some (.done 1 [goodWord s.clock]) })
        ∧ (a.addr = controlAddr .changedSlots →
          exec (.planBusAccess a []) s
            = .next { s with answer := some (.done 1 [goodWord (s.changedSlots.setWidth 32)]) }))
    ∧ ∀ (s : State) (k : FleetIx), s.changedSlots.getLsbD k.val = (s.slot (fleetSlot k)).changed

/-- O20. REPORT_CELL_WRITE: the cell's capture takes the word with its mark. MOISTURE_FIGURE_WRITE: a zone 1 to z takes
the figure, 1000 at most; a zone above z takes nothing. Nothing else changes at the event, which leaves u; then the word
goes to memory in its turn at the port (R25, R33, R89, R137, O16; log 9). -/
def Obligations.CellAndMoistureWrites : Prop :=
  (∀ (s : State) (c : CellIx) (i : Fin 3) (v : Word), s.memoryLaw → s.mode = .recovery ∨ s.mode = .service →
    ∃ u t : State, exec (.reportCellWrite c i v) s = .next t.arbitrate ∧ s.tookWord u t (cellAddr c i.val) v
      ∧ u = { s with cells := u.cells }
      ∧ (∀ d, d ≠ c → u.cell d = s.cell d)
      ∧ u.cell c = { s.cell c with
          word0 := if i.val = 0 then some v else (s.cell c).word0,
          word1 := if i.val = 1 then some v else (s.cell c).word1,
          word2 := if i.val = 2 then some v else (s.cell c).word2 })
  ∧ ∀ (s : State) (z : ZoneIx) (v : Word), s.memoryLaw → s.mode = .recovery ∨ s.mode = .service →
    ∃ u t : State, exec (.moistureFigureWrite z v) s = .next t.arbitrate ∧ s.tookWord u t (figureAddr z true) v
      ∧ u = { s with zones := u.zones }
      ∧ s.onlyZone u z
          (if z.val < s.z then { s.zone z with moisture := min (v.extractLsb' 0 16).toNat 1000 } else s.zone z)

/-- O21. SLOT_DRAFT_WRITE: while the slot is IDLE the draft takes the word and nothing else changes at the event, which
leaves u; then the word goes to memory in its turn at the port. To a live slot it is an access refusal (R22, R23, R25,
R33, R58, O16; log 9). -/
def Obligations.SlotDraftWrite : Prop :=
  ∀ (s : State) (k : SlotIx) (i : Fin 11) (v : Word), s.memoryLaw → s.mode = .recovery ∨ s.mode = .service →
    ((s.slot k).state = .idle →
      ∃ (u t : State) (d : Draft), exec (.slotDraftWrite k i v) s = .next t.arbitrate
        ∧ s.tookWord u t (slotAddr k i.val) v
        ∧ u = { s with slots := u.slots } ∧ s.onlySlot u k { s.slot k with draft := d }
        ∧ (i.val = 0 → d = { (s.slot k).draft with
            scrubber := byteAt v 0, mode := byteAt v 1, length := byteAt v 2 })
        ∧ (i.val ≠ 0 → d.scrubber = (s.slot k).draft.scrubber ∧ d.mode = (s.slot k).draft.mode
            ∧ d.length = (s.slot k).draft.length
            ∧ ∀ j : Fin 10, d.route[j.val] = if j.val + 1 = i.val then v else (s.slot k).draft.route[j.val]))
    ∧ ((s.slot k).state ≠ .idle →
      ∃ t, exec (.slotDraftWrite k i v) s = .next t
        ∧ t = { s with
            answer := some .refused, capture := t.capture, dspFlags := t.dspFlags, opsFlags := t.opsFlags,
            dirty := t.dirty }
        ∧ t.capture = some (s.capture.getD
            { addr := slotAddr k i.val, tag := drafterOf k, isWrite := true, mode := s.mode })
        ∧ (∀ f, t.dsp f = (s.dsp f || decide (f = .accessRefused ∧ k.val < 20)))
        ∧ (∀ f, t.ops f = (s.ops f || decide (f = .accessRefused ∧ 20 ≤ k.val)))
        ∧ s.marks t (if s.capture = none then [.control .refused] else []))

/-! ### Zones, drying and expiries -/

/-- O22. SAMPLE in UNSEEDED and STALE: UNSEEDED seeds filtered value and baseline, STALE moves the filtered value
alone; the zone enters SETTLING with its quiet timer, or QUIET when the quiet time is 0, and the sample timer starts.
A zone above z takes nothing. That is the write's event; then the word goes to memory in its turn at the port (R25, R33,
R137, R138, R139, R142, R143, O16; log 9). -/
def Obligations.SampleSeedsOrRevives : Prop :=
  ∀ (s : State) (z : ZoneIx) (v : Word), s.memoryLaw → s.mode = .recovery ∨ s.mode = .service →
    (s.z ≤ z.val → ∃ t, exec (.sample z v) s = .next t.arbitrate ∧ s.tookWord s t (figureAddr z false) v)
    ∧ (z.val < s.z → (s.zone z).state = .unseeded ∨ (s.zone z).state = .stale →
      ((s.profile z).quietTime ≠ 0 →
        ∃ u t : State, exec (.sample z v) s = .next t.arbitrate ∧ s.tookWord u t (figureAddr z false) v
          ∧ u = { s with zones := u.zones, freeing := false }
          ∧ s.onlyZone u z { s.zone z with
              state := .settling, stuckTimer := none,
              filtered := if (s.zone z).state = .unseeded then presenceOf v
                else towards (s.zone z).filtered (presenceOf v) (s.profile z).filterShift,
              baseline := if (s.zone z).state = .unseeded then presenceOf v else (s.zone z).baseline,
              debounce := if (s.zone z).state = .unseeded then 0 else (s.zone z).debounce,
              quietTimer := some (s.clock + BitVec.ofNat 32 (10 * (s.profile z).quietTime)),
              sampleTimer := some (s.clock + 100) })
      ∧ ((s.profile z).quietTime = 0 →
        ∃ u t : State, exec (.sample z v) s = .next t.arbitrate ∧ s.tookWord u.settle t (figureAddr z false) v
          ∧ s.broughtQuiet u z
          ∧ u.zone z = { s.zone z with
              state := .quiet, stuckTimer := none, quietTimer := none,
              filtered := if (s.zone z).state = .unseeded then presenceOf v
                else towards (s.zone z).filtered (presenceOf v) (s.profile z).filterShift,
              baseline := if (s.zone z).state = .unseeded then presenceOf v else (s.zone z).baseline,
              debounce := if (s.zone z).state = .unseeded then 0 else (s.zone z).debounce,
              sampleTimer := some (s.clock + 100) }
          ∧ s.notices u (if (s.profile z).notices then
              [(.zoneQuiet, zoneWords z (u.zone z).filtered (u.zone z).baseline)] else []) []))

/-- O23. The arithmetic of a SAMPLE in a seeded state other than STALE: filtered value, baseline, halt timer and
sample timer; other zones, the cells, the scrubbers but for live slots, and all that lies outside the event stay
(R138, R144). That is the write's event, which leaves u; then the word goes to memory in its turn at the port (R25, R33,
O16; log 9). -/
def Obligations.SampleArithmetic : Prop :=
  ∀ (s : State) (z : ZoneIx) (v : Word), s.memoryLaw → s.mode = .recovery ∨ s.mode = .service → z.val < s.z →
    seededState (s.zone z).state →
    ∃ u t : State, exec (.sample z v) s = .next t.arbitrate ∧ s.tookWord u t (figureAddr z false) v
      ∧ u.outside = s.outside
      ∧ u.cells = s.cells ∧ (∀ y, y ≠ z → u.zone y = s.zone y)
      ∧ (∀ x, u.scrub x = { s.scrub x with liveSlot := (u.scrub x).liveSlot })
      ∧ (u.zone z).filtered = filteredAfter s z v
      ∧ (u.zone z).baseline =
          (if sampleDelta s z v < -((s.profile z).fastBound : Int) then baselineMoved s z v (s.profile z).fastShift
          else if ((s.zone z).state = .settling ∨ (s.zone z).state = .quiet)
              ∧ sampleDelta s z v < ((s.profile z).halt : Int) then
            baselineMoved s z v (s.profile z).baselineShift
          else (s.zone z).baseline)
      ∧ ((u.zone z).state = .present → (s.zone z).state ≠ .present → (s.zone z).state ≠ .leaving →
          (u.zone z).haltTimer = none)
      ∧ (((u.zone z).state = .present → (s.zone z).state = .present ∨ (s.zone z).state = .leaving) →
          (u.zone z).haltTimer =
            (if sampleDelta s z v < ((s.profile z).halt : Int) then none
            else if ((s.zone z).state = .settling ∨ (s.zone z).state = .quiet ∨ (s.zone z).state = .entering)
                ∧ (s.zone z).haltTimer = none ∧ (s.profile z).stuckTimeout ≠ 0 then
              some (s.clock + BitVec.ofNat 32 (600 * (s.profile z).stuckTimeout))
            else (s.zone z).haltTimer))
      ∧ (u.zone z).sampleTimer = some (s.clock + 100) ∧ (u.zone z).moisture = (s.zone z).moisture

/-- O24. The judgement of a SAMPLE: the state and debounce count after it, by the state it found (R139 to R142). The
count that LEAVING hands to SETTLING is log 22. -/
def Obligations.SampleJudgement : Prop :=
  ∀ (s : State) (z : ZoneIx) (v : Word), s.memoryLaw → s.mode = .recovery ∨ s.mode = .service → z.val < s.z →
    ∃ t, exec (.sample z v) s = .next t
      ∧ ((s.zone z).state = .settling ∨ (s.zone z).state = .quiet → ¬ sampleExceeds s z v →
          (t.zone z).state = (s.zone z).state ∧ (t.zone z).debounce = (s.zone z).debounce
            ∧ (t.zone z).quietTimer = (s.zone z).quietTimer)
      ∧ ((s.zone z).state = .settling ∨ (s.zone z).state = .quiet → sampleExceeds s z v →
          (s.profile z).debounceIn ≠ 1 →
          (t.zone z).state = .entering ∧ (t.zone z).debounce = 1
            ∧ (t.zone z).quietTimer = (s.zone z).quietTimer
            ∧ ((t.zone z).ret = .quiet ↔ (s.zone z).state = .quiet))
      ∧ ((s.zone z).state = .entering → ¬ sampleExceeds s z v →
          (t.zone z).debounce = 0 ∧ ((s.zone z).ret = .settling → (t.zone z).state = .settling
              ∧ (t.zone z).quietTimer = (s.zone z).quietTimer)
            ∧ ((s.zone z).ret = .quiet → (t.zone z).state = .quiet))
      ∧ ((s.zone z).state = .entering → sampleExceeds s z v → (s.zone z).debounce + 1 < (s.profile z).debounceIn →
          (t.zone z).state = .entering ∧ (t.zone z).debounce = (s.zone z).debounce + 1
            ∧ (t.zone z).quietTimer = (s.zone z).quietTimer)
      ∧ (((s.zone z).state = .settling ∨ (s.zone z).state = .quiet) ∧ (s.profile z).debounceIn = 1
            ∨ (s.zone z).state = .entering ∧ (s.profile z).debounceIn ≤ (s.zone z).debounce + 1 →
          sampleExceeds s z v →
          (t.zone z).state = .present ∧ (t.zone z).debounce = 0 ∧ (t.zone z).quietTimer = none
            ∧ (t.zone z).haltTimer = none
            ∧ (t.zone z).stuckTimer = (if (s.profile z).stuckTimeout = 0 then none
                else some (s.clock + BitVec.ofNat 32 (600 * (s.profile z).stuckTimeout))))
      ∧ ((s.zone z).state = .present → ¬ sampleLeaves s z v →
          (t.zone z).state = .present ∧ (t.zone z).debounce = (s.zone z).debounce
            ∧ (t.zone z).stuckTimer = (s.zone z).stuckTimer)
      ∧ ((s.zone z).state = .present → sampleLeaves s z v → (s.profile z).debounceOut ≠ 1 →
          (t.zone z).state = .leaving ∧ (t.zone z).debounce = 1 ∧ (t.zone z).stuckTimer = (s.zone z).stuckTimer)
      ∧ ((s.zone z).state = .leaving → ¬ sampleLeaves s z v →
          (t.zone z).state = .present ∧ (t.zone z).debounce = 0 ∧ (t.zone z).stuckTimer = (s.zone z).stuckTimer)
      ∧ ((s.zone z).state = .leaving → sampleLeaves s z v → (s.zone z).debounce + 1 < (s.profile z).debounceOut →
          (t.zone z).state = .leaving ∧ (t.zone z).debounce = (s.zone z).debounce + 1
            ∧ (t.zone z).stuckTimer = (s.zone z).stuckTimer)
      ∧ ((s.zone z).state = .present ∧ (s.profile z).debounceOut = 1
            ∨ (s.zone z).state = .leaving ∧ (s.profile z).debounceOut ≤ (s.zone z).debounce + 1 →
          sampleLeaves s z v →
          (t.zone z).stuckTimer = none
            ∧ (t.zone z).state = (if (s.profile z).quietTime = 0 then .quiet else .settling)
            ∧ (t.zone z).quietTimer = (if (s.profile z).quietTime = 0 then none
                else some (s.clock + BitVec.ofNat 32 (10 * (s.profile z).quietTime))))

/-- O25. A SAMPLE that is an entry to PRESENT puts a scrub hold on every SCRUB authority whose scrubber stands in the
zone, shortens every other one whose remaining route reaches into it to before the first such index, leaves every
other slot to the re-evaluation alone, and sends ZONE_PRESENT last, as the profile says (R141, R147). That is the
write's event; then the word goes to memory in its turn at the port (R25, R33, O16; log 9). -/
def Obligations.PresentZoneEffects : Prop :=
  ∀ (s : State) (z : ZoneIx) (v : Word), s.memoryLaw → s.mode = .recovery ∨ s.mode = .service → z.val < s.z →
    sampleEnters s z v →
    ∃ u t : State, exec (.sample z v) s = .next t.arbitrate ∧ s.tookWord u.settle t (figureAddr z false) v
      ∧ u.outside = s.outside
      ∧ u.queue = s.queue ∧ u.scrubbers = s.scrubbers ∧ u.cells = s.cells ∧ u.opsFlags = s.opsFlags
      ∧ (u.zone z).state = .present
      ∧ (∀ g, (u.seg g).occupant = (s.seg g).occupant ∧ (s.seg g).sameClosure (u.seg g))
      ∧ (∀ k, ¬ scrubAuthority s k → u.slot k = s.slot k)
      ∧ (∀ k, scrubAuthority s k → slotStandsIn s k z → u.slot k = { s.slot k with
          holdingZones := insertBy Fin.val z (s.slot k).holdingZones,
          scrubHold := (s.slot k).scrubHold || (s.slot k).holdingZones.isEmpty,
          changed := (s.slot k).changed || (s.slot k).holdingZones.isEmpty })
      ∧ (∀ k i g, scrubAuthority s k → ¬ slotStandsIn s k z → (g, i) ∈ (s.slot k).entries →
          (s.slot k).progress < i → i ≤ (s.slot k).endIx → (s.fixed g).zone = some z →
          (∀ j h, (h, j) ∈ (s.slot k).entries → (s.slot k).progress < j → j < i → (s.fixed h).zone ≠ some z) →
          s.cut u k (i - 1))
      ∧ (∀ k, scrubAuthority s k → ¬ slotStandsIn s k z →
          (∀ j h, (h, j) ∈ (s.slot k).entries → (s.slot k).progress < j → j ≤ (s.slot k).endIx →
            (s.fixed h).zone ≠ some z) →
          u.slot k = s.slot k)
      ∧ ∃ l, s.notices u (l ++ (if (s.profile z).notices then
            [(.zonePresent, zoneWords z (u.zone z).filtered (u.zone z).baseline)] else [])) []
          ∧ ∀ p ∈ l, p.1 = .shortened

/-- O26. The expiries of a zone's timers, each when the clock has reached it; at any other clock nothing changes.
Quiet timer: a SETTLING zone reaches QUIET with R148's effects and its notice; in ENTERING the return state becomes
QUIET; in any other state the timer stops. Sample timer: the zone becomes STALE with every timer stopped and count 0,
ZONE_STALE is set whatever the profile says, and its notice sent as the profile says. Stuck and halt timers: the zone
is reseeded (R142, R143, R144, R145, R146, R148; log 7). -/
def Obligations.ZoneTimerExpiries : Prop :=
  ∀ (s : State) (z : ZoneIx),
    ((s.zone z).quietTimer = some s.clock → (s.zone z).state = .settling →
      ∃ u, exec (.quietTimerExpiry z) s = .next u.settle ∧ s.broughtQuiet u z
        ∧ u.zone z = { s.zone z with state := .quiet, quietTimer := none }
        ∧ s.notices u (if (s.profile z).notices then
            [(.zoneQuiet, zoneWords z (s.zone z).filtered (s.zone z).baseline)] else []) [])
    ∧ ((s.zone z).quietTimer = some s.clock → (s.zone z).state ≠ .settling →
      ∃ t, exec (.quietTimerExpiry z) s = .next t ∧ t = { s with zones := t.zones, freeing := false }
        ∧ s.onlyZone t z { s.zone z with
            quietTimer := none, ret := if (s.zone z).state = .entering then .quiet else (s.zone z).ret })
    ∧ ((s.zone z).quietTimer ≠ some s.clock → exec (.quietTimerExpiry z) s = .next s)
    ∧ ((s.zone z).sampleTimer = some s.clock →
      ∃ t, exec (.zoneStale z) s = .next t
        ∧ t = { s with zones := t.zones, staging := t.staging, dspFlags := t.dspFlags, dirty := t.dirty }
        ∧ s.onlyZone t z { s.zone z with
            state := .stale, debounce := 0, quietTimer := none, stuckTimer := none, haltTimer := none,
            sampleTimer := none }
        ∧ s.notices t (if (s.profile z).notices then
            [(.zoneStale, zoneWords z (s.zone z).filtered (s.zone z).baseline)] else []) [.zoneStale]
        ∧ s.marks t [])
    ∧ ((s.zone z).sampleTimer ≠ some s.clock → exec (.zoneStale z) s = .next s)
    ∧ ((s.zone z).stuckTimer = some s.clock →
      ∃ u, exec (.stuckTimerExpiry z) s = .next u.settle ∧ s.reseeded u z)
    ∧ ((s.zone z).stuckTimer ≠ some s.clock → exec (.stuckTimerExpiry z) s = .next s)
    ∧ ((s.zone z).haltTimer = some s.clock →
      ∃ u, exec (.haltTimerExpiry z) s = .next u.settle ∧ s.reseeded u z)
    ∧ ((s.zone z).haltTimer ≠ some s.clock → exec (.haltTimerExpiry z) s = .next s)

/-- O27. DRYING_EXPIRY of an entry whose expiry the clock has reached: it dries, is extended by 300 tenths, or closes
the segment with origin DRYING; without such an entry it changes nothing (R44, R129, R130, R131; log 7). -/
def Obligations.DryingExpiry : Prop :=
  ∀ (s : State) (g : SegIx),
    ((∀ e ∈ s.drying, e.seg = g → e.expiry ≠ s.clock) → exec (.dryingExpiry g) s = .next s)
    ∧ ∀ e, s.dryingLaw → s.idleLaw → e ∈ s.drying → e.seg = g → e.expiry = s.clock →
      (entryDries s e →
        ∃ u, exec (.dryingExpiry g) s = .next u.settle
          ∧ u = { s with
              segs := u.segs, drying := s.drying.filter (fun d => d.seg != g), staging := u.staging,
              dspFlags := u.dspFlags, dirty := u.dirty, freeing := true }
          ∧ s.onlySeg u g { s.seg g with wet := none }
          ∧ s.notices u [(.dry, [pack4 (g.val + 1) e.cls.val e.count 0])] [] ∧ s.marks u [segRecord g])
      ∧ (¬ entryDries s e → e.count < 4 →
        ∃ t z, exec (.dryingExpiry g) s = .next t ∧ (s.fixed g).zone = some z
          ∧ t = { s with
              segs := t.segs, drying := t.drying, staging := t.staging, dspFlags := t.dspFlags, dirty := t.dirty,
              freeing := false }
          ∧ s.onlySeg t g { s.seg g with wet := some { expiry := e.expiry + 300, count := e.count + 1 } }
          ∧ (∀ d, d ∈ t.drying ↔ d = { e with expiry := e.expiry + 300, count := e.count + 1 }
              ∨ (d ∈ s.drying ∧ d.seg ≠ g))
          ∧ s.notices t [(.dryingExtended, [pack4 (g.val + 1) (z.val + 1) (e.count + 1) 0,
              pack2 (s.zone z).moisture (s.profile z).dryThreshold, e.expiry + 300])] []
          ∧ s.marks t [segRecord g])
      ∧ (¬ entryDries s e → 4 ≤ e.count →
        ∃ t z, exec (.dryingExpiry g) s = .next t ∧ (s.fixed g).zone = some z
          ∧ t = { s with
              segs := t.segs, drying := s.drying.filter (fun d => d.seg != g), staging := t.staging,
              dspFlags := t.dspFlags, dirty := t.dirty, freeing := false }
          ∧ s.onlySeg t g { s.seg g with wet := none, closure := { (s.seg g).closure with drying := true } }
          ∧ s.notices t [(.dryingOverdue, [pack4 (g.val + 1) (z.val + 1) 0 0,
              pack2 (s.zone z).moisture (s.profile z).dryThreshold])] [.dryingOverdue]
          ∧ s.marks t [segRecord g])

/-- O28. SCRUBBER_LOST of a HEARD scrubber whose report timer the clock has reached: the timer stops, the scrubber is
LOST with all else of its record kept, the flag is set and the notice sent. CONFIRM_OVERDUE when the clock has reached
the confirm timer's expiry: the timer stops, the flag is set and the notice sent, and the slot and all it holds stay.
SHORTEN_OVERDUE when the clock has reached the shorten timer's expiry: the timer stops and a notice is sent; a slot
without the mark takes it, STOPALL is asserted, SHORTEN_OVERDUE is set, and STOP_ALL when the line was released; a
slot with the mark changes in nothing else. Otherwise nothing changes (R88, R105, R123, R124, R125; log 7). -/
def Obligations.LostAndOverdue : Prop :=
  (∀ (s : State) (x : ScrubIx),
    ((s.scrub x).state = .heard → (s.scrub x).timer = some s.clock →
      ∃ t, exec (.scrubberLost x) s = .next t
        ∧ t = { s with scrubbers := t.scrubbers, staging := t.staging, dspFlags := t.dspFlags, dirty := t.dirty }
        ∧ s.onlyScrub t x { s.scrub x with state := .lost, timer := none }
        ∧ s.notices t [(.scrubberLost, [pack4 (x.val + 1) (numOf (s.scrub x).current) 0 0])] [.scrubberLost]
        ∧ s.marks t [.scrubView x])
    ∧ (¬ ((s.scrub x).state = .heard ∧ (s.scrub x).timer = some s.clock) → exec (.scrubberLost x) s = .next s))
  ∧ (∀ (s : State) (j : FleetIx),
    ((s.slot (fleetSlot j)).confirmTimer = some s.clock →
      ∃ t, exec (.confirmOverdue j) s = .next t
        ∧ t = { s with slots := t.slots, staging := t.staging, dspFlags := t.dspFlags, dirty := t.dirty }
        ∧ s.onlySlot t (fleetSlot j) { s.slot (fleetSlot j) with confirmTimer := none }
        ∧ s.notices t [(.confirmOverdue, [pack4 (j.val + 1) (s.slot (fleetSlot j)).revision.toNat 0 0])]
            [.confirmOverdue]
        ∧ s.marks t [])
    ∧ ((s.slot (fleetSlot j)).confirmTimer ≠ some s.clock → exec (.confirmOverdue j) s = .next s))
  ∧ ∀ (s : State) (j : FleetIx),
    ((s.slot (fleetSlot j)).shortenTimer = some s.clock →
      ∃ t, exec (.shortenOverdue j) s = .next t
        ∧ t = { s with slots := t.slots, staging := t.staging, dspFlags := t.dspFlags, dirty := t.dirty }
        ∧ s.onlySlot t (fleetSlot j) { s.slot (fleetSlot j) with shortenTimer := none, overdue := true }
        ∧ t.stopAll = true
        ∧ s.notices t [(.shortenOverdue, [pack4 (j.val + 1) (s.slot (fleetSlot j)).revision.toNat 0 0])]
            (if (s.slot (fleetSlot j)).overdue then []
              else if s.stopAll then [.shortenOverdue] else [.shortenOverdue, .stopAll])
        ∧ s.marks t [])
    ∧ ((s.slot (fleetSlot j)).shortenTimer ≠ some s.clock → exec (.shortenOverdue j) s = .next s)

/-- O30. WAIT_EXPIRED of a WAITING slot whose deadline the clock has reached: the slot leaves the queue and is IDLE
with WAIT_EXPIRED and its notice; a fleet slot's scrubber has no live slot; a passenger slot's claims go from its
route, PASSENGER_EXPIRED is set, and the queue is re-evaluated. Otherwise nothing changes (R68, R72, R159; log 7). -/
def Obligations.WaitExpired : Prop :=
  ∀ (s : State) (k : SlotIx),
    (¬ ((s.slot k).state = .waiting ∧ (s.slot k).deadline = some s.clock) → exec (.waitExpired k) s = .next s)
    ∧ ((s.slot k).state = .waiting → (s.slot k).deadline = some s.clock →
      (k.val < 20 → ∃ t, exec (.waitExpired k) s = .next t
        ∧ t = { s with
            slots := t.slots, queue := s.queue.filter (fun j => j != k), scrubbers := t.scrubbers,
            staging := t.staging, dspFlags := t.dspFlags, dirty := t.dirty, freeing := false }
        ∧ s.onlySlot t k ((s.slot k).returned .waitExpired 0 (s.slot k).changed)
        ∧ (∀ x, t.scrub x = if (s.slot k).scrubber = some x then { s.scrub x with liveSlot := none } else s.scrub x)
        ∧ s.notices t
            [(.ended, [pack4 (k.val + 1) Result.waitExpired.code (s.slot k).revision.toNat 0])] []
        ∧ MirrorRec.slotStatus k ∈ t.dirty)
      ∧ (20 ≤ k.val → ∃ u, exec (.waitExpired k) s = .next u.settle
        ∧ u = { s with
            slots := u.slots, queue := s.queue.filter (fun j => j != k), segs := u.segs, staging := u.staging,
            dspFlags := u.dspFlags, opsFlags := u.opsFlags, dirty := u.dirty, freeing := u.freeing }
        ∧ s.onlySlot u k ((s.slot k).returned .waitExpired 0 (s.slot k).changed)
        ∧ (∀ g, u.seg g = if g ∈ (s.slot k).route then
            { s.seg g with claims := (s.seg g).claims.filter (fun c => c != k) } else s.seg g)
        ∧ (u.freeing = true ↔ ∃ g ∈ (s.slot k).route, k ∈ (s.seg g).claims)
        ∧ (∀ f, u.ops f = (s.ops f || decide (f = .passengerExpired)))
        ∧ s.notices u
            [(.ended, [pack4 (k.val + 1) Result.waitExpired.code (s.slot k).revision.toNat 0])] []
        ∧ MirrorRec.slotStatus k ∈ u.dirty))

/-! ### Reports -/

/-- O31. A REPORT is valid exactly when the scrubber number is 1 to 16 and not ABSENT, the current segment 1 to n, and
the trailing segment 0 or another segment 1 to n that is a neighbour of the current one. An invalid report is discarded
with REPORT_INVALID and its notice, a valid one of a WITHDRAWN scrubber with a WITHDRAWN_HEARD notice; the word goes to
memory and the cell's marks are cleared (R89, R93). That is the write's event, which leaves u; then the word goes to
memory in its turn at the port (R25, R33, O16; log 9). -/
def Obligations.ValidAndDiscardedReports : Prop :=
  (∀ (s : State) (r : Report) (x : ScrubIx) (p : Position),
    s.validReport r = some (x, p) ↔
      r.scrubber.toNat = x.val + 1 ∧ (s.scrub x).state ≠ .absent
        ∧ r.current.toNat = p.current.val + 1 ∧ p.current.val < s.n
        ∧ (p.trailing = none ∧ r.trailing.toNat = 0
          ∨ ∃ h, p.trailing = some h ∧ r.trailing.toNat = h.val + 1 ∧ h.val < s.n ∧ h ≠ p.current
              ∧ h ∈ (s.fixed p.current).nbrs))
  ∧ ∀ (s : State) (c : CellIx) (v : Word), s.memoryLaw → s.mode = .recovery ∨ s.mode = .service →
    (s.validReport (reportOf (s.cell c) v) = none →
      ∃ u t : State, exec (.report c v) s = .next t.arbitrate ∧ s.tookWord u t (cellAddr c 3) v
        ∧ u = { s with cells := u.cells, staging := u.staging, dspFlags := u.dspFlags, dirty := u.dirty }
        ∧ u.cell c = {} ∧ (∀ d, d ≠ c → u.cell d = s.cell d)
        ∧ s.notices u [(.reportInvalid, [pack4 c.val (reportOf (s.cell c) v).scrubber.toNat 0 0])] [.reportInvalid]
        ∧ s.marks u [])
    ∧ (∀ x p, s.validReport (reportOf (s.cell c) v) = some (x, p) → (s.scrub x).state = .withdrawn →
      ∃ u t : State, exec (.report c v) s = .next t.arbitrate ∧ s.tookWord u t (cellAddr c 3) v
        ∧ u = { s with cells := u.cells, staging := u.staging, dspFlags := u.dspFlags, dirty := u.dirty }
        ∧ u.cell c = {} ∧ (∀ d, d ≠ c → u.cell d = s.cell d)
        ∧ s.notices u [(.withdrawnHeard, [pack4 (x.val + 1) (p.current.val + 1) 0 0])] []
        ∧ s.marks u [])

/-- O32. A processed REPORT leaves the record of its scrubber HEARD at the reported position with the report's fields
and a running timer, its occupants where the move puts them, every other scrubber's record but for its live slot, every
zone record, and all that lies outside the event but the mode (R92, R94, R97, R104, R176). That is the write's event,
which leaves u; then the word goes to memory in its turn at the port (R25, R33, O16; log 9). -/
def Obligations.ProcessedReport : Prop :=
  ∀ (s : State) (c : CellIx) (v : Word) (x : ScrubIx) (p : Position), s.memoryLaw →
    s.mode = .recovery ∨ s.mode = .service → s.validReport (reportOf (s.cell c) v) = some (x, p) →
    (s.scrub x).state ≠ .withdrawn →
    ∃ u t : State, exec (.report c v) s = .next t.arbitrate ∧ s.tookWord u t (cellAddr c 3) v
      ∧ u.outside = { s.outside with mode := u.mode }
      ∧ u.cell c = {} ∧ (∀ d, d ≠ c → u.cell d = s.cell d)
      ∧ u.zones = s.zones
      ∧ (∃ m l, u.scrub x = { s.scrub x with
          state := .heard, current := some p.current, trailing := p.trailing, parked := none, liveSlot := l, mark := m,
          lastTime := s.clock, timer := some (s.clock + BitVec.ofNat 32 s.reportTimeout), flags := reportFlagsOf v,
          lastSlot := (reportOf (s.cell c) v).slot, lastRevision := (reportOf (s.cell c) v).revision })
      ∧ (∀ y, y ≠ x → u.scrub y = { s.scrub y with liveSlot := (u.scrub y).liveSlot })
      ∧ (∀ g : SegIx, g.val < s.n → (u.seg g).occupant =
          if g = p.current ∨ some g = p.trailing then
            (match (s.seg g).occupant with | none => some x | some y => some y)
          else if (s.seg g).occupant = some x then none else (s.seg g).occupant)
      ∧ (∀ g, (u.seg g).closure = (s.seg g).closure)
      ∧ MirrorRec.scrubView x ∈ u.dirty

/-- O29. What a processed REPORT does to its scrubber's DELIVERED, ACTIVE or SHORTENING slot and to the floor it holds:
the progress index advances to the current segment's route index, but not beyond the end, and never falls; the evidence
of the entries stood on follows the scrubbing flag; every entry behind the progress index that is not stood on is
released, and without a violation the others that are not pending stay held; whatever the report releases is wet when it
was carried wet or the table of R101 says so, by the progress and evidence that the report leaves (R41, R98, R99, R100,
R101). That is the write's event; then the word goes to memory in its turn at the port (R25, R33, O16; log 9). -/
def Obligations.ReportProgressAndReleases : Prop :=
  ∀ (s : State) (c : CellIx) (v : Word) (x : ScrubIx) (p : Position) (j : FleetIx) (k : SlotIx) (r q : Slot),
    s.memoryLaw → s.routeLaw → s.mode = .recovery ∨ s.mode = .service →
    s.validReport (reportOf (s.cell c) v) = some (x, p) →
    (s.scrub x).state ≠ .withdrawn → (s.scrub x).liveSlot = some j → k = fleetSlot j → r = s.slot k →
    q = r.walked p (reportFlagsOf v).scrubbing → r.state.sent = true → r.route.Nodup →
    r.evidence.length = r.route.length →
    ∃ u t : State, exec (.report c v) s = .next t.arbitrate
      ∧ s.tookWord u.settle.judgeService t (cellAddr c 3) v
      ∧ ((u.slot k).state ≠ .idle → (u.slot k).progress = q.progress ∧ (u.slot k).evidence = q.evidence
          ∧ (q.progress ≠ r.progress → MirrorRec.slotProgress k ∈ u.dirty))
      ∧ (∀ e ∈ r.entries, e.2 < q.progress → e.1 ≠ p.current → p.trailing ≠ some e.1 →
          (u.seg e.1).holder ≠ some k)
      ∧ (∀ e ∈ r.entries, (s.seg e.1).holder = some k → (u.slot k).state ≠ .idle → ¬ violatingAt s x p →
          e.2 ∉ r.pendingSet → q.progress ≤ e.2 ∨ e.1 = p.current ∨ p.trailing = some e.1 →
          (u.seg e.1).holder = some k)
      ∧ (∀ e ∈ r.entries, (s.seg e.1).holder = some k → (u.seg e.1).holder ≠ some k →
          s.releasedAs e.1 (wetChosen k q e.2) (u.seg e.1) ∧ (u.seg e.1).claims = (s.seg e.1).claims)

/-- O33. The position check: after a processed REPORT the scrubber carries a violation mark exactly when it did before
or the report is a violating one; a new mark asserts STOPALL and sets VIOLATION, and STOP_ALL when the line was
released, and a VIOLATION notice names the scrubber, its current segment and the first violated one; a scrubber
already marked sends no second one. A violating report shortens the scrubber's own slot to its progress index, GRANTED
with release at once and otherwise with the segments ahead pending; a fleet slot of another scrubber that holds a
violated segment ahead is shortened to before it; every other fleet slot with an authority stays (R95, R96, R101,
R106, R107, R112, R113, R114, R124, R125). -/
def Obligations.ReportViolations : Prop :=
  ∀ (s : State) (c : CellIx) (v : Word) (x : ScrubIx) (p : Position),
    s.mode = .recovery ∨ s.mode = .service → s.validReport (reportOf (s.cell c) v) = some (x, p) →
    (s.scrub x).state ≠ .withdrawn →
    ∃ t, exec (.report c v) s = .next t
      ∧ ((t.scrub x).mark = true ↔ (s.scrub x).mark = true ∨ violatingAt s x p)
      ∧ (violatingAt s x p → t.stopAll = true)
      ∧ (violatingAt s x p → (s.scrub x).mark = false → t.dsp .violation = true
          ∧ (s.stopAll = false → t.dsp .stopAll = true))
      ∧ (∀ g, violatedHere s x p g → (g ≠ p.current → ¬ violatedBy s x p.current) → (s.scrub x).mark = false →
          s.tells t 4 .violation [pack4 (x.val + 1) (p.current.val + 1) (g.val + 1) 0])
      ∧ ((s.scrub x).mark = true ∨ ¬ violatingAt s x p → ∀ n ∈ t.staging, n.kind = .violation → n ∈ s.staging)
      ∧ (∀ (j : FleetIx) (k : SlotIx) (r : Slot), violatingAt s x p → (s.scrub x).liveSlot = some j → k = fleetSlot j →
          r = s.slot k →
          (r.state = .granted → r.progress < r.endIx →
            t.slot k = { r with endIx := r.progress, revision := nextRevision r.revision, changed := true }
            ∧ ∀ e ∈ r.entries, r.progress < e.2 → (t.seg e.1).holder ≠ some k)
          ∧ (r.state.sent = true → progressAfter r p.current < r.endIx → (reportOf (s.cell c) v).slot ≠ 0 →
            ¬ ((reportOf (s.cell c) v).slot.toNat = j.val + 1
              ∧ (reportOf (s.cell c) v).revision = nextRevision r.revision) →
            t.slot k = { r.walked p (reportFlagsOf v).scrubbing with
              state := .shortening, endIx := progressAfter r p.current, revision := nextRevision r.revision,
              changed := true, confirmTimer := none,
              shortenTimer := some (s.clock + BitVec.ofNat 32 s.shortenTimeout),
              pendingSet := (t.slot k).pendingSet }
            ∧ ∀ i, i ∈ (t.slot k).pendingSet ↔ i ∈ r.pendingSet
                ∨ ∃ e ∈ r.entries, e.2 = i ∧ progressAfter r p.current < i ∧ (s.seg e.1).holder = some k))
      ∧ (∀ k : SlotIx, k.val < 20 → (s.slot k).state.authority = true →
          (∀ j, (s.scrub x).liveSlot = some j → fleetSlot j ≠ k) →
          (∀ g i, violatedHere s x p g → holdsAhead s k g i →
            (t.slot k).endIx < i ∧ (t.slot k).changed = true
            ∧ ((∀ h, violatedHere s x p h → h ≠ g → (s.seg h).holder ≠ some k) → s.cut t k (i - 1)))
          ∧ ((∀ g i, violatedHere s x p g → (s.seg g).holder = some k → (g, i) ∈ (s.slot k).entries →
              i ≤ (s.slot k).progress ∨ (s.slot k).endIx < i) →
            t.slot k = s.slot k))

/-- O34. A confirming REPORT: without violation, a DELIVERED slot named with its current revision becomes ACTIVE with
its confirm timer stopped; a SHORTENING one from within its end becomes ACTIVE with nothing pending, its shorten timer
stopped and its overdue mark cleared, and holds no pending segment any more; each sends CONFIRMED. Another revision,
and a report of an ACTIVE slot that does not complete it, confirms nothing and changes only progress and evidence. A
confirmation that also completes the route is O35's (R85, R86, R98, R116, R118). What stands beyond the end is log 31.
-/
def Obligations.ReportConfirms : Prop :=
  ∀ (s : State) (c : CellIx) (v : Word) (x : ScrubIx) (p : Position) (j : FleetIx) (k : SlotIx) (r : Slot),
    s.mode = .recovery ∨ s.mode = .service → s.validReport (reportOf (s.cell c) v) = some (x, p) →
    (s.scrub x).state ≠ .withdrawn → ¬ violatingAt s x p → (s.scrub x).liveSlot = some j → k = fleetSlot j →
    r = s.slot k → (reportOf (s.cell c) v).slot.toNat = j.val + 1 →
    ∃ t, exec (.report c v) s = .next t
      ∧ (r.state = .delivered → (reportOf (s.cell c) v).revision = r.revision →
          ¬ completesAt r p (reportFlagsOf v) →
          t.slot k = { r with
            state := .active, confirmTimer := none, progress := (t.slot k).progress, evidence := (t.slot k).evidence }
          ∧ s.tells t 1 .confirmed [pack4 (k.val + 1) r.revision.toNat 0 0])
      ∧ (r.state = .shortening → (reportOf (s.cell c) v).revision = r.revision →
          (∀ i, (p.current, i) ∈ r.entries → i ≤ r.endIx) → ¬ completesAt r p (reportFlagsOf v) →
          t.slot k = { r with
            state := .active, pendingSet := [], shortenTimer := none, overdue := false,
            progress := (t.slot k).progress, evidence := (t.slot k).evidence }
          ∧ (∀ e ∈ r.entries, e.2 ∈ r.pendingSet → (t.seg e.1).holder ≠ some k)
          ∧ s.tells t 1 .confirmed [pack4 (k.val + 1) r.revision.toNat 0 0])
      ∧ (r.state.sent = true → (reportOf (s.cell c) v).revision ≠ r.revision ∨ r.state = .active →
          (r.state = .active → ¬ completesAt r p (reportFlagsOf v)) →
          t.slot k = { r with progress := (t.slot k).progress, evidence := (t.slot k).evidence }
          ∧ ∀ n ∈ t.staging, n.kind = .confirmed → n ∈ s.staging)

/-- O35. A REPORT that ends a slot: a disclaimer (slot field 0) ends the scrubber's DELIVERED, ACTIVE or SHORTENING
slot with DISCLAIMED, its overdue mark cleared. An ACTIVE slot, or one that the same report confirms (DELIVERED, or
SHORTENING from within its end), whose end segment is reported with no trailing segment and the end-reached flag
completes with COMPLETED. A SHORTENING slot confirmed from beyond its end, on a pending segment, ends with COMPLETED
whatever the flag. Each sends ENDED, after CONFIRMED where the report confirms; the slot holds no segment of its route
and is no longer the scrubber's live slot (R74, R82, R85, R98, R102, R103, R116, R117, R119; what stands beyond the
end is log 31). -/
def Obligations.ReportEndsSlots : Prop :=
  ∀ (s : State) (c : CellIx) (v : Word) (x : ScrubIx) (p : Position) (j : FleetIx) (k : SlotIx) (r : Slot),
    s.mode = .recovery ∨ s.mode = .service → s.validReport (reportOf (s.cell c) v) = some (x, p) →
    (s.scrub x).state ≠ .withdrawn → (s.scrub x).liveSlot = some j → k = fleetSlot j → r = s.slot k →
    r.scrubber = some x →
    ∃ t, exec (.report c v) s = .next t
      ∧ ((reportOf (s.cell c) v).slot = 0 → r.state.sent = true →
          t.slot k = { r.returned .disclaimed 0 true with overdue := false, revision := (t.slot k).revision }
          ∧ (∀ g ∈ r.route, (t.seg g).holder ≠ some k) ∧ (t.scrub x).liveSlot ≠ some j
          ∧ s.tells t 5 .ended [pack4 (k.val + 1) Result.disclaimed.code (t.slot k).revision.toNat 0])
      ∧ (r.state = .active → (reportOf (s.cell c) v).slot ≠ 0 → ¬ violatingAt s x p ∨ r.route.Nodup →
          completesAt r p (reportFlagsOf v) →
          t.slot k = r.returned .completed 0 true
          ∧ (∀ g ∈ r.route, (t.seg g).holder ≠ some k) ∧ (t.scrub x).liveSlot ≠ some j
          ∧ s.tells t 5 .ended [pack4 (k.val + 1) Result.completed.code r.revision.toNat 0])
      ∧ ((reportOf (s.cell c) v).slot.toNat = j.val + 1 → (reportOf (s.cell c) v).revision = r.revision →
          ¬ violatingAt s x p ∨ r.route.Nodup →
          (r.state = .delivered → completesAt r p (reportFlagsOf v) →
            t.slot k = r.returned .completed 0 true
            ∧ (∀ g ∈ r.route, (t.seg g).holder ≠ some k) ∧ (t.scrub x).liveSlot ≠ some j
            ∧ s.tells t 5 .confirmed [pack4 (k.val + 1) r.revision.toNat 0 0]
            ∧ s.tells t 6 .ended [pack4 (k.val + 1) Result.completed.code r.revision.toNat 0])
          ∧ (r.state = .shortening → (∀ i, (p.current, i) ∈ r.entries → i ≤ r.endIx) →
            completesAt r p (reportFlagsOf v) →
            t.slot k = { r.returned .completed 0 true with overdue := false }
            ∧ (∀ g ∈ r.route, (t.seg g).holder ≠ some k) ∧ (t.scrub x).liveSlot ≠ some j
            ∧ s.tells t 5 .confirmed [pack4 (k.val + 1) r.revision.toNat 0 0]
            ∧ s.tells t 6 .ended [pack4 (k.val + 1) Result.completed.code r.revision.toNat 0])
          ∧ (r.state = .shortening → r.route.Nodup →
            (∃ e ∈ r.entries, e.1 = p.current ∧ r.endIx < e.2 ∧ e.2 ∈ r.pendingSet) →
            t.slot k = { r.returned .completed 0 true with overdue := false }
            ∧ (∀ g ∈ r.route, (t.seg g).holder ≠ some k) ∧ (t.scrub x).liveSlot ≠ some j
            ∧ s.tells t 5 .confirmed [pack4 (k.val + 1) r.revision.toNat 0 0]
            ∧ s.tells t 6 .ended [pack4 (k.val + 1) Result.completed.code r.revision.toNat 0]))

/-! ### Commits and cancels -/

/-- O36. A commit that leaves its slot IDLE or live as it was: NOT_IN_SERVICE in RECOVERY, STATE for a live slot,
FORMAT for a value other than 1 and 2, and in SERVICE the failure of the structural pass; each sends a REFUSED notice,
and STATE changes nothing in the slot. COMMIT and COMMIT_WAIT mean the same here. The steps run in this order whatever
the value (R59, R61, R62, R64, R66). That a failed commit leaves scrubber, mode and route as they were is log 18; that
the status word is marked dirty even when the result stands there already is log 27. -/
def Obligations.CommitRefused : Prop :=
  ∀ (s : State) (k : SlotIx) (wait : Bool),
    (s.mode = .recovery →
      ∃ t, exec (if wait then .commitWait k else .commit k) s = .next t
        ∧ t = { s with
            answer := some tookOne, slots := t.slots, staging := t.staging, dspFlags := t.dspFlags, dirty := t.dirty,
            freeing := false }
        ∧ s.onlySlot t k { s.slot k with result := .notInService, failIx := 0 }
        ∧ s.notices t [(.refused, [pack4 (k.val + 1) Result.notInService.code 0 0])] []
        ∧ s.marks t [.slotStatus k])
    ∧ (s.mode = .service → (s.slot k).state ≠ .idle →
      ∃ t, exec (if wait then .commitWait k else .commit k) s = .next t
        ∧ t = { s with
            answer := some tookOne, staging := t.staging, dspFlags := t.dspFlags, dirty := t.dirty, freeing := false }
        ∧ s.notices t [(.refused, [pack4 (k.val + 1) Result.state.code 0 0])] []
        ∧ s.marks t [])
    ∧ (∀ f, s.mode = .service → (s.slot k).state = .idle →
      (k.val < 20 → s.structuralFleet k = .error f) → (20 ≤ k.val → s.structuralPassenger k = some f) →
      ∃ t, exec (if wait then .commitWait k else .commit k) s = .next t
        ∧ t = { s with
            answer := some tookOne, slots := t.slots, staging := t.staging, dspFlags := t.dspFlags, dirty := t.dirty,
            freeing := false }
        ∧ s.onlySlot t k { s.slot k with result := f.1, failIx := f.2 }
        ∧ s.notices t [(.refused, [pack4 (k.val + 1) f.1.code f.2 0])] []
        ∧ s.marks t [.slotStatus k])
    ∧ ∀ v : Word, v ≠ 1 → v ≠ 2 →
      (s.mode = .recovery ∨ s.mode = .service ∧ (s.slot k).state ≠ .idle →
        exec (.planBusAccess (goodWrite (drafterOf k) (slotAddr k 11) v) []) s = exec (.commit k) s)
      ∧ (s.mode = .service → (s.slot k).state = .idle →
        ∃ t, exec (.planBusAccess (goodWrite (drafterOf k) (slotAddr k 11) v) []) s = .next t
          ∧ t = { s with
              answer := some tookOne, slots := t.slots, staging := t.staging, dspFlags := t.dspFlags, dirty := t.dirty,
              freeing := false }
          ∧ s.onlySlot t k { s.slot k with result := .format, failIx := 0 }
          ∧ s.notices t [(.refused, [pack4 (k.val + 1) Result.format.code 0 0])] []
          ∧ s.marks t [.slotStatus k])

/-- O37. A fleet draft passes the structural pass exactly when every check of R61 passes, over the route values that
its length takes; otherwise the first check that fails, in the order of the table, gives its result and failing index
(R60, R61). -/
def Obligations.FleetStructuralPass : Prop :=
  (∀ (s : State) (k : SlotIx) (x : ScrubIx) (m : AuthMode), s.n ≤ 255 →
    (s.structuralFleet k = .ok (x, m) ↔
      (s.slot k).draft.scrubber.toNat = x.val + 1 ∧ (s.slot k).draft.mode.toNat = m.code
        ∧ 1 ≤ (s.slot k).draft.length.toNat ∧ (s.slot k).draft.length.toNat ≤ 10
        ∧ (∀ i : Fin 10, i.val < (s.slot k).draft.length.toNat →
            1 ≤ ((s.slot k).draft.route[i.val]).toNat ∧ ((s.slot k).draft.route[i.val]).toNat ≤ s.n)
        ∧ (s.scrub x).state = .heard ∧ (s.scrub x).mark = false
        ∧ (∀ j : SlotIx, j.val < 20 → j ≠ k → (s.slot j).state ≠ .idle → (s.slot j).scrubber ≠ some x)
        ∧ (s.slot k).draft.captured.head? = (s.scrub x).current
        ∧ (∀ i a b, (s.slot k).draft.captured[i]? = some a → (s.slot k).draft.captured[i + 1]? = some b →
            b ∈ (s.fixed a).nbrs)
        ∧ (s.slot k).draft.captured.Nodup
        ∧ (m = .scrub → ∀ g ∈ (s.slot k).draft.captured, (s.floorClass (s.resolvedClass g)).wetScrub = true)))
  ∧ (∀ (s : State) (k : SlotIx) (d : Draft), s.n ≤ 255 → d = (s.slot k).draft →
    (¬ ((1 ≤ d.scrubber.toNat ∧ d.scrubber.toNat ≤ 16) ∧ (d.mode = 1 ∨ d.mode = 2)
        ∧ 1 ≤ d.length.toNat ∧ d.length.toNat ≤ 10) →
      s.structuralFleet k = .error (.format, 0))
    ∧ ((1 ≤ d.scrubber.toNat ∧ d.scrubber.toNat ≤ 16) ∧ (d.mode = 1 ∨ d.mode = 2)
        ∧ 1 ≤ d.length.toNat ∧ d.length.toNat ≤ 10 →
      ∀ i : Fin 10, i.val < d.length.toNat → valueOutOfRange s (d.route[i.val]) →
        (∀ j : Fin 10, j.val < i.val → ¬ valueOutOfRange s (d.route[j.val])) →
        s.structuralFleet k = .error (.format, i.val + 1)))
  ∧ ∀ (s : State) (k : SlotIx) (x : ScrubIx) (m : AuthMode) (d : Draft), s.n ≤ 255 → d = (s.slot k).draft →
    d.scrubber.toNat = x.val + 1 → d.mode.toNat = m.code → 1 ≤ d.length.toNat ∧ d.length.toNat ≤ 10 →
    (∀ i : Fin 10, i.val < d.length.toNat → ¬ valueOutOfRange s (d.route[i.val])) →
    ((s.scrub x).state = .absent → s.structuralFleet k = .error (.notEnrolled, 0))
    ∧ ((s.scrub x).state = .lost → s.structuralFleet k = .error (.scrubberLost, 0))
    ∧ ((s.scrub x).state = .unheard ∨ (s.scrub x).state = .withdrawn → s.structuralFleet k = .error (.notPlaced, 0))
    ∧ ((s.scrub x).state = .heard →
      ((s.scrub x).mark = true → s.structuralFleet k = .error (.violation, 0))
      ∧ ((s.scrub x).mark = false →
        (∀ j : SlotIx, j.val < 20 → j ≠ k → (s.slot j).state ≠ .idle → (s.slot j).scrubber = some x →
          s.structuralFleet k = .error (.scrubberBusy, 0))
        ∧ ((∀ j : SlotIx, j.val < 20 → j ≠ k → (s.slot j).state ≠ .idle → (s.slot j).scrubber ≠ some x) →
          (d.captured.head? ≠ (s.scrub x).current → s.structuralFleet k = .error (.badStart, 1))
          ∧ (d.captured.head? = (s.scrub x).current →
            (∀ i a b, d.captured[i]? = some a → d.captured[i + 1]? = some b → b ∉ (s.fixed a).nbrs →
              (∀ h e f, h < i → d.captured[h]? = some e → d.captured[h + 1]? = some f → f ∈ (s.fixed e).nbrs) →
              s.structuralFleet k = .error (.notAdjacent, i + 2))
            ∧ ((∀ i a b, d.captured[i]? = some a → d.captured[i + 1]? = some b → b ∈ (s.fixed a).nbrs) →
              (∀ i g, d.captured[i]? = some g → g ∈ d.captured.take i → (d.captured.take i).Nodup →
                s.structuralFleet k = .error (.repeated, i + 1))
              ∧ (d.captured.Nodup → m = .scrub → ∀ i g, d.captured[i]? = some g →
                (s.floorClass (s.resolvedClass g)).wetScrub = false →
                (∀ h ∈ d.captured.take i, (s.floorClass (s.resolvedClass h)).wetScrub = true) →
                s.structuralFleet k = .error (.floor, i + 1)))))))

/-- O38. R62: the structural pass of a passenger commit, its three checks in order with their results and failing
indices; adjacency, scrubber number and mode code are not looked at, and COMMIT and COMMIT_WAIT mean the same. -/
def Obligations.PassengerStructuralPass : Prop :=
  (∀ (s : State) (k : SlotIx), 20 ≤ k.val → s.n ≤ 255 →
    (¬ (1 ≤ (s.slot k).draft.length.toNat ∧ (s.slot k).draft.length.toNat ≤ 10) →
      s.structuralPassenger k = some (.format, 0))
    ∧ (1 ≤ (s.slot k).draft.length.toNat ∧ (s.slot k).draft.length.toNat ≤ 10 →
      (∀ i : Fin 10, i.val < (s.slot k).draft.length.toNat → valueOutOfRange s ((s.slot k).draft.route[i.val]) →
        (∀ j : Fin 10, j.val < i.val → ¬ valueOutOfRange s ((s.slot k).draft.route[j.val])) →
        s.structuralPassenger k = some (.format, i.val + 1))
      ∧ ((∀ i : Fin 10, i.val < (s.slot k).draft.length.toNat →
            ¬ valueOutOfRange s ((s.slot k).draft.route[i.val])) →
        (∀ i : Fin 10, i.val < (s.slot k).draft.length.toNat →
          (∃ j : Fin 10, j.val < i.val ∧ (s.slot k).draft.route[j.val] = (s.slot k).draft.route[i.val]) →
          (∀ h : Fin 10, h.val < i.val →
            ¬ ∃ j : Fin 10, j.val < h.val ∧ (s.slot k).draft.route[j.val] = (s.slot k).draft.route[h.val]) →
          s.structuralPassenger k = some (.repeated, i.val + 1))
        ∧ ((∀ i j : Fin 10, i.val < (s.slot k).draft.length.toNat → j.val < i.val →
            (s.slot k).draft.route[j.val] ≠ (s.slot k).draft.route[i.val]) →
          s.structuralPassenger k = none))))
    ∧ (∀ (s t : State) (k : SlotIx), t.n = s.n → (t.slot k).draft.length = (s.slot k).draft.length →
        (t.slot k).draft.route = (s.slot k).draft.route → t.structuralPassenger k = s.structuralPassenger k)
    ∧ ∀ (s : State) (k : SlotIx), 20 ≤ k.val → exec (.commit k) s = exec (.commitWait k) s

/-- O39. R50: the fleet availability test of a segment at a route index: its eight checks, the first that fails giving
the result, and availability when every check passes. -/
def Obligations.FleetAvailability : Prop :=
  ∀ (s : State) (x : ScrubIx) (m : AuthMode) (i : Nat) (g : SegIx),
    s.fleetTest x m i g =
      (if ((s.seg g).closure.operations = true ∨ (s.seg g).closure.dispatch = true ∨ (s.seg g).closure.drying = true)
          ∧ i ≠ 1 then some .closed
      else if (s.seg g).wet ≠ none ∧ i ≠ 1 then some .wet
      else if (s.seg g).holder ≠ none then some .held
      else if (s.seg g).claims ≠ [] then some .claimed
      else if (s.seg g).occupant ≠ none ∧ (s.seg g).occupant ≠ some x then some .occupied
      else if ∃ p, (s.fixed g).pinch = some p ∧ (s.pinchEntry p).holder ≠ none ∧ (s.pinchEntry p).holder ≠ some x then
        some .pinch
      else if m = .scrub ∧ ∃ z, (s.fixed g).zone = some z ∧ (s.zone z).state ≠ .quiet then some .zone
      else if m = .scrub ∧ (s.floorClass (s.resolvedClass g)).wetScrub = false then some .floor
      else none)

/-- O40. R52: the passenger availability test: its four checks, the first that fails giving the result; claims, pinch
groups, zones and floor classes do not enter it, and it has no exemption by route index. -/
def Obligations.PassengerAvailability : Prop :=
  (∀ (s : State) (g : SegIx),
    s.passengerTest g =
      (if (s.seg g).closure.operations = true ∨ (s.seg g).closure.dispatch = true ∨ (s.seg g).closure.drying = true then
        some .closed
      else if (s.seg g).wet ≠ none then some .wet
      else if (s.seg g).holder ≠ none then some .held
      else if (s.seg g).occupant ≠ none then some .occupied
      else none))
    ∧ (∀ (s t : State) (g : SegIx), (t.seg g).closure = (s.seg g).closure → (t.seg g).wet = (s.seg g).wet →
        (t.seg g).holder = (s.seg g).holder → (t.seg g).occupant = (s.seg g).occupant →
        t.passengerTest g = s.passengerTest g)
    ∧ ∀ (s : State) (k : SlotIx), 20 ≤ k.val →
        s.availability k = firstFailure (fun _ g => s.passengerTest g) (s.slot k).entries

/-- O41. A fleet commit whose draft passes and whose every segment is available grants the slot in the commit event:
the route is held, wet floor at index 1 becomes carried wet, the record is a fresh authority with the next revision,
the scrubber's live slot and the GRANTED notice follow, and the queue is re-evaluated when a freeing change was made.
Each pinch group of the route has the scrubber as holder, with its count; the other groups stay (R40, R47, R48, R65,
R73; what counts is log 35). -/
def Obligations.CommitGrants : Prop :=
  ∀ (s : State) (k : SlotIx) (wait : Bool) (x : ScrubIx) (m : AuthMode), s.mode = .service → k.val < 20 →
    (s.slot k).state = .idle → s.structuralFleet k = .ok (x, m) →
    (∀ e ∈ (s.slot k).draft.captured.zipIdx 1, s.fleetTest x m e.2 e.1 = none) →
    ∃ u t : State, exec (if wait then .commitWait k else .commit k) s = .next t ∧ t = u.settle.answered tookOne
      ∧ u = { s with
          slots := u.slots, segs := u.segs, pinch := u.pinch, drying := u.drying, scrubbers := u.scrubbers,
          queue := s.queue.filter (fun j => j != k), staging := u.staging, dspFlags := u.dspFlags, dirty := u.dirty,
          freeing := u.freeing }
      ∧ s.onlySlot u k
          { draft := (s.slot k).draft, scrubber := some x, mode := m, route := (s.slot k).draft.captured,
            state := .granted, endIx := (s.slot k).draft.captured.length, progress := 1,
            evidence := (s.slot k).draft.captured.map (fun _ => Evidence.none),
            revision := if (s.slot k).revision = 255 then 1 else (s.slot k).revision + 1,
            overdue := (s.slot k).overdue, result := .granted, changed := true }
      ∧ (∀ y, u.scrub y = if y = x then { s.scrub y with liveSlot := asFleet k } else s.scrub y)
      ∧ s.tookFloor u k x (s.slot k).draft.captured
      ∧ s.notices u [(.granted, [pack4 (k.val + 1) (u.slot k).revision.toNat (u.slot k).endIx 0])] []
      ∧ MirrorRec.slotStatus k ∈ u.dirty ∧ MirrorRec.slotProgress k ∈ u.dirty

/-- O42. A fleet commit whose draft passes and whose availability pass fails: it waits, at the back of the queue with
its deadline, when the value is COMMIT_WAIT, the failure is transient and the fleet wait limit in force is above 0;
otherwise it stays IDLE with the failure and a REFUSED notice, its scrubber, mode and route as they were (log 18; R63,
R66). -/
def Obligations.FleetCommitUnavailable : Prop :=
  ∀ (s : State) (k : SlotIx) (wait : Bool) (x : ScrubIx) (m : AuthMode) (r : Result) (i : Nat), s.mode = .service →
    k.val < 20 → (s.slot k).state = .idle → s.structuralFleet k = .ok (x, m) →
    firstFailure (fun j g => s.fleetTest x m j g) ((s.slot k).draft.captured.zipIdx 1) = some (r, i) →
    (wait = true → r.transient = true → 0 < s.fleetWaitLimit →
      ∃ t, exec (.commitWait k) s = .next t
        ∧ t = { s with
            answer := some tookOne, slots := t.slots, scrubbers := t.scrubbers, queue := s.queue ++ [k],
            staging := t.staging, dspFlags := t.dspFlags, dirty := t.dirty, freeing := false }
        ∧ s.onlySlot t k { s.slot k with
            state := .waiting, scrubber := some x, mode := m, route := (s.slot k).draft.captured, result := r,
            failIx := i, deadline := some (s.clock + BitVec.ofNat 32 (10 * s.fleetWaitLimit)) }
        ∧ (∀ y, t.scrub y = if y = x then { s.scrub y with liveSlot := asFleet k } else s.scrub y)
        ∧ s.notices t [(.waiting, [pack4 (k.val + 1) r.code i 0,
            s.clock + BitVec.ofNat 32 (10 * s.fleetWaitLimit)])] []
        ∧ MirrorRec.slotStatus k ∈ t.dirty)
    ∧ (wait = false ∨ r.transient = false ∨ s.fleetWaitLimit = 0 →
      ∃ t, exec (if wait then .commitWait k else .commit k) s = .next t
        ∧ t = { s with
            answer := some tookOne, slots := t.slots, staging := t.staging, dspFlags := t.dspFlags, dirty := t.dirty,
            freeing := false }
        ∧ s.onlySlot t k { s.slot k with result := r, failIx := i }
        ∧ s.notices t [(.refused, [pack4 (k.val + 1) r.code i 0])] []
        ∧ s.marks t [.slotStatus k])

/-- O43. A passenger commit whose draft passes: with every segment available the slot becomes ACTIVE and holds its
route; with a failure it waits behind the passenger entries and ahead of the fleet entries, its claims stand on its
whole route, and every fleet authority whose remaining route meets it is shortened to before the first such index: a
GRANTED one releases its segments from there on, the others keep theirs as release-pending. The WAITING notice comes
first, then the SHORTENED ones (R41, R42, R67, R68, R101, R113, R114, R154, R155, R157). -/
def Obligations.PassengerCommit : Prop :=
  ∀ (s : State) (k : SlotIx), s.mode = .service → 20 ≤ k.val → (s.slot k).state = .idle →
    s.structuralPassenger k = none →
    ((∀ g ∈ (s.slot k).draft.captured, s.passengerTest g = none) →
      ∃ u t : State, exec (.commit k) s = .next t ∧ t = u.settle.answered tookOne
        ∧ u = { s with
            slots := u.slots, segs := u.segs, queue := s.queue.filter (fun j => j != k), staging := u.staging,
            dspFlags := u.dspFlags, opsFlags := u.opsFlags, dirty := u.dirty, freeing := u.freeing }
        ∧ s.onlySlot u k { s.slot k with
            state := .active, route := (s.slot k).draft.captured, endIx := (s.slot k).draft.captured.length,
            deadline := none, result := .granted, failIx := 0,
            revision := if (s.slot k).revision = 255 then 1 else (s.slot k).revision + 1 }
        ∧ (∀ g, u.seg g = if g ∈ (s.slot k).draft.captured then
            { s.seg g with holder := some k, claims := (s.seg g).claims.filter (fun c => c != k) } else s.seg g)
        ∧ (∀ f, u.ops f = (s.ops f || decide (f = .passengerActive)))
        ∧ s.notices u [(.passengerActive,
            [pack4 (k.val + 1) (u.slot k).revision.toNat (s.slot k).draft.captured.length 0])] []
        ∧ MirrorRec.slotStatus k ∈ u.dirty)
    ∧ (∀ r i, firstFailure (fun _ g => s.passengerTest g) ((s.slot k).draft.captured.zipIdx 1) = some (r, i) →
      ∃ u t : State, exec (.commit k) s = .next t ∧ t = u.settle.answered tookOne ∧ u.outside = s.outside
        ∧ u.scrubbers = s.scrubbers ∧ u.zones = s.zones ∧ u.cells = s.cells ∧ u.opsFlags = s.opsFlags
        ∧ u.queue = s.queue.filter (fun j => !isFleet j) ++ k :: s.queue.filter isFleet
        ∧ u.slot k = { s.slot k with
            state := .waiting, route := (s.slot k).draft.captured, result := r, failIx := i,
            deadline := some (s.clock + BitVec.ofNat 32 (10 * s.passengerWaitLimit)) }
        ∧ (∀ g c, c ∈ (u.seg g).claims ↔
            c ∈ (s.seg g).claims ∨ (c = k ∧ g ∈ (s.slot k).draft.captured))
        ∧ (∀ j : SlotIx, j ≠ k → ¬ (j.val < 20 ∧ (s.slot j).state.authority = true) → u.slot j = s.slot j)
        ∧ (∀ j e, meetsAt s j (s.slot k).draft.captured e → s.cut u j (e - 1)
            ∧ ∀ h d, (s.slot j).route.Nodup → (h, d) ∈ (s.slot j).entries → (s.seg h).holder = some j →
              (d < e → u.seg h = { s.seg h with claims := (u.seg h).claims })
              ∧ (e ≤ d → (s.slot j).state = .granted →
                s.releasedAs h (wetChosen j (s.slot j) d) (u.seg h) ∧ (u.seg h).occupant = (s.seg h).occupant
                  ∧ ((s.seg h).carried = true ∨ wetChosen j (s.slot j) d → s.newEntry h ∈ u.drying))
              ∧ (e ≤ d → (s.slot j).state ≠ .granted →
                u.seg h = { s.seg h with pendingRel := true, claims := (u.seg h).claims }))
        ∧ (∀ j : SlotIx, j.val < 20 → (s.slot j).state.authority = true →
            (∀ e, ¬ meetsAt s j (s.slot k).draft.captured e) → u.slot j = s.slot j)
        ∧ (∀ g, (∀ j e, (s.seg g).holder = some j → ¬ meetsAt s j (s.slot k).draft.captured e) →
            u.seg g = { s.seg g with claims := (u.seg g).claims })
        ∧ (∀ d ∈ s.drying, d ∈ u.drying)
        ∧ (∀ d ∈ u.drying, d ∈ s.drying ∨ d = s.newEntry d.seg ∧ ∃ j e i, meetsAt s j (s.slot k).draft.captured e
            ∧ (s.slot j).state = .granted ∧ (d.seg, i) ∈ (s.slot j).entries ∧ e ≤ i ∧ (s.seg d.seg).holder = some j
            ∧ ((s.seg d.seg).carried = true ∨ wetChosen j (s.slot j) i))
        ∧ (∀ p, (∀ j e, meetsAt s j (s.slot k).draft.captured e → (s.slot j).state = .granted →
            ∀ g ∈ (s.slot j).route, (s.fixed g).pinch ≠ some p) → u.pinchEntry p = s.pinchEntry p)
        ∧ (∃ l, s.notices u ((.waiting, [pack4 (k.val + 1) r.code i 0,
              s.clock + BitVec.ofNat 32 (10 * s.passengerWaitLimit)]) :: l) [] ∧ ∀ p ∈ l, p.1 = .shortened)
        ∧ MirrorRec.slotStatus k ∈ u.dirty)

/-- O44. The end of an event: without a freeing change nothing more happens; with one the queue is re-evaluated once,
front to back as it stands, and an entry's outcome is its grant or activation, as a commit's, its stay with the new
failure, without a notice, or, for a fleet entry with a permanent failure (a check of its scrubber, or FLOOR), its end
with a REFUSED notice (R39, R40, R65, R67, R70, R71; what counts in a pinch group is log 35). -/
def Obligations.Reevaluation : Prop :=
  (∀ u : State, u.freeing = false → u.settle = u)
    ∧ (∀ u : State, u.freeing = true →
        u.settle = { u.queue.foldl (fun w k => w.reevalEntry k) u with freeing := false })
    ∧ (∀ (u : State) (k : SlotIx), (u.slot k).state ≠ .waiting → u.reevalEntry k = u)
    ∧ (∀ (u : State) (k : SlotIx) (r : Result) (i : Nat), 20 ≤ k.val → (u.slot k).state = .waiting →
        u.availability k = some (r, i) →
        u.reevalEntry k = { u with slots := (u.reevalEntry k).slots, dirty := (u.reevalEntry k).dirty }
          ∧ u.onlySlot (u.reevalEntry k) k { u.slot k with result := r, failIx := i })
    ∧ (∀ (u : State) (k : SlotIx), 20 ≤ k.val → (u.slot k).state = .waiting → u.availability k = none →
        u.onlySlot (u.reevalEntry k) k { u.slot k with
            state := .active, endIx := (u.slot k).route.length, deadline := none, result := .granted, failIx := 0,
            revision := if (u.slot k).revision = 255 then 1 else (u.slot k).revision + 1 }
          ∧ (∃ t, u.reevalEntry k = t ∧ t = { u with
              slots := t.slots, segs := t.segs, queue := u.queue.filter (fun j => j != k), staging := t.staging,
              dspFlags := t.dspFlags, opsFlags := t.opsFlags, dirty := t.dirty, freeing := t.freeing }
            ∧ (∀ g, t.seg g = if g ∈ (u.slot k).route then
                { u.seg g with holder := some k, claims := (u.seg g).claims.filter (fun c => c != k) } else u.seg g)
            ∧ (∀ f, t.ops f = (u.ops f || decide (f = .passengerActive)))
            ∧ u.notices t [(.passengerActive,
                [pack4 (k.val + 1) (t.slot k).revision.toNat (u.slot k).route.length 0])] []))
    ∧ ∀ (u : State) (k : SlotIx) (x : ScrubIx), k.val < 20 → (u.slot k).state = .waiting →
        (u.slot k).scrubber = some x →
        ((u.scrub x).state = .heard → (u.scrub x).mark = false → (u.slot k).route.head? = (u.scrub x).current →
          (u.availability k = none →
            u.onlySlot (u.reevalEntry k) k { u.slot k with
                state := .granted, endIx := (u.slot k).route.length, progress := 1,
                evidence := (u.slot k).route.map (fun _ => Evidence.none), pendingSet := [], scrubHold := false,
                holdingZones := [], confirmTimer := none, shortenTimer := none, deadline := none, result := .granted,
                failIx := 0, revision := if (u.slot k).revision = 255 then 1 else (u.slot k).revision + 1,
                changed := true }
              ∧ ∃ t, u.reevalEntry k = t ∧ t = { u with
                  slots := t.slots, segs := t.segs, pinch := t.pinch, drying := t.drying, scrubbers := t.scrubbers,
                  queue := u.queue.filter (fun j => j != k), staging := t.staging, dspFlags := t.dspFlags,
                  dirty := t.dirty, freeing := t.freeing }
                ∧ (∀ y, t.scrub y = if y = x then { u.scrub y with liveSlot := asFleet k } else u.scrub y)
                ∧ u.tookFloor t k x (u.slot k).route
                ∧ u.notices t [(.granted, [pack4 (k.val + 1) (t.slot k).revision.toNat (t.slot k).endIx 0])] [])
          ∧ (∀ r i, u.availability k = some (r, i) → r.transient = true →
            u.reevalEntry k = { u with slots := (u.reevalEntry k).slots, dirty := (u.reevalEntry k).dirty }
              ∧ u.onlySlot (u.reevalEntry k) k { u.slot k with result := r, failIx := i })
          ∧ (∀ r i, u.availability k = some (r, i) → r.transient = false →
            u.endsWaiting k x r i))
        ∧ (∀ r : Result, (r = (if (u.scrub x).state = .lost then .scrubberLost
              else if (u.scrub x).state ≠ .heard then .notPlaced
              else if (u.scrub x).mark = true then .violation else .badStart)) →
            ¬ ((u.scrub x).state = .heard ∧ (u.scrub x).mark = false
              ∧ (u.slot k).route.head? = (u.scrub x).current) →
            u.endsWaiting k x r (if r = .badStart then 1 else 0))

/-- O45. CANCEL where it changes no authority: FORMAT, STATE for an IDLE slot, and STATE for a DELIVERED or SHORTENING
slot already cut to its progress index each send a REFUSED notice and change nothing; a WAITING fleet slot leaves the
queue and is IDLE with CANCELLED; a WAITING passenger slot also loses its claims (R120, R121). -/
def Obligations.CancelRefusedOrWaiting : Prop :=
  ∀ (s : State) (k : SlotIx) (v : Word), s.mode = .recovery ∨ s.mode = .service →
    (v ≠ 1 ∨ (s.slot k).state = .idle ∨ (k.val < 20 ∧ (s.slot k).endIx ≤ (s.slot k).progress
        ∧ ((s.slot k).state = .delivered ∨ (s.slot k).state = .shortening)) →
      ∃ t, exec (.cancel k v) s = .next t
        ∧ t = { s with
            answer := some tookOne, staging := t.staging, dspFlags := t.dspFlags, dirty := t.dirty, freeing := false }
        ∧ s.notices t [(.refused,
            [pack4 (k.val + 1) (if v = 1 then Result.state.code else Result.format.code) 0 0])] []
        ∧ s.marks t [])
    ∧ (v = 1 → (s.slot k).state = .waiting →
      (k.val < 20 → ∃ t, exec (.cancel k v) s = .next t
        ∧ t = { s with
            answer := some tookOne, slots := t.slots, queue := s.queue.filter (fun j => j != k),
            scrubbers := t.scrubbers, staging := t.staging, dspFlags := t.dspFlags, dirty := t.dirty,
            freeing := false }
        ∧ s.onlySlot t k ((s.slot k).returned .cancelled 0 (s.slot k).changed)
        ∧ (∀ x, t.scrub x = if (s.slot k).scrubber = some x then { s.scrub x with liveSlot := none } else s.scrub x)
        ∧ s.notices t [(.ended, [pack4 (k.val + 1) Result.cancelled.code (s.slot k).revision.toNat 0])] []
        ∧ MirrorRec.slotStatus k ∈ t.dirty)
      ∧ (20 ≤ k.val → ∃ u, exec (.cancel k v) s = .next (u.settle.answered tookOne)
        ∧ u = { s with
            slots := u.slots, queue := s.queue.filter (fun j => j != k), segs := u.segs, staging := u.staging,
            dspFlags := u.dspFlags, dirty := u.dirty, freeing := u.freeing }
        ∧ s.onlySlot u k ((s.slot k).returned .cancelled 0 (s.slot k).changed)
        ∧ (∀ g, u.seg g = if g ∈ (s.slot k).route then
            { s.seg g with claims := (s.seg g).claims.filter (fun c => c != k) } else s.seg g)
        ∧ (u.freeing = true ↔ ∃ g ∈ (s.slot k).route, k ∈ (s.seg g).claims)
        ∧ s.notices u [(.ended, [pack4 (k.val + 1) Result.cancelled.code (s.slot k).revision.toNat 0])] []
        ∧ MirrorRec.slotStatus k ∈ u.dirty))

/-- O46. CANCEL of a slot that holds its route: a GRANTED slot, and an ACTIVE one whose end is its progress index,
give back all they hold with the wet choice of R101 and end with CANCELLED; a sent slot whose end lies above its
progress index is shortened to it, its segments ahead pending; an ACTIVE passenger slot gives back its route with no
wet and ends with RELEASED. The pinch groups of a given-back route are counted afresh, and one whose holder has no use
of it left passes to who still stands in it (R41, R42, R47, R48, R49, R101, R114, R120, R121, R158; what counts is log
35). -/
def Obligations.CancelWithAuthority : Prop :=
  ∀ (s : State) (k : SlotIx), s.mode = .recovery ∨ s.mode = .service → (s.slot k).route.Nodup →
    (k.val < 20 → ((s.slot k).state = .granted
        ∨ (s.slot k).state = .active ∧ (s.slot k).endIx ≤ (s.slot k).progress) →
      ∃ u, exec (.cancel k 1) s = .next (u.settle.answered tookOne)
        ∧ u = { s with
            slots := u.slots, segs := u.segs, pinch := u.pinch, drying := u.drying, scrubbers := u.scrubbers,
            staging := u.staging, dspFlags := u.dspFlags, dirty := u.dirty, freeing := u.freeing }
        ∧ s.onlySlot u k ((s.slot k).returned .cancelled 0 true) ∧ s.gaveBack u k
        ∧ (s.pinchLaw → ∀ p h g, g ∈ (s.slot k).route → (s.seg g).holder = some k → (s.fixed g).pinch = some p →
            (s.pinchEntry p).holder = some h → pinchAfter u p h (u.pinchEntry p))
        ∧ (∀ x, u.scrub x = if (s.slot k).scrubber = some x then { s.scrub x with liveSlot := none } else s.scrub x)
        ∧ s.notices u [(.ended, [pack4 (k.val + 1) Result.cancelled.code (s.slot k).revision.toNat 0])] []
        ∧ MirrorRec.slotStatus k ∈ u.dirty ∧ MirrorRec.slotProgress k ∈ u.dirty)
    ∧ (k.val < 20 → (s.slot k).state.sent = true → (s.slot k).progress < (s.slot k).endIx →
      ∃ t, exec (.cancel k 1) s = .next t
        ∧ t = { s with
            answer := some tookOne, slots := t.slots, segs := t.segs, staging := t.staging, dspFlags := t.dspFlags,
            dirty := t.dirty, freeing := false }
        ∧ s.cut t k (s.slot k).progress ∧ (∀ j, j ≠ k → t.slot j = s.slot j)
        ∧ (∀ g i, (g, i) ∈ (s.slot k).entries → (s.slot k).progress < i → (s.seg g).holder = some k →
            t.seg g = { s.seg g with pendingRel := true })
        ∧ (∀ g, (∀ i, (g, i) ∈ (s.slot k).entries → (s.seg g).holder = some k → i ≤ (s.slot k).progress) →
            t.seg g = s.seg g)
        ∧ s.notices t [(.shortened, [pack4 (k.val + 1) (t.slot k).revision.toNat (s.slot k).progress 0])] []
        ∧ MirrorRec.slotStatus k ∈ t.dirty)
    ∧ (20 ≤ k.val → (s.slot k).state = .active →
      ∃ u, exec (.cancel k 1) s = .next (u.settle.answered tookOne)
        ∧ u = { s with
            slots := u.slots, segs := u.segs, drying := u.drying, staging := u.staging, dspFlags := u.dspFlags,
            dirty := u.dirty, freeing := u.freeing }
        ∧ s.onlySlot u k ((s.slot k).returned .released 0 (s.slot k).changed) ∧ s.gaveBack u k
        ∧ s.notices u [(.passengerReleased, [pack4 (k.val + 1) (s.slot k).revision.toNat 0 0])] []
        ∧ MirrorRec.slotStatus k ∈ u.dirty ∧ MirrorRec.slotProgress k ∈ u.dirty)

/-! ### Commands and control words -/

/-- O47. The refusals of commands, in the order of R160's checks, each with the result record, flag and notice of R161
and nothing else: UNKNOWN_CODE by the issuer's column, WRONG_MODE, BAD_OPERAND and NOT_PERMITTED. The write of the
operations command word in NO_SITE is refused at the bus and is no command (R20, R108, R109, R110, R145, R149, R152,
R160, R161, R176). -/
def Obligations.CommandRefusals : Prop :=
  (∀ (s : State) (i : Issuer) (code : Byte) (f : CmdFields), s.attends = true →
    (i = .dispatch → code = 0 ∨ code = 7 ∨ code = 8 ∨ 12 ≤ code.toNat) →
    (i = .operations → s.mode ≠ .noSite ∧ (code.toNat < 5 ∨ 9 < code.toNat)) →
    s.turnsAway (.unknownCode i code f) i code f.tag .unknownCode)
  ∧ (∀ (s : State) (code : Byte) (f : CmdFields), s.mode = .noSite →
    ∃ t, exec (.unknownCode .operations code f) s = .next t ∧ t.answer = some .refused ∧ t.opsResult = s.opsResult
      ∧ t.staging = s.staging)
  ∧ (∀ (s : State) (f : CmdFields), s.mode = .noSite →
    s.turnsAway (.withdraw f) .dispatch 2 f.tag .wrongMode ∧ s.turnsAway (.readmit f) .dispatch 3 f.tag .wrongMode
      ∧ s.turnsAway (.clearViolation f) .dispatch 4 f.tag .wrongMode
      ∧ s.turnsAway (.closeSegment .dispatch f) .dispatch 5 f.tag .wrongMode
      ∧ s.turnsAway (.reopenSegment .dispatch f) .dispatch 6 f.tag .wrongMode
      ∧ s.turnsAway (.reseedZone .dispatch f) .dispatch 9 f.tag .wrongMode
      ∧ s.turnsAway (.resetNotices f) .dispatch 10 f.tag .wrongMode)
  ∧ (∀ (s : State) (f : CmdFields),
    (s.mode = .noSite ∨ s.mode = .service → s.turnsAway (.ackRestart f) .dispatch 1 f.tag .wrongMode)
      ∧ (s.mode = .recovery → ∀ c, s.turnsAway (.reloadSite f c) .dispatch 11 f.tag .wrongMode)
      ∧ (s.mode = .service → ∀ c k, (s.slot k).state ≠ .idle →
          s.turnsAway (.reloadSite f c) .dispatch 11 f.tag .notPermitted))
  ∧ (∀ (s : State) (f : CmdFields), s.mode = .recovery ∨ s.mode = .service →
    (f.a = 0 ∨ 16 < f.a.toNat ∨ (∃ x : ScrubIx, f.a.toNat = x.val + 1 ∧ (s.scrub x).state = .absent) →
      s.turnsAway (.withdraw f) .dispatch 2 f.tag .badOperand ∧ s.turnsAway (.readmit f) .dispatch 3 f.tag .badOperand
        ∧ s.turnsAway (.clearViolation f) .dispatch 4 f.tag .badOperand)
    ∧ (s.n < f.b.toNat → s.turnsAway (.withdraw f) .dispatch 2 f.tag .badOperand)
    ∧ (f.a = 0 ∨ s.n < f.a.toNat → ∀ i, s.turnsAway (.closeSegment i f) i 5 f.tag .badOperand
        ∧ s.turnsAway (.reopenSegment i f) i 6 f.tag .badOperand)
    ∧ (f.a = 0 ∨ s.z < f.a.toNat → s.turnsAway (.closeZone f) .operations 7 f.tag .badOperand
        ∧ s.turnsAway (.reopenZone f) .operations 8 f.tag .badOperand
        ∧ ∀ i, s.turnsAway (.reseedZone i f) i 9 f.tag .badOperand))
  ∧ ∀ (s : State) (f : CmdFields), s.mode = .recovery ∨ s.mode = .service →
    (∀ (x y : ScrubIx) (g : SegIx), f.a.toNat = x.val + 1 → (s.scrub x).state ≠ .absent → f.b.toNat = g.val + 1 →
      f.b.toNat ≤ s.n → (s.seg g).occupant = some y → y ≠ x →
      s.turnsAway (.withdraw f) .dispatch 2 f.tag .notPermitted)
    ∧ (∀ x : ScrubIx, f.a.toNat = x.val + 1 → (s.scrub x).state ≠ .absent → (s.scrub x).state ≠ .withdrawn →
      s.turnsAway (.readmit f) .dispatch 3 f.tag .notPermitted)
    ∧ (∀ x : ScrubIx, f.a.toNat = x.val + 1 → (s.scrub x).state ≠ .absent →
      (s.scrub x).state ≠ .heard ∨ (s.scrub x).mark = false ∨ (s.scrub x).flags.stopped = false →
      s.turnsAway (.clearViolation f) .dispatch 4 f.tag .notPermitted)
    ∧ (∀ g : SegIx, f.a.toNat = g.val + 1 → f.a.toNat ≤ s.n → (s.seg g).closure.operations = true →
      s.turnsAway (.reopenSegment .dispatch f) .dispatch 6 f.tag .notPermitted)
    ∧ ∀ (z : ZoneIx) (i : Issuer), f.a.toNat = z.val + 1 → f.a.toNat ≤ s.z →
      (s.zone z).state = .unseeded ∨ (s.zone z).state = .stale →
      s.turnsAway (.reseedZone i f) i 9 f.tag .notPermitted

/-- O48. ACK_RESTART in RECOVERY is remembered and DONE, and the entry to SERVICE is judged at its end: where
ACK_RESTART is not remembered, the mode is not RECOVERY, or the fleet's conditions do not hold, nothing happens; where
all hold, the mode becomes SERVICE, every segment whose resolved class has restart-wet is wet with its full drying
time, SERVICE_ENTERED carries the cause, and STOPALL is released when no shorten-overdue mark stands (R124, R134,
R176, R177). -/
def Obligations.AckRestartAndServiceEntry : Prop :=
  (∀ (s : State) (f : CmdFields), s.mode = .recovery →
    exec (.ackRestart f) s
      = .next (State.tookCommand .dispatch 1 f.tag ({ s with ackRestart := true } : State).judgeService))
  ∧ (∀ s : State, s.mode ≠ .recovery ∨ s.ackRestart = false ∨ ¬ fleetReady s → s.judgeService = s)
  ∧ ∀ s : State, s.mode = .recovery → s.ackRestart = true → fleetReady s →
    ∃ t, s.judgeService = t
      ∧ t = { s with
          mode := .service, segs := t.segs, drying := t.drying, staging := t.staging, dspFlags := t.dspFlags,
          dirty := t.dirty }
      ∧ (∀ g, t.seg g = if g.val < s.n ∧ (s.floorClass (s.resolvedClass g)).restartWet = true then
          { s.seg g with wet := some { expiry := s.dryAt g, count := 0 } } else s.seg g)
      ∧ (∀ d, d ∈ t.drying ↔ d ∈ s.drying ∨ ∃ g : SegIx, g.val < s.n
          ∧ (s.floorClass (s.resolvedClass g)).restartWet = true ∧ d = s.newEntry g)
      ∧ s.notices t [(.serviceEntered, [pack4 s.cause.code 0 0 0])] []
      ∧ (t.stopAll = true ↔ ∃ k, (s.slot k).overdue = true)

/-- O49. WITHDRAW: the scrubber's live slot ends with WITHDRAWN, giving back what it holds; the scrubber leaves every
segment it occupies, and occupies the segment it is parked on; a fleet slot that holds that segment ahead is shortened
to before it; the record is WITHDRAWN with its mark cleared; then the queue is re-evaluated and the entry to SERVICE
judged. Each segment given back is wet, and in the drying list, when it was carried wet or the table of R101 says so,
and otherwise as it was; the drying list keeps its entries and takes no other (R41, R44, R101, R107, R108, R176). -/
def Obligations.Withdraw : Prop :=
  ∀ (s : State) (f : CmdFields) (x : ScrubIx), s.mode = .recovery ∨ s.mode = .service → f.a.toNat = x.val + 1 →
    (s.scrub x).state ≠ .absent → f.b.toNat ≤ s.n →
    (∀ g : SegIx, f.b.toNat = g.val + 1 → (s.seg g).occupant = none ∨ (s.seg g).occupant = some x) →
    (∀ j, (s.scrub x).liveSlot = some j → (s.slot (fleetSlot j)).scrubber = some x) →
    ∃ u, exec (.withdraw f) s = .next (State.tookCommand .dispatch 2 f.tag u.settle.judgeService)
      ∧ u.outside = s.outside ∧ u.zones = s.zones ∧ u.cells = s.cells ∧ u.opsFlags = s.opsFlags
      ∧ s.onlyScrub u x { s.scrub x with
          state := .withdrawn, mark := false, current := none, trailing := none, timer := none, liveSlot := none,
          parked := ixOf 255 f.b.toNat }
      ∧ (∀ h : SegIx, h.val < s.n → (u.seg h).occupant =
          if f.b.toNat = h.val + 1 then some x
          else if (s.seg h).occupant = some x then none else (s.seg h).occupant)
      ∧ (∀ h, (s.seg h).sameClosure (u.seg h))
      ∧ (∀ j, (s.scrub x).liveSlot = some j →
          u.slot (fleetSlot j) = { (s.slot (fleetSlot j)).returned .withdrawn 0
              ((s.slot (fleetSlot j)).changed || (s.slot (fleetSlot j)).state.authority) with
            overdue := (s.slot (fleetSlot j)).overdue && !(s.slot (fleetSlot j)).state.authority }
          ∧ ((s.slot (fleetSlot j)).state.authority = true → u.queue = s.queue
              ∧ (∀ g ∈ (s.slot (fleetSlot j)).route, (u.seg g).holder ≠ some (fleetSlot j))
              ∧ ∀ g i, (s.slot (fleetSlot j)).route.Nodup → (g, i) ∈ (s.slot (fleetSlot j)).entries →
                (s.seg g).holder = some (fleetSlot j) →
                s.releasedAs g (wetChosen (fleetSlot j) (s.slot (fleetSlot j)) i) (u.seg g)
                  ∧ ((s.seg g).carried = true ∨ wetChosen (fleetSlot j) (s.slot (fleetSlot j)) i →
                    s.newEntry g ∈ u.drying))
          ∧ ((s.slot (fleetSlot j)).state = .waiting → u.queue = s.queue.filter (fun h => h != fleetSlot j)))
      ∧ ((s.scrub x).liveSlot = none → u.queue = s.queue)
      ∧ (∀ d ∈ s.drying, d ∈ u.drying)
      ∧ (∀ d ∈ u.drying, d ∈ s.drying ∨ d = s.newEntry d.seg ∧ ∃ k i, (s.seg d.seg).holder = some k
          ∧ (d.seg, i) ∈ (s.slot k).entries ∧ ((s.seg d.seg).carried = true ∨ wetChosen k (s.slot k) i))
      ∧ (∀ h : SegIx, (∀ k, (s.seg h).holder = some k → (∀ j, (s.scrub x).liveSlot = some j → fleetSlot j ≠ k)
            ∧ ∀ g : SegIx, f.b.toNat = g.val + 1 → (s.seg g).holder ≠ some k) →
          u.seg h = { s.seg h with occupant := (u.seg h).occupant })
      ∧ (∀ k i g, f.b.toNat = g.val + 1 → (∀ j, (s.scrub x).liveSlot = some j → fleetSlot j ≠ k) →
          holdsAhead s k g i → s.cut u k (i - 1))
      ∧ (∀ k : SlotIx, (∀ j, (s.scrub x).liveSlot = some j → fleetSlot j ≠ k) →
          (∀ g : SegIx, f.b.toNat = g.val + 1 → (s.seg g).holder ≠ some k) → u.slot k = s.slot k)
      ∧ (∃ l, s.notices u ((match (s.scrub x).liveSlot with
            | none => []
            | some j => [(.ended, [pack4 (j.val + 1) Result.withdrawn.code
                (s.slot (fleetSlot j)).revision.toNat 0])]) ++ l) [] ∧ ∀ p ∈ l, p.1 = .shortened)
      ∧ MirrorRec.scrubView x ∈ u.dirty

/-- O50. READMIT makes a WITHDRAWN scrubber UNHEARD and changes nothing else; CLEAR_VIOLATION lifts the mark of a
HEARD scrubber whose latest flags show it stopped, changes nothing else, and the entry to SERVICE is judged (R109,
R110, R176). -/
def Obligations.ReadmitAndClearViolation : Prop :=
  ∀ (s : State) (f : CmdFields) (x : ScrubIx), s.mode = .recovery ∨ s.mode = .service → f.a.toNat = x.val + 1 →
    ((s.scrub x).state = .withdrawn →
      ∃ u, exec (.readmit f) s = .next (State.tookCommand .dispatch 3 f.tag u)
        ∧ u = { s with scrubbers := u.scrubbers, dirty := u.dirty }
        ∧ s.onlyScrub u x { s.scrub x with state := .unheard } ∧ s.marks u [.scrubView x])
    ∧ ((s.scrub x).state = .heard → (s.scrub x).mark = true → (s.scrub x).flags.stopped = true →
      ∃ u, exec (.clearViolation f) s = .next (State.tookCommand .dispatch 4 f.tag u.judgeService)
        ∧ u = { s with scrubbers := u.scrubbers, dirty := u.dirty }
        ∧ s.onlyScrub u x { s.scrub x with mark := false } ∧ s.marks u [.scrubView x])

/-- O51. CLOSE_SEGMENT whose origin is present is DONE and changes nothing else; one whose origin is absent adds it,
shortens the fleet slot that holds the segment ahead to before it and the live slot of a scrubber that occupies it to
its progress index, and sends CLOSED. REOPEN_SEGMENT empties the set of a segment that the issuer may reopen and sends
REOPENED, or is DONE and changes nothing else when the set is empty (R149, R150, R152). That REOPENED shows the
origins that were present and went is log 16. -/
def Obligations.SegmentClosures : Prop :=
  ∀ (s : State) (i : Issuer) (f : CmdFields) (g : SegIx), s.mode = .recovery ∨ s.mode = .service →
    f.a.toNat = g.val + 1 → f.a.toNat ≤ s.n →
    ((s.seg g).closure.hasIssuer i = true →
      exec (.closeSegment i f) s = .next (State.tookCommand i 5 f.tag s))
    ∧ ((s.seg g).closure.hasIssuer i = false →
      ∃ u, exec (.closeSegment i f) s = .next (State.tookCommand i 5 f.tag u.settle)
        ∧ u.outside = s.outside ∧ u.zones = s.zones ∧ u.cells = s.cells ∧ u.opsFlags = s.opsFlags
        ∧ u.scrubbers = s.scrubbers ∧ u.queue = s.queue
        ∧ (∀ h, (u.seg h).occupant = (s.seg h).occupant ∧ (u.seg h).claims = (s.seg h).claims
            ∧ (u.seg h).closure = if h = g then
                { operations := (s.seg h).closure.operations || i == .operations,
                  dispatch := (s.seg h).closure.dispatch || i == .dispatch, drying := (s.seg h).closure.drying }
              else (s.seg h).closure)
        ∧ (∀ k e, holdsAhead s k g e → (∀ j, liveOn s g j → fleetSlot j ≠ k) → s.cut u k (e - 1))
        ∧ (∀ j, liveOn s g j → (s.slot (fleetSlot j)).state.authority = true →
            (s.slot (fleetSlot j)).progress ≤ (s.slot (fleetSlot j)).endIx →
            (u.slot (fleetSlot j)).endIx = (s.slot (fleetSlot j)).progress)
        ∧ (∀ j, liveOn s g j → (s.slot (fleetSlot j)).state.authority = true →
            (s.slot (fleetSlot j)).progress < (s.slot (fleetSlot j)).endIx →
            (s.seg g).holder ≠ some (fleetSlot j) →
            s.cut u (fleetSlot j) (s.slot (fleetSlot j)).progress)
        ∧ (∀ k, (s.seg g).holder ≠ some k → (∀ j, liveOn s g j → fleetSlot j ≠ k) → u.slot k = s.slot k)
        ∧ (∃ l, s.notices u (l ++ [(.closed, [pack4 (g.val + 1)
              (match i with | .operations => 1 | .dispatch => 2) (u.seg g).closure.code 0])]) []
            ∧ ∀ p ∈ l, p.1 = .shortened)
        ∧ segRecord g ∈ u.dirty)
    ∧ ((s.seg g).closure = {} → exec (.reopenSegment i f) s = .next (State.tookCommand i 6 f.tag s))
    ∧ ((s.seg g).closure ≠ {} → (i = .dispatch → (s.seg g).closure.operations = false) →
      ∃ u, exec (.reopenSegment i f) s = .next (State.tookCommand i 6 f.tag u.settle)
        ∧ u = { s with
            segs := u.segs, staging := u.staging, dspFlags := u.dspFlags, dirty := u.dirty, freeing := true }
        ∧ s.onlySeg u g { s.seg g with closure := {} }
        ∧ s.notices u [(.reopened, [pack4 (g.val + 1) (s.seg g).closure.code 0 0])] []
        ∧ s.marks u [segRecord g])

/-- O52. CLOSE_ZONE adds OPERATIONS to every segment of the zone, cuts every fleet authority to before each of them
that it holds ahead, and sends one CLOSED notice with the count; REOPEN_ZONE empties every closure set of the zone and
sends one REOPENED notice with the count; RESEED_ZONE of a seeded zone reseeds it. Which origins the second byte of
the zone notices shows is left open by log 15: b shows the origins asked for, or those that the zone's sets gained or
lost (R145, R149, R153, R179). -/
def Obligations.ZoneClosuresAndReseed : Prop :=
  ∀ (s : State) (f : CmdFields) (z : ZoneIx), s.mode = .recovery ∨ s.mode = .service → f.a.toNat = z.val + 1 →
    f.a.toNat ≤ s.z →
    (∃ u b, exec (.closeZone f) s = .next (State.tookCommand .operations 7 f.tag u.settle)
      ∧ u.outside = s.outside ∧ u.zones = s.zones ∧ u.cells = s.cells ∧ u.opsFlags = s.opsFlags
      ∧ u.scrubbers = s.scrubbers ∧ u.queue = s.queue
      ∧ (∀ h, (u.seg h).occupant = (s.seg h).occupant ∧ (u.seg h).claims = (s.seg h).claims
          ∧ (u.seg h).closure = if h.val < s.n ∧ (s.fixed h).zone = some z then
              { (s.seg h).closure with operations := true } else (s.seg h).closure)
      ∧ (∀ g k e, (s.fixed g).zone = some z → g.val < s.n → (s.seg g).closure.operations = false →
          holdsAhead s k g e → (u.slot k).endIx < e ∧ (s.slot k).progress ≤ (u.slot k).endIx)
      ∧ (∀ g j, (s.fixed g).zone = some z → g.val < s.n → (s.seg g).closure.operations = false → liveOn s g j →
          (s.slot (fleetSlot j)).state.authority = true →
          (s.slot (fleetSlot j)).progress ≤ (s.slot (fleetSlot j)).endIx →
          (u.slot (fleetSlot j)).endIx = (s.slot (fleetSlot j)).progress)
      ∧ (∀ k, (∀ g, (s.fixed g).zone = some z → g.val < s.n → (s.seg g).closure.operations = false →
          (s.seg g).holder ≠ some k ∧ ∀ j, liveOn s g j → fleetSlot j ≠ k) → u.slot k = s.slot k)
      ∧ (∃ l, s.notices u (l ++ [(.closed, [pack4 (z.val + 1) b (zoneOpenCount s z) 0])]) []
          ∧ ∀ p ∈ l, p.1 = .shortened)
      ∧ (b = 129 ∨ b = 128 ∧ zoneOpenCount s z = 0))
    ∧ (∃ u b, exec (.reopenZone f) s = .next (State.tookCommand .operations 8 f.tag u.settle)
      ∧ u = { s with
          segs := u.segs, staging := u.staging, dspFlags := u.dspFlags, dirty := u.dirty,
          freeing := decide (zoneShutCount s z ≠ 0) }
      ∧ (∀ h, u.seg h = if h.val < s.n ∧ (s.fixed h).zone = some z then { s.seg h with closure := {} } else s.seg h)
      ∧ s.notices u [(.reopened, [pack4 (z.val + 1) b (zoneShutCount s z) 0])] []
      ∧ (b = 135 ∨ b = 128 + zoneOrigins s z))
    ∧ (∀ i, seededState (s.zone z).state →
      ∃ u, exec (.reseedZone i f) s = .next (State.tookCommand i 9 f.tag u.settle) ∧ s.reseeded u z)

/-- O53. RESET_NOTICES sets both indices to 0, returns a held notice to the front of the staging queue and stages
NOTICES_RESET at the back; a grant that lasts runs on, but what it writes is not published. RELOAD_SITE in NO_SITE, or
in SERVICE with every slot IDLE, is a restart with cause RELOAD: what a restart leaves, memory as it stood but for
what the port's grant had written (R160, R171, R172; log 5, log 11, log 13). The level of the reset line outlasts it
(log 24). -/
def Obligations.ResetNoticesAndReload : Prop :=
  (∀ (s : State) (f : CmdFields), s.mode = .recovery ∨ s.mode = .service →
    ∃ v u : State, v = { s with
        writeIx := 0, readIx := 0, held := none, staging := s.held.toList ++ s.staging,
        noticeGrant := s.noticeGrant.map (fun g => { g with publish := false }) }
      ∧ exec (.resetNotices f) s = .next (State.tookCommand .dispatch 10 f.tag u)
      ∧ u = { v with staging := u.staging, dspFlags := u.dspFlags, dirty := u.dirty }
      ∧ v.notices u [(.noticesReset, [])] [] ∧ v.marks u [.control .writeIx, .control .readIx])
  ∧ ∀ (s : State) (f : CmdFields) (c : PortCut),
    s.mode = .noSite ∨ s.mode = .service ∧ (∀ k, (s.slot k).state = .idle) →
    ∃ t, exec (.reloadSite f c) s = .next t
      ∧ t = { State.reset with
          pending := s.pending, mem := t.mem, badParity := t.badParity, lineHeld := s.lineHeld, cause := .reload,
          staging := [{ kind := .restart, clock := 0, payload := [3] }], answer := some tookOne }
      ∧ t.mem = (s.writeWords (s.cutWords { access := none, port := c })).mem ∧ t.stopAll = true
      ∧ (c = .free → t.mem = s.mem ∧ t.badParity = s.badParity)

/-- O54. TUNING_WRITE stores a value in range, and 0 for any other; the notice threshold is judged at once. The mask
writes store the places that stand for flags or fleet slots. CLEAR_WRITE clears the flags asked for but the latched
ones whose condition holds, and ACCESS_REFUSED empties the capture. NOTICE_READ_INDEX_WRITE takes an acceptable index
and is refused otherwise (R22, R23, R84, R162, R163, R164, R165, R170; log 20). -/
def Obligations.ControlWrites : Prop :=
  ∀ (s : State) (v : Word), s.mode = .recovery ∨ s.mode = .service →
    (∀ i : Fin 8, ∃ t, exec (.tuningWrite i v) s = .next t
      ∧ t = { s with answer := some tookOne, tuning := t.tuning, dspFlags := t.dspFlags, dirty := t.dirty }
      ∧ (∀ j : Fin 8, j ≠ i → t.tuning[j.val] = s.tuning[j.val])
      ∧ (tuningInRange i v → t.tuning[i.val] = v) ∧ (¬ tuningInRange i v → t.tuning[i.val] = 0)
      ∧ (∀ g, t.dsp g = (s.dsp g || decide (g = .noticeThreshold ∧ i = 6
          ∧ (if t.tuning[6] = 0 then 768 else (t.tuning[6]).toNat) ≤ (s.writeIx - s.readIx).toNat)))
      ∧ s.marks t [.control (.tuning i)])
    ∧ (∃ t, exec (.attentionMaskWrite .dispatch v) s = .next t
      ∧ t = { s with answer := some tookOne, dspMask := v.extractLsb' 0 16, dirty := t.dirty }
      ∧ s.marks t [.control .dspMask])
    ∧ (∃ t, exec (.attentionMaskWrite .operations v) s = .next t
      ∧ t = { s with answer := some tookOne, opsMask := v.extractLsb' 0 5, dirty := t.dirty }
      ∧ s.marks t [.control .opsMask])
    ∧ (∃ t, exec (.gatewayAttentionMaskWrite v) s = .next t
      ∧ t = { s with answer := some tookOne, gwyMask := v.extractLsb' 0 20, dirty := t.dirty }
      ∧ s.marks t [.control .gwyMask])
    ∧ (∃ t, exec (.clearWrite .dispatch v) s = .next t
      ∧ t = { s with answer := some tookOne, dspFlags := t.dspFlags, capture := t.capture, dirty := t.dirty }
      ∧ (∀ g, t.dsp g = true ↔ s.dsp g = true ∧ (v.getLsbD g.place = true → latchedHolds s g))
      ∧ t.capture = (if v.getLsbD 12 then none else s.capture)
      ∧ s.marks t (if v.getLsbD 12 then [.control .refused] else []))
    ∧ (∃ t, exec (.clearWrite .operations v) s = .next t
      ∧ t = { s with answer := some tookOne, opsFlags := t.opsFlags, dirty := t.dirty }
      ∧ (∀ g, t.ops g = true ↔ s.ops g = true ∧ v.getLsbD g.place = false) ∧ s.marks t [])
    ∧ (v.toNat ≤ 1023 ∧ (v.setWidth 10 - s.readIx).toNat ≤ (s.writeIx - s.readIx).toNat →
      ∃ t, exec (.noticeReadIndexWrite v) s = .next t
        ∧ t = { s with answer := some tookOne, readIx := v.extractLsb' 0 10, dirty := t.dirty }
        ∧ s.marks t [.control .readIx])
    ∧ (¬ (v.toNat ≤ 1023 ∧ (v.setWidth 10 - s.readIx).toNat ≤ (s.writeIx - s.readIx).toNat) →
      ∃ t, exec (.noticeReadIndexWrite v) s = .next t ∧ t.answer = some .refused ∧ t.readIx = s.readIx)

/-! ### The writers and the laws of the part -/

/-- O55. NOTICE_ADMISSION takes the front staged notice, holds it when it fits the free space, its grant beginning
when its turn at the port has come, or drops it with NOTICE_LOST. NOTICE_PUBLISH ends the notice writer's grant: the
words stand from its first offset onward, counting round, and the notice is published unless a reset has come between.
MIRROR_RECORD_WRITE, when the port is free and the mirror writer's turn has come, takes the record that R35 chooses,
clears its mark and writes its words as its owner has them. In LOADING, and with nothing to do, they change nothing
(R33, R35, R37, R168, R169, R171; log 8, log 10, log 30; the place of the acted-word copies in the scan is log 34).
arbitrate is O16's. -/
def Obligations.Writers : Prop :=
  (∀ s : State,
    (s.mode = .loading ∨ s.held ≠ none ∨ s.staging = [] → exec .noticeAdmission s = .next s)
    ∧ ∀ n rest, s.mode ≠ .loading → s.held = none → s.staging = n :: rest →
      (n.payload.length + 2 + (s.writeIx - s.readIx).toNat ≤ 1023 →
        exec .noticeAdmission s = .next ({ s with staging := rest, held := some n } : State).arbitrate)
      ∧ (1023 < n.payload.length + 2 + (s.writeIx - s.readIx).toNat →
        ∃ t, exec .noticeAdmission s = .next t
          ∧ t = { s with staging := rest, dspFlags := t.dspFlags, dirty := t.dirty }
          ∧ (∀ f, t.dsp f = (s.dsp f || decide (f = .noticeLost))) ∧ s.marks t []))
  ∧ (∀ s : State, s.memoryLaw → (s.noticeGrant = none → exec .noticePublish s = .next s)
    ∧ ∀ g, s.noticeGrant = some g → g.notice.payload.length + 2 ≤ 1023 →
      ∃ t, exec .noticePublish s = .next t.arbitrate ∧ t = s.endGrant
        ∧ (∀ j w, g.notice.words[j]? = some w → t.readWord (ringAddr (g.start + BitVec.ofNat 10 j)) = w
            ∧ t.wordBad (ringAddr (g.start + BitVec.ofNat 10 j)) = false)
        ∧ (∀ a, (∀ j, j < g.notice.payload.length + 2 → a ≠ ringAddr (g.start + BitVec.ofNat 10 j)) →
            t.readWord a = s.readWord a ∧ t.wordBad a = s.wordBad a)
        ∧ (g.publish = false → t = { s with noticeGrant := none, mem := t.mem, badParity := t.badParity })
        ∧ (∀ n, g.publish = true → s.held = some n →
            t = { s with
              noticeGrant := none, mem := t.mem, badParity := t.badParity, held := none,
              writeIx := s.writeIx + BitVec.ofNat 10 (n.payload.length + 2), dspFlags := t.dspFlags, dirty := t.dirty }
            ∧ (∀ f, t.dsp f = (s.dsp f || decide (f = .noticesPending)
                || decide (f = .noticeThreshold
                  ∧ (if s.tuning[6] = 0 then 768 else (s.tuning[6]).toNat) ≤ (t.writeIx - s.readIx).toNat)))
            ∧ s.marks t [.control .writeIx]))
  ∧ ∀ s : State, s.memoryLaw → s.marksLaw →
    (¬ mirrorAsks s ∨ s.noticeGrant ≠ none ∨ s.held ≠ none ∧ s.lastServed = .mirror →
      exec .mirrorRecordWrite s = .next s)
    ∧ ∀ r, s.mode ≠ .loading → s.noticeGrant = none → s.held = none ∨ s.lastServed ≠ .mirror → recordChosen s r →
      ∃ t, exec .mirrorRecordWrite s = .next t.arbitrate ∧ t = s.mirrorGrant
        ∧ t = { s with
            dirty := s.dirty.erase r, promo := s.promo.erase r, lastWritten := r.addr, mem := t.mem,
            badParity := t.badParity, lastServed := .mirror }
        ∧ r ∉ t.dirty ∧ (∀ q, q ≠ r → (q ∈ t.dirty ↔ q ∈ s.dirty))
        ∧ (∀ p ∈ s.recordWords r, t.readWord p.1 = p.2 ∧ t.wordBad p.1 = false)
        ∧ ∀ a, (∀ p ∈ s.recordWords r, p.1 ≠ a) → t.readWord a = s.readWord a ∧ t.wordBad a = s.wordBad a

/-- O56. Every step keeps the canonical form of memory, the bound of the staging queue, the order of the dirty marks,
the bounds of routes, the kept header and a sound site model (R1, R13, R35, R60, R168). -/
def Obligations.StructuralLawsAreKept : Prop :=
  ∀ s t : State, step s = .next t →
    (s.memoryLaw → t.memoryLaw) ∧ (s.stagingLaw → t.stagingLaw) ∧ (s.marksLaw → t.marksLaw)
      ∧ (s.routeLaw → t.routeLaw) ∧ (s.loadLaw → t.loadLaw) ∧ (s.loadLaw → s.siteLaw → t.siteLaw)

/-- O57. The laws of the slots: outside SERVICE every slot is IDLE and STOPALL is asserted; no two live fleet slots
name one scrubber; the waiting queue holds the WAITING slots, passenger slots first; a step never lengthens an
authority, and shortens it under another revision (R59, R61, R69, R73, R124). -/
def Obligations.SlotLawsAreKept : Prop :=
  (∀ s : State, s.mode ≠ .service → s.stopAll = true)
    ∧ ∀ s t : State, step s = .next t →
      (s.idleLaw → t.idleLaw) ∧ (s.oneSlotLaw → t.oneSlotLaw) ∧ (s.queueLaw → t.queueLaw)
        ∧ (s.routeLaw → ∀ k, (s.slot k).onlyShrinks (t.slot k))

/-- O58. Every step keeps routes without repetition, the live slot of a scrubber a live fleet slot that names it, and
the progress and end indices of an authority in their order within its route (R61, R62, R65, R66, R74, R91, R98,
R112). -/
def Obligations.SlotRecordsStaySound : Prop :=
  ∀ s t : State, step s = .next t →
    (s.distinctLaw → t.distinctLaw) ∧ (s.liveSlotLaw → t.liveSlotLaw) ∧ (s.siteLaw → s.spanLaw → t.spanLaw)

/-- O19. Every step keeps the law of held floor (what a fleet slot holds, and that a segment is release-pending
exactly when its holder's pending-release set has it), the law of the pinch table, and the law of the memory port.
Premises are laws that O56 to O59 state (R33, R38, R41, R42, R47, R48, R49, R99, R113, R114, R115, R116, R169, R171;
what counts in a pinch group is log 35). -/
def Obligations.HoldingLawsAreKept : Prop :=
  (∀ s t : State, step s = .next t → s.portLaw → t.portLaw)
    ∧ ∀ s t : State, step s = .next t → s.siteLaw → s.routeLaw → s.distinctLaw → s.spanLaw → s.idleLaw → s.oneSlotLaw →
      s.queueLaw → s.liveSlotLaw → s.dryingLaw → s.holdingLaw →
      t.holdingLaw ∧ (s.pinchLaw → t.pinchLaw)

/-- O59. Every step keeps the law of the drying list: a segment is wet exactly when it stands in the list, once, in
order of expiry; held floor is not wet; outside SERVICE nothing is wet or held (R38, R40, R44, R126, R134). That the
order takes expiries as plain numbers on both sides of the clock's wrap is log 21. -/
def Obligations.DryingLawIsKept : Prop :=
  ∀ s t : State, s.idleLaw → s.dryingLaw → step s = .next t → t.dryingLaw

/-- O60. Every step keeps plan memory in agreement with the part: a clean mirror record reads as its owner has it, a
route value that a draft holds reads as written, and a live slot's route reads as captured (R34, R35, R37, R58, R60).
-/
def Obligations.PlanMemoryAgrees : Prop :=
  ∀ s t : State, s.memoryLaw → step s = .next t →
    (s.mirrorLaw → t.mirrorLaw) ∧ (s.siteLaw → s.routeLaw → s.draftLaw → t.draftLaw)
end

