-- ==== Sys2Proof/Laws/State.lean ====
section
/-! SUPPORT. What each update of State leaves alone: one lemma for each field and update, true by definition. -/
namespace Sys2Proof.Machine
open Sys2Proof

@[simp] theorem markDirty_pending (s : State) (r : MirrorRec) : (s.markDirty r).pending = s.pending := rfl
@[simp] theorem markDirty_mem (s : State) (r : MirrorRec) : (s.markDirty r).mem = s.mem := rfl
@[simp] theorem markDirty_badParity (s : State) (r : MirrorRec) : (s.markDirty r).badParity = s.badParity := rfl
@[simp] theorem markDirty_answer (s : State) (r : MirrorRec) : (s.markDirty r).answer = s.answer := rfl
@[simp] theorem markDirty_capture (s : State) (r : MirrorRec) : (s.markDirty r).capture = s.capture := rfl
@[simp] theorem markDirty_lastServed (s : State) (r : MirrorRec) : (s.markDirty r).lastServed = s.lastServed := rfl
@[simp] theorem markDirty_noticeGrant (s : State) (r : MirrorRec) : (s.markDirty r).noticeGrant = s.noticeGrant := rfl
@[simp] theorem markDirty_promo (s : State) (r : MirrorRec) : (s.markDirty r).promo = s.promo := rfl
@[simp] theorem markDirty_lastWritten (s : State) (r : MirrorRec) : (s.markDirty r).lastWritten = s.lastWritten := rfl
@[simp] theorem markDirty_mode (s : State) (r : MirrorRec) : (s.markDirty r).mode = s.mode := rfl
@[simp] theorem markDirty_cause (s : State) (r : MirrorRec) : (s.markDirty r).cause = s.cause := rfl
@[simp] theorem markDirty_siteFault (s : State) (r : MirrorRec) : (s.markDirty r).siteFault = s.siteFault := rfl
@[simp] theorem markDirty_lineHeld (s : State) (r : MirrorRec) : (s.markDirty r).lineHeld = s.lineHeld := rfl
@[simp] theorem markDirty_load (s : State) (r : MirrorRec) : (s.markDirty r).load = s.load := rfl
@[simp] theorem markDirty_ackRestart (s : State) (r : MirrorRec) : (s.markDirty r).ackRestart = s.ackRestart := rfl
@[simp] theorem markDirty_site (s : State) (r : MirrorRec) : (s.markDirty r).site = s.site := rfl
@[simp] theorem markDirty_clock (s : State) (r : MirrorRec) : (s.markDirty r).clock = s.clock := rfl
@[simp] theorem markDirty_segs (s : State) (r : MirrorRec) : (s.markDirty r).segs = s.segs := rfl
@[simp] theorem markDirty_pinch (s : State) (r : MirrorRec) : (s.markDirty r).pinch = s.pinch := rfl
@[simp] theorem markDirty_slots (s : State) (r : MirrorRec) : (s.markDirty r).slots = s.slots := rfl
@[simp] theorem markDirty_queue (s : State) (r : MirrorRec) : (s.markDirty r).queue = s.queue := rfl
@[simp] theorem markDirty_freeing (s : State) (r : MirrorRec) : (s.markDirty r).freeing = s.freeing := rfl
@[simp] theorem markDirty_cells (s : State) (r : MirrorRec) : (s.markDirty r).cells = s.cells := rfl
@[simp] theorem markDirty_scrubbers (s : State) (r : MirrorRec) : (s.markDirty r).scrubbers = s.scrubbers := rfl
@[simp] theorem markDirty_drying (s : State) (r : MirrorRec) : (s.markDirty r).drying = s.drying := rfl
@[simp] theorem markDirty_zones (s : State) (r : MirrorRec) : (s.markDirty r).zones = s.zones := rfl
@[simp] theorem markDirty_dspFlags (s : State) (r : MirrorRec) : (s.markDirty r).dspFlags = s.dspFlags := rfl
@[simp] theorem markDirty_opsFlags (s : State) (r : MirrorRec) : (s.markDirty r).opsFlags = s.opsFlags := rfl
@[simp] theorem markDirty_dspMask (s : State) (r : MirrorRec) : (s.markDirty r).dspMask = s.dspMask := rfl
@[simp] theorem markDirty_opsMask (s : State) (r : MirrorRec) : (s.markDirty r).opsMask = s.opsMask := rfl
@[simp] theorem markDirty_gwyMask (s : State) (r : MirrorRec) : (s.markDirty r).gwyMask = s.gwyMask := rfl
@[simp] theorem markDirty_dspResult (s : State) (r : MirrorRec) : (s.markDirty r).dspResult = s.dspResult := rfl
@[simp] theorem markDirty_opsResult (s : State) (r : MirrorRec) : (s.markDirty r).opsResult = s.opsResult := rfl
@[simp] theorem markDirty_tuning (s : State) (r : MirrorRec) : (s.markDirty r).tuning = s.tuning := rfl
@[simp] theorem markDirty_staging (s : State) (r : MirrorRec) : (s.markDirty r).staging = s.staging := rfl
@[simp] theorem markDirty_held (s : State) (r : MirrorRec) : (s.markDirty r).held = s.held := rfl
@[simp] theorem markDirty_writeIx (s : State) (r : MirrorRec) : (s.markDirty r).writeIx = s.writeIx := rfl
@[simp] theorem markDirty_readIx (s : State) (r : MirrorRec) : (s.markDirty r).readIx = s.readIx := rfl

@[simp] theorem markIf_pending (s : State) (b : Bool) (r : MirrorRec) : (s.markIf b r).pending = s.pending := rfl
@[simp] theorem markIf_mem (s : State) (b : Bool) (r : MirrorRec) : (s.markIf b r).mem = s.mem := rfl
@[simp] theorem markIf_badParity (s : State) (b : Bool) (r : MirrorRec) : (s.markIf b r).badParity = s.badParity := rfl
@[simp] theorem markIf_answer (s : State) (b : Bool) (r : MirrorRec) : (s.markIf b r).answer = s.answer := rfl
@[simp] theorem markIf_capture (s : State) (b : Bool) (r : MirrorRec) : (s.markIf b r).capture = s.capture := rfl
@[simp] theorem markIf_lastServed (s : State) (b : Bool) (r : MirrorRec) : (s.markIf b r).lastServed = s.lastServed := rfl
@[simp] theorem markIf_noticeGrant (s : State) (b : Bool) (r : MirrorRec) : (s.markIf b r).noticeGrant = s.noticeGrant := rfl
@[simp] theorem markIf_promo (s : State) (b : Bool) (r : MirrorRec) : (s.markIf b r).promo = s.promo := rfl
@[simp] theorem markIf_lastWritten (s : State) (b : Bool) (r : MirrorRec) : (s.markIf b r).lastWritten = s.lastWritten := rfl
@[simp] theorem markIf_mode (s : State) (b : Bool) (r : MirrorRec) : (s.markIf b r).mode = s.mode := rfl
@[simp] theorem markIf_cause (s : State) (b : Bool) (r : MirrorRec) : (s.markIf b r).cause = s.cause := rfl
@[simp] theorem markIf_siteFault (s : State) (b : Bool) (r : MirrorRec) : (s.markIf b r).siteFault = s.siteFault := rfl
@[simp] theorem markIf_lineHeld (s : State) (b : Bool) (r : MirrorRec) : (s.markIf b r).lineHeld = s.lineHeld := rfl
@[simp] theorem markIf_load (s : State) (b : Bool) (r : MirrorRec) : (s.markIf b r).load = s.load := rfl
@[simp] theorem markIf_ackRestart (s : State) (b : Bool) (r : MirrorRec) : (s.markIf b r).ackRestart = s.ackRestart := rfl
@[simp] theorem markIf_site (s : State) (b : Bool) (r : MirrorRec) : (s.markIf b r).site = s.site := rfl
@[simp] theorem markIf_clock (s : State) (b : Bool) (r : MirrorRec) : (s.markIf b r).clock = s.clock := rfl
@[simp] theorem markIf_segs (s : State) (b : Bool) (r : MirrorRec) : (s.markIf b r).segs = s.segs := rfl
@[simp] theorem markIf_pinch (s : State) (b : Bool) (r : MirrorRec) : (s.markIf b r).pinch = s.pinch := rfl
@[simp] theorem markIf_slots (s : State) (b : Bool) (r : MirrorRec) : (s.markIf b r).slots = s.slots := rfl
@[simp] theorem markIf_queue (s : State) (b : Bool) (r : MirrorRec) : (s.markIf b r).queue = s.queue := rfl
@[simp] theorem markIf_freeing (s : State) (b : Bool) (r : MirrorRec) : (s.markIf b r).freeing = s.freeing := rfl
@[simp] theorem markIf_cells (s : State) (b : Bool) (r : MirrorRec) : (s.markIf b r).cells = s.cells := rfl
@[simp] theorem markIf_scrubbers (s : State) (b : Bool) (r : MirrorRec) : (s.markIf b r).scrubbers = s.scrubbers := rfl
@[simp] theorem markIf_drying (s : State) (b : Bool) (r : MirrorRec) : (s.markIf b r).drying = s.drying := rfl
@[simp] theorem markIf_zones (s : State) (b : Bool) (r : MirrorRec) : (s.markIf b r).zones = s.zones := rfl
@[simp] theorem markIf_dspFlags (s : State) (b : Bool) (r : MirrorRec) : (s.markIf b r).dspFlags = s.dspFlags := rfl
@[simp] theorem markIf_opsFlags (s : State) (b : Bool) (r : MirrorRec) : (s.markIf b r).opsFlags = s.opsFlags := rfl
@[simp] theorem markIf_dspMask (s : State) (b : Bool) (r : MirrorRec) : (s.markIf b r).dspMask = s.dspMask := rfl
@[simp] theorem markIf_opsMask (s : State) (b : Bool) (r : MirrorRec) : (s.markIf b r).opsMask = s.opsMask := rfl
@[simp] theorem markIf_gwyMask (s : State) (b : Bool) (r : MirrorRec) : (s.markIf b r).gwyMask = s.gwyMask := rfl
@[simp] theorem markIf_dspResult (s : State) (b : Bool) (r : MirrorRec) : (s.markIf b r).dspResult = s.dspResult := rfl
@[simp] theorem markIf_opsResult (s : State) (b : Bool) (r : MirrorRec) : (s.markIf b r).opsResult = s.opsResult := rfl
@[simp] theorem markIf_tuning (s : State) (b : Bool) (r : MirrorRec) : (s.markIf b r).tuning = s.tuning := rfl
@[simp] theorem markIf_staging (s : State) (b : Bool) (r : MirrorRec) : (s.markIf b r).staging = s.staging := rfl
@[simp] theorem markIf_held (s : State) (b : Bool) (r : MirrorRec) : (s.markIf b r).held = s.held := rfl
@[simp] theorem markIf_writeIx (s : State) (b : Bool) (r : MirrorRec) : (s.markIf b r).writeIx = s.writeIx := rfl
@[simp] theorem markIf_readIx (s : State) (b : Bool) (r : MirrorRec) : (s.markIf b r).readIx = s.readIx := rfl

@[simp] theorem setSeg_pending (s : State) (g : SegIx) (r : Seg) : (s.setSeg g r).pending = s.pending := rfl
@[simp] theorem setSeg_mem (s : State) (g : SegIx) (r : Seg) : (s.setSeg g r).mem = s.mem := rfl
@[simp] theorem setSeg_badParity (s : State) (g : SegIx) (r : Seg) : (s.setSeg g r).badParity = s.badParity := rfl
@[simp] theorem setSeg_answer (s : State) (g : SegIx) (r : Seg) : (s.setSeg g r).answer = s.answer := rfl
@[simp] theorem setSeg_capture (s : State) (g : SegIx) (r : Seg) : (s.setSeg g r).capture = s.capture := rfl
@[simp] theorem setSeg_lastServed (s : State) (g : SegIx) (r : Seg) : (s.setSeg g r).lastServed = s.lastServed := rfl
@[simp] theorem setSeg_noticeGrant (s : State) (g : SegIx) (r : Seg) : (s.setSeg g r).noticeGrant = s.noticeGrant := rfl
@[simp] theorem setSeg_promo (s : State) (g : SegIx) (r : Seg) : (s.setSeg g r).promo = s.promo := rfl
@[simp] theorem setSeg_lastWritten (s : State) (g : SegIx) (r : Seg) : (s.setSeg g r).lastWritten = s.lastWritten := rfl
@[simp] theorem setSeg_mode (s : State) (g : SegIx) (r : Seg) : (s.setSeg g r).mode = s.mode := rfl
@[simp] theorem setSeg_cause (s : State) (g : SegIx) (r : Seg) : (s.setSeg g r).cause = s.cause := rfl
@[simp] theorem setSeg_siteFault (s : State) (g : SegIx) (r : Seg) : (s.setSeg g r).siteFault = s.siteFault := rfl
@[simp] theorem setSeg_lineHeld (s : State) (g : SegIx) (r : Seg) : (s.setSeg g r).lineHeld = s.lineHeld := rfl
@[simp] theorem setSeg_load (s : State) (g : SegIx) (r : Seg) : (s.setSeg g r).load = s.load := rfl
@[simp] theorem setSeg_ackRestart (s : State) (g : SegIx) (r : Seg) : (s.setSeg g r).ackRestart = s.ackRestart := rfl
@[simp] theorem setSeg_site (s : State) (g : SegIx) (r : Seg) : (s.setSeg g r).site = s.site := rfl
@[simp] theorem setSeg_clock (s : State) (g : SegIx) (r : Seg) : (s.setSeg g r).clock = s.clock := rfl
@[simp] theorem setSeg_pinch (s : State) (g : SegIx) (r : Seg) : (s.setSeg g r).pinch = s.pinch := rfl
@[simp] theorem setSeg_slots (s : State) (g : SegIx) (r : Seg) : (s.setSeg g r).slots = s.slots := rfl
@[simp] theorem setSeg_queue (s : State) (g : SegIx) (r : Seg) : (s.setSeg g r).queue = s.queue := rfl
@[simp] theorem setSeg_freeing (s : State) (g : SegIx) (r : Seg) : (s.setSeg g r).freeing = s.freeing := rfl
@[simp] theorem setSeg_cells (s : State) (g : SegIx) (r : Seg) : (s.setSeg g r).cells = s.cells := rfl
@[simp] theorem setSeg_scrubbers (s : State) (g : SegIx) (r : Seg) : (s.setSeg g r).scrubbers = s.scrubbers := rfl
@[simp] theorem setSeg_drying (s : State) (g : SegIx) (r : Seg) : (s.setSeg g r).drying = s.drying := rfl
@[simp] theorem setSeg_zones (s : State) (g : SegIx) (r : Seg) : (s.setSeg g r).zones = s.zones := rfl
@[simp] theorem setSeg_dspFlags (s : State) (g : SegIx) (r : Seg) : (s.setSeg g r).dspFlags = s.dspFlags := rfl
@[simp] theorem setSeg_opsFlags (s : State) (g : SegIx) (r : Seg) : (s.setSeg g r).opsFlags = s.opsFlags := rfl
@[simp] theorem setSeg_dspMask (s : State) (g : SegIx) (r : Seg) : (s.setSeg g r).dspMask = s.dspMask := rfl
@[simp] theorem setSeg_opsMask (s : State) (g : SegIx) (r : Seg) : (s.setSeg g r).opsMask = s.opsMask := rfl
@[simp] theorem setSeg_gwyMask (s : State) (g : SegIx) (r : Seg) : (s.setSeg g r).gwyMask = s.gwyMask := rfl
@[simp] theorem setSeg_dspResult (s : State) (g : SegIx) (r : Seg) : (s.setSeg g r).dspResult = s.dspResult := rfl
@[simp] theorem setSeg_opsResult (s : State) (g : SegIx) (r : Seg) : (s.setSeg g r).opsResult = s.opsResult := rfl
@[simp] theorem setSeg_tuning (s : State) (g : SegIx) (r : Seg) : (s.setSeg g r).tuning = s.tuning := rfl
@[simp] theorem setSeg_staging (s : State) (g : SegIx) (r : Seg) : (s.setSeg g r).staging = s.staging := rfl
@[simp] theorem setSeg_held (s : State) (g : SegIx) (r : Seg) : (s.setSeg g r).held = s.held := rfl
@[simp] theorem setSeg_writeIx (s : State) (g : SegIx) (r : Seg) : (s.setSeg g r).writeIx = s.writeIx := rfl
@[simp] theorem setSeg_readIx (s : State) (g : SegIx) (r : Seg) : (s.setSeg g r).readIx = s.readIx := rfl

@[simp] theorem setSlot_pending (s : State) (k : SlotIx) (r : Slot) : (s.setSlot k r).pending = s.pending := rfl
@[simp] theorem setSlot_mem (s : State) (k : SlotIx) (r : Slot) : (s.setSlot k r).mem = s.mem := rfl
@[simp] theorem setSlot_badParity (s : State) (k : SlotIx) (r : Slot) : (s.setSlot k r).badParity = s.badParity := rfl
@[simp] theorem setSlot_answer (s : State) (k : SlotIx) (r : Slot) : (s.setSlot k r).answer = s.answer := rfl
@[simp] theorem setSlot_capture (s : State) (k : SlotIx) (r : Slot) : (s.setSlot k r).capture = s.capture := rfl
@[simp] theorem setSlot_lastServed (s : State) (k : SlotIx) (r : Slot) : (s.setSlot k r).lastServed = s.lastServed := rfl
@[simp] theorem setSlot_noticeGrant (s : State) (k : SlotIx) (r : Slot) : (s.setSlot k r).noticeGrant = s.noticeGrant := rfl
@[simp] theorem setSlot_promo (s : State) (k : SlotIx) (r : Slot) : (s.setSlot k r).promo = s.promo := rfl
@[simp] theorem setSlot_lastWritten (s : State) (k : SlotIx) (r : Slot) : (s.setSlot k r).lastWritten = s.lastWritten := rfl
@[simp] theorem setSlot_mode (s : State) (k : SlotIx) (r : Slot) : (s.setSlot k r).mode = s.mode := rfl
@[simp] theorem setSlot_cause (s : State) (k : SlotIx) (r : Slot) : (s.setSlot k r).cause = s.cause := rfl
@[simp] theorem setSlot_siteFault (s : State) (k : SlotIx) (r : Slot) : (s.setSlot k r).siteFault = s.siteFault := rfl
@[simp] theorem setSlot_lineHeld (s : State) (k : SlotIx) (r : Slot) : (s.setSlot k r).lineHeld = s.lineHeld := rfl
@[simp] theorem setSlot_load (s : State) (k : SlotIx) (r : Slot) : (s.setSlot k r).load = s.load := rfl
@[simp] theorem setSlot_ackRestart (s : State) (k : SlotIx) (r : Slot) : (s.setSlot k r).ackRestart = s.ackRestart := rfl
@[simp] theorem setSlot_site (s : State) (k : SlotIx) (r : Slot) : (s.setSlot k r).site = s.site := rfl
@[simp] theorem setSlot_clock (s : State) (k : SlotIx) (r : Slot) : (s.setSlot k r).clock = s.clock := rfl
@[simp] theorem setSlot_segs (s : State) (k : SlotIx) (r : Slot) : (s.setSlot k r).segs = s.segs := rfl
@[simp] theorem setSlot_pinch (s : State) (k : SlotIx) (r : Slot) : (s.setSlot k r).pinch = s.pinch := rfl
@[simp] theorem setSlot_queue (s : State) (k : SlotIx) (r : Slot) : (s.setSlot k r).queue = s.queue := rfl
@[simp] theorem setSlot_freeing (s : State) (k : SlotIx) (r : Slot) : (s.setSlot k r).freeing = s.freeing := rfl
@[simp] theorem setSlot_cells (s : State) (k : SlotIx) (r : Slot) : (s.setSlot k r).cells = s.cells := rfl
@[simp] theorem setSlot_scrubbers (s : State) (k : SlotIx) (r : Slot) : (s.setSlot k r).scrubbers = s.scrubbers := rfl
@[simp] theorem setSlot_drying (s : State) (k : SlotIx) (r : Slot) : (s.setSlot k r).drying = s.drying := rfl
@[simp] theorem setSlot_zones (s : State) (k : SlotIx) (r : Slot) : (s.setSlot k r).zones = s.zones := rfl
@[simp] theorem setSlot_dspFlags (s : State) (k : SlotIx) (r : Slot) : (s.setSlot k r).dspFlags = s.dspFlags := rfl
@[simp] theorem setSlot_opsFlags (s : State) (k : SlotIx) (r : Slot) : (s.setSlot k r).opsFlags = s.opsFlags := rfl
@[simp] theorem setSlot_dspMask (s : State) (k : SlotIx) (r : Slot) : (s.setSlot k r).dspMask = s.dspMask := rfl
@[simp] theorem setSlot_opsMask (s : State) (k : SlotIx) (r : Slot) : (s.setSlot k r).opsMask = s.opsMask := rfl
@[simp] theorem setSlot_gwyMask (s : State) (k : SlotIx) (r : Slot) : (s.setSlot k r).gwyMask = s.gwyMask := rfl
@[simp] theorem setSlot_dspResult (s : State) (k : SlotIx) (r : Slot) : (s.setSlot k r).dspResult = s.dspResult := rfl
@[simp] theorem setSlot_opsResult (s : State) (k : SlotIx) (r : Slot) : (s.setSlot k r).opsResult = s.opsResult := rfl
@[simp] theorem setSlot_tuning (s : State) (k : SlotIx) (r : Slot) : (s.setSlot k r).tuning = s.tuning := rfl
@[simp] theorem setSlot_staging (s : State) (k : SlotIx) (r : Slot) : (s.setSlot k r).staging = s.staging := rfl
@[simp] theorem setSlot_held (s : State) (k : SlotIx) (r : Slot) : (s.setSlot k r).held = s.held := rfl
@[simp] theorem setSlot_writeIx (s : State) (k : SlotIx) (r : Slot) : (s.setSlot k r).writeIx = s.writeIx := rfl
@[simp] theorem setSlot_readIx (s : State) (k : SlotIx) (r : Slot) : (s.setSlot k r).readIx = s.readIx := rfl

@[simp] theorem setScrub_pending (s : State) (x : ScrubIx) (r : Scrubber) : (s.setScrub x r).pending = s.pending := rfl
@[simp] theorem setScrub_mem (s : State) (x : ScrubIx) (r : Scrubber) : (s.setScrub x r).mem = s.mem := rfl
@[simp] theorem setScrub_badParity (s : State) (x : ScrubIx) (r : Scrubber) : (s.setScrub x r).badParity = s.badParity := rfl
@[simp] theorem setScrub_answer (s : State) (x : ScrubIx) (r : Scrubber) : (s.setScrub x r).answer = s.answer := rfl
@[simp] theorem setScrub_capture (s : State) (x : ScrubIx) (r : Scrubber) : (s.setScrub x r).capture = s.capture := rfl
@[simp] theorem setScrub_lastServed (s : State) (x : ScrubIx) (r : Scrubber) : (s.setScrub x r).lastServed = s.lastServed := rfl
@[simp] theorem setScrub_noticeGrant (s : State) (x : ScrubIx) (r : Scrubber) : (s.setScrub x r).noticeGrant = s.noticeGrant := rfl
@[simp] theorem setScrub_promo (s : State) (x : ScrubIx) (r : Scrubber) : (s.setScrub x r).promo = s.promo := rfl
@[simp] theorem setScrub_lastWritten (s : State) (x : ScrubIx) (r : Scrubber) : (s.setScrub x r).lastWritten = s.lastWritten := rfl
@[simp] theorem setScrub_mode (s : State) (x : ScrubIx) (r : Scrubber) : (s.setScrub x r).mode = s.mode := rfl
@[simp] theorem setScrub_cause (s : State) (x : ScrubIx) (r : Scrubber) : (s.setScrub x r).cause = s.cause := rfl
@[simp] theorem setScrub_siteFault (s : State) (x : ScrubIx) (r : Scrubber) : (s.setScrub x r).siteFault = s.siteFault := rfl
@[simp] theorem setScrub_lineHeld (s : State) (x : ScrubIx) (r : Scrubber) : (s.setScrub x r).lineHeld = s.lineHeld := rfl
@[simp] theorem setScrub_load (s : State) (x : ScrubIx) (r : Scrubber) : (s.setScrub x r).load = s.load := rfl
@[simp] theorem setScrub_ackRestart (s : State) (x : ScrubIx) (r : Scrubber) : (s.setScrub x r).ackRestart = s.ackRestart := rfl
@[simp] theorem setScrub_site (s : State) (x : ScrubIx) (r : Scrubber) : (s.setScrub x r).site = s.site := rfl
@[simp] theorem setScrub_clock (s : State) (x : ScrubIx) (r : Scrubber) : (s.setScrub x r).clock = s.clock := rfl
@[simp] theorem setScrub_segs (s : State) (x : ScrubIx) (r : Scrubber) : (s.setScrub x r).segs = s.segs := rfl
@[simp] theorem setScrub_pinch (s : State) (x : ScrubIx) (r : Scrubber) : (s.setScrub x r).pinch = s.pinch := rfl
@[simp] theorem setScrub_slots (s : State) (x : ScrubIx) (r : Scrubber) : (s.setScrub x r).slots = s.slots := rfl
@[simp] theorem setScrub_queue (s : State) (x : ScrubIx) (r : Scrubber) : (s.setScrub x r).queue = s.queue := rfl
@[simp] theorem setScrub_freeing (s : State) (x : ScrubIx) (r : Scrubber) : (s.setScrub x r).freeing = s.freeing := rfl
@[simp] theorem setScrub_cells (s : State) (x : ScrubIx) (r : Scrubber) : (s.setScrub x r).cells = s.cells := rfl
@[simp] theorem setScrub_drying (s : State) (x : ScrubIx) (r : Scrubber) : (s.setScrub x r).drying = s.drying := rfl
@[simp] theorem setScrub_zones (s : State) (x : ScrubIx) (r : Scrubber) : (s.setScrub x r).zones = s.zones := rfl
@[simp] theorem setScrub_dspFlags (s : State) (x : ScrubIx) (r : Scrubber) : (s.setScrub x r).dspFlags = s.dspFlags := rfl
@[simp] theorem setScrub_opsFlags (s : State) (x : ScrubIx) (r : Scrubber) : (s.setScrub x r).opsFlags = s.opsFlags := rfl
@[simp] theorem setScrub_dspMask (s : State) (x : ScrubIx) (r : Scrubber) : (s.setScrub x r).dspMask = s.dspMask := rfl
@[simp] theorem setScrub_opsMask (s : State) (x : ScrubIx) (r : Scrubber) : (s.setScrub x r).opsMask = s.opsMask := rfl
@[simp] theorem setScrub_gwyMask (s : State) (x : ScrubIx) (r : Scrubber) : (s.setScrub x r).gwyMask = s.gwyMask := rfl
@[simp] theorem setScrub_dspResult (s : State) (x : ScrubIx) (r : Scrubber) : (s.setScrub x r).dspResult = s.dspResult := rfl
@[simp] theorem setScrub_opsResult (s : State) (x : ScrubIx) (r : Scrubber) : (s.setScrub x r).opsResult = s.opsResult := rfl
@[simp] theorem setScrub_tuning (s : State) (x : ScrubIx) (r : Scrubber) : (s.setScrub x r).tuning = s.tuning := rfl
@[simp] theorem setScrub_staging (s : State) (x : ScrubIx) (r : Scrubber) : (s.setScrub x r).staging = s.staging := rfl
@[simp] theorem setScrub_held (s : State) (x : ScrubIx) (r : Scrubber) : (s.setScrub x r).held = s.held := rfl
@[simp] theorem setScrub_writeIx (s : State) (x : ScrubIx) (r : Scrubber) : (s.setScrub x r).writeIx = s.writeIx := rfl
@[simp] theorem setScrub_readIx (s : State) (x : ScrubIx) (r : Scrubber) : (s.setScrub x r).readIx = s.readIx := rfl

@[simp] theorem setPinch_pending (s : State) (p : PinchIx) (r : Pinch) : (s.setPinch p r).pending = s.pending := rfl
@[simp] theorem setPinch_mem (s : State) (p : PinchIx) (r : Pinch) : (s.setPinch p r).mem = s.mem := rfl
@[simp] theorem setPinch_badParity (s : State) (p : PinchIx) (r : Pinch) : (s.setPinch p r).badParity = s.badParity := rfl
@[simp] theorem setPinch_answer (s : State) (p : PinchIx) (r : Pinch) : (s.setPinch p r).answer = s.answer := rfl
@[simp] theorem setPinch_capture (s : State) (p : PinchIx) (r : Pinch) : (s.setPinch p r).capture = s.capture := rfl
@[simp] theorem setPinch_lastServed (s : State) (p : PinchIx) (r : Pinch) : (s.setPinch p r).lastServed = s.lastServed := rfl
@[simp] theorem setPinch_noticeGrant (s : State) (p : PinchIx) (r : Pinch) : (s.setPinch p r).noticeGrant = s.noticeGrant := rfl
@[simp] theorem setPinch_dirty (s : State) (p : PinchIx) (r : Pinch) : (s.setPinch p r).dirty = s.dirty := rfl
@[simp] theorem setPinch_promo (s : State) (p : PinchIx) (r : Pinch) : (s.setPinch p r).promo = s.promo := rfl
@[simp] theorem setPinch_lastWritten (s : State) (p : PinchIx) (r : Pinch) : (s.setPinch p r).lastWritten = s.lastWritten := rfl
@[simp] theorem setPinch_mode (s : State) (p : PinchIx) (r : Pinch) : (s.setPinch p r).mode = s.mode := rfl
@[simp] theorem setPinch_cause (s : State) (p : PinchIx) (r : Pinch) : (s.setPinch p r).cause = s.cause := rfl
@[simp] theorem setPinch_siteFault (s : State) (p : PinchIx) (r : Pinch) : (s.setPinch p r).siteFault = s.siteFault := rfl
@[simp] theorem setPinch_lineHeld (s : State) (p : PinchIx) (r : Pinch) : (s.setPinch p r).lineHeld = s.lineHeld := rfl
@[simp] theorem setPinch_load (s : State) (p : PinchIx) (r : Pinch) : (s.setPinch p r).load = s.load := rfl
@[simp] theorem setPinch_ackRestart (s : State) (p : PinchIx) (r : Pinch) : (s.setPinch p r).ackRestart = s.ackRestart := rfl
@[simp] theorem setPinch_site (s : State) (p : PinchIx) (r : Pinch) : (s.setPinch p r).site = s.site := rfl
@[simp] theorem setPinch_clock (s : State) (p : PinchIx) (r : Pinch) : (s.setPinch p r).clock = s.clock := rfl
@[simp] theorem setPinch_segs (s : State) (p : PinchIx) (r : Pinch) : (s.setPinch p r).segs = s.segs := rfl
@[simp] theorem setPinch_slots (s : State) (p : PinchIx) (r : Pinch) : (s.setPinch p r).slots = s.slots := rfl
@[simp] theorem setPinch_queue (s : State) (p : PinchIx) (r : Pinch) : (s.setPinch p r).queue = s.queue := rfl
@[simp] theorem setPinch_freeing (s : State) (p : PinchIx) (r : Pinch) : (s.setPinch p r).freeing = s.freeing := rfl
@[simp] theorem setPinch_cells (s : State) (p : PinchIx) (r : Pinch) : (s.setPinch p r).cells = s.cells := rfl
@[simp] theorem setPinch_scrubbers (s : State) (p : PinchIx) (r : Pinch) : (s.setPinch p r).scrubbers = s.scrubbers := rfl
@[simp] theorem setPinch_drying (s : State) (p : PinchIx) (r : Pinch) : (s.setPinch p r).drying = s.drying := rfl
@[simp] theorem setPinch_zones (s : State) (p : PinchIx) (r : Pinch) : (s.setPinch p r).zones = s.zones := rfl
@[simp] theorem setPinch_dspFlags (s : State) (p : PinchIx) (r : Pinch) : (s.setPinch p r).dspFlags = s.dspFlags := rfl
@[simp] theorem setPinch_opsFlags (s : State) (p : PinchIx) (r : Pinch) : (s.setPinch p r).opsFlags = s.opsFlags := rfl
@[simp] theorem setPinch_dspMask (s : State) (p : PinchIx) (r : Pinch) : (s.setPinch p r).dspMask = s.dspMask := rfl
@[simp] theorem setPinch_opsMask (s : State) (p : PinchIx) (r : Pinch) : (s.setPinch p r).opsMask = s.opsMask := rfl
@[simp] theorem setPinch_gwyMask (s : State) (p : PinchIx) (r : Pinch) : (s.setPinch p r).gwyMask = s.gwyMask := rfl
@[simp] theorem setPinch_dspResult (s : State) (p : PinchIx) (r : Pinch) : (s.setPinch p r).dspResult = s.dspResult := rfl
@[simp] theorem setPinch_opsResult (s : State) (p : PinchIx) (r : Pinch) : (s.setPinch p r).opsResult = s.opsResult := rfl
@[simp] theorem setPinch_tuning (s : State) (p : PinchIx) (r : Pinch) : (s.setPinch p r).tuning = s.tuning := rfl
@[simp] theorem setPinch_staging (s : State) (p : PinchIx) (r : Pinch) : (s.setPinch p r).staging = s.staging := rfl
@[simp] theorem setPinch_held (s : State) (p : PinchIx) (r : Pinch) : (s.setPinch p r).held = s.held := rfl
@[simp] theorem setPinch_writeIx (s : State) (p : PinchIx) (r : Pinch) : (s.setPinch p r).writeIx = s.writeIx := rfl
@[simp] theorem setPinch_readIx (s : State) (p : PinchIx) (r : Pinch) : (s.setPinch p r).readIx = s.readIx := rfl

@[simp] theorem setZone_pending (s : State) (z : ZoneIx) (r : Zone) : (s.setZone z r).pending = s.pending := rfl
@[simp] theorem setZone_mem (s : State) (z : ZoneIx) (r : Zone) : (s.setZone z r).mem = s.mem := rfl
@[simp] theorem setZone_badParity (s : State) (z : ZoneIx) (r : Zone) : (s.setZone z r).badParity = s.badParity := rfl
@[simp] theorem setZone_answer (s : State) (z : ZoneIx) (r : Zone) : (s.setZone z r).answer = s.answer := rfl
@[simp] theorem setZone_capture (s : State) (z : ZoneIx) (r : Zone) : (s.setZone z r).capture = s.capture := rfl
@[simp] theorem setZone_lastServed (s : State) (z : ZoneIx) (r : Zone) : (s.setZone z r).lastServed = s.lastServed := rfl
@[simp] theorem setZone_noticeGrant (s : State) (z : ZoneIx) (r : Zone) : (s.setZone z r).noticeGrant = s.noticeGrant := rfl
@[simp] theorem setZone_dirty (s : State) (z : ZoneIx) (r : Zone) : (s.setZone z r).dirty = s.dirty := rfl
@[simp] theorem setZone_promo (s : State) (z : ZoneIx) (r : Zone) : (s.setZone z r).promo = s.promo := rfl
@[simp] theorem setZone_lastWritten (s : State) (z : ZoneIx) (r : Zone) : (s.setZone z r).lastWritten = s.lastWritten := rfl
@[simp] theorem setZone_mode (s : State) (z : ZoneIx) (r : Zone) : (s.setZone z r).mode = s.mode := rfl
@[simp] theorem setZone_cause (s : State) (z : ZoneIx) (r : Zone) : (s.setZone z r).cause = s.cause := rfl
@[simp] theorem setZone_siteFault (s : State) (z : ZoneIx) (r : Zone) : (s.setZone z r).siteFault = s.siteFault := rfl
@[simp] theorem setZone_lineHeld (s : State) (z : ZoneIx) (r : Zone) : (s.setZone z r).lineHeld = s.lineHeld := rfl
@[simp] theorem setZone_load (s : State) (z : ZoneIx) (r : Zone) : (s.setZone z r).load = s.load := rfl
@[simp] theorem setZone_ackRestart (s : State) (z : ZoneIx) (r : Zone) : (s.setZone z r).ackRestart = s.ackRestart := rfl
@[simp] theorem setZone_site (s : State) (z : ZoneIx) (r : Zone) : (s.setZone z r).site = s.site := rfl
@[simp] theorem setZone_clock (s : State) (z : ZoneIx) (r : Zone) : (s.setZone z r).clock = s.clock := rfl
@[simp] theorem setZone_segs (s : State) (z : ZoneIx) (r : Zone) : (s.setZone z r).segs = s.segs := rfl
@[simp] theorem setZone_pinch (s : State) (z : ZoneIx) (r : Zone) : (s.setZone z r).pinch = s.pinch := rfl
@[simp] theorem setZone_slots (s : State) (z : ZoneIx) (r : Zone) : (s.setZone z r).slots = s.slots := rfl
@[simp] theorem setZone_queue (s : State) (z : ZoneIx) (r : Zone) : (s.setZone z r).queue = s.queue := rfl
@[simp] theorem setZone_freeing (s : State) (z : ZoneIx) (r : Zone) : (s.setZone z r).freeing = s.freeing := rfl
@[simp] theorem setZone_cells (s : State) (z : ZoneIx) (r : Zone) : (s.setZone z r).cells = s.cells := rfl
@[simp] theorem setZone_scrubbers (s : State) (z : ZoneIx) (r : Zone) : (s.setZone z r).scrubbers = s.scrubbers := rfl
@[simp] theorem setZone_drying (s : State) (z : ZoneIx) (r : Zone) : (s.setZone z r).drying = s.drying := rfl
@[simp] theorem setZone_dspFlags (s : State) (z : ZoneIx) (r : Zone) : (s.setZone z r).dspFlags = s.dspFlags := rfl
@[simp] theorem setZone_opsFlags (s : State) (z : ZoneIx) (r : Zone) : (s.setZone z r).opsFlags = s.opsFlags := rfl
@[simp] theorem setZone_dspMask (s : State) (z : ZoneIx) (r : Zone) : (s.setZone z r).dspMask = s.dspMask := rfl
@[simp] theorem setZone_opsMask (s : State) (z : ZoneIx) (r : Zone) : (s.setZone z r).opsMask = s.opsMask := rfl
@[simp] theorem setZone_gwyMask (s : State) (z : ZoneIx) (r : Zone) : (s.setZone z r).gwyMask = s.gwyMask := rfl
@[simp] theorem setZone_dspResult (s : State) (z : ZoneIx) (r : Zone) : (s.setZone z r).dspResult = s.dspResult := rfl
@[simp] theorem setZone_opsResult (s : State) (z : ZoneIx) (r : Zone) : (s.setZone z r).opsResult = s.opsResult := rfl
@[simp] theorem setZone_tuning (s : State) (z : ZoneIx) (r : Zone) : (s.setZone z r).tuning = s.tuning := rfl
@[simp] theorem setZone_staging (s : State) (z : ZoneIx) (r : Zone) : (s.setZone z r).staging = s.staging := rfl
@[simp] theorem setZone_held (s : State) (z : ZoneIx) (r : Zone) : (s.setZone z r).held = s.held := rfl
@[simp] theorem setZone_writeIx (s : State) (z : ZoneIx) (r : Zone) : (s.setZone z r).writeIx = s.writeIx := rfl
@[simp] theorem setZone_readIx (s : State) (z : ZoneIx) (r : Zone) : (s.setZone z r).readIx = s.readIx := rfl

@[simp] theorem setCell_pending (s : State) (c : CellIx) (r : CellCapture) : (s.setCell c r).pending = s.pending := rfl
@[simp] theorem setCell_mem (s : State) (c : CellIx) (r : CellCapture) : (s.setCell c r).mem = s.mem := rfl
@[simp] theorem setCell_badParity (s : State) (c : CellIx) (r : CellCapture) : (s.setCell c r).badParity = s.badParity := rfl
@[simp] theorem setCell_answer (s : State) (c : CellIx) (r : CellCapture) : (s.setCell c r).answer = s.answer := rfl
@[simp] theorem setCell_capture (s : State) (c : CellIx) (r : CellCapture) : (s.setCell c r).capture = s.capture := rfl
@[simp] theorem setCell_lastServed (s : State) (c : CellIx) (r : CellCapture) : (s.setCell c r).lastServed = s.lastServed := rfl
@[simp] theorem setCell_noticeGrant (s : State) (c : CellIx) (r : CellCapture) : (s.setCell c r).noticeGrant = s.noticeGrant := rfl
@[simp] theorem setCell_dirty (s : State) (c : CellIx) (r : CellCapture) : (s.setCell c r).dirty = s.dirty := rfl
@[simp] theorem setCell_promo (s : State) (c : CellIx) (r : CellCapture) : (s.setCell c r).promo = s.promo := rfl
@[simp] theorem setCell_lastWritten (s : State) (c : CellIx) (r : CellCapture) : (s.setCell c r).lastWritten = s.lastWritten := rfl
@[simp] theorem setCell_mode (s : State) (c : CellIx) (r : CellCapture) : (s.setCell c r).mode = s.mode := rfl
@[simp] theorem setCell_cause (s : State) (c : CellIx) (r : CellCapture) : (s.setCell c r).cause = s.cause := rfl
@[simp] theorem setCell_siteFault (s : State) (c : CellIx) (r : CellCapture) : (s.setCell c r).siteFault = s.siteFault := rfl
@[simp] theorem setCell_lineHeld (s : State) (c : CellIx) (r : CellCapture) : (s.setCell c r).lineHeld = s.lineHeld := rfl
@[simp] theorem setCell_load (s : State) (c : CellIx) (r : CellCapture) : (s.setCell c r).load = s.load := rfl
@[simp] theorem setCell_ackRestart (s : State) (c : CellIx) (r : CellCapture) : (s.setCell c r).ackRestart = s.ackRestart := rfl
@[simp] theorem setCell_site (s : State) (c : CellIx) (r : CellCapture) : (s.setCell c r).site = s.site := rfl
@[simp] theorem setCell_clock (s : State) (c : CellIx) (r : CellCapture) : (s.setCell c r).clock = s.clock := rfl
@[simp] theorem setCell_segs (s : State) (c : CellIx) (r : CellCapture) : (s.setCell c r).segs = s.segs := rfl
@[simp] theorem setCell_pinch (s : State) (c : CellIx) (r : CellCapture) : (s.setCell c r).pinch = s.pinch := rfl
@[simp] theorem setCell_slots (s : State) (c : CellIx) (r : CellCapture) : (s.setCell c r).slots = s.slots := rfl
@[simp] theorem setCell_queue (s : State) (c : CellIx) (r : CellCapture) : (s.setCell c r).queue = s.queue := rfl
@[simp] theorem setCell_freeing (s : State) (c : CellIx) (r : CellCapture) : (s.setCell c r).freeing = s.freeing := rfl
@[simp] theorem setCell_scrubbers (s : State) (c : CellIx) (r : CellCapture) : (s.setCell c r).scrubbers = s.scrubbers := rfl
@[simp] theorem setCell_drying (s : State) (c : CellIx) (r : CellCapture) : (s.setCell c r).drying = s.drying := rfl
@[simp] theorem setCell_zones (s : State) (c : CellIx) (r : CellCapture) : (s.setCell c r).zones = s.zones := rfl
@[simp] theorem setCell_dspFlags (s : State) (c : CellIx) (r : CellCapture) : (s.setCell c r).dspFlags = s.dspFlags := rfl
@[simp] theorem setCell_opsFlags (s : State) (c : CellIx) (r : CellCapture) : (s.setCell c r).opsFlags = s.opsFlags := rfl
@[simp] theorem setCell_dspMask (s : State) (c : CellIx) (r : CellCapture) : (s.setCell c r).dspMask = s.dspMask := rfl
@[simp] theorem setCell_opsMask (s : State) (c : CellIx) (r : CellCapture) : (s.setCell c r).opsMask = s.opsMask := rfl
@[simp] theorem setCell_gwyMask (s : State) (c : CellIx) (r : CellCapture) : (s.setCell c r).gwyMask = s.gwyMask := rfl
@[simp] theorem setCell_dspResult (s : State) (c : CellIx) (r : CellCapture) : (s.setCell c r).dspResult = s.dspResult := rfl
@[simp] theorem setCell_opsResult (s : State) (c : CellIx) (r : CellCapture) : (s.setCell c r).opsResult = s.opsResult := rfl
@[simp] theorem setCell_tuning (s : State) (c : CellIx) (r : CellCapture) : (s.setCell c r).tuning = s.tuning := rfl
@[simp] theorem setCell_staging (s : State) (c : CellIx) (r : CellCapture) : (s.setCell c r).staging = s.staging := rfl
@[simp] theorem setCell_held (s : State) (c : CellIx) (r : CellCapture) : (s.setCell c r).held = s.held := rfl
@[simp] theorem setCell_writeIx (s : State) (c : CellIx) (r : CellCapture) : (s.setCell c r).writeIx = s.writeIx := rfl
@[simp] theorem setCell_readIx (s : State) (c : CellIx) (r : CellCapture) : (s.setCell c r).readIx = s.readIx := rfl

@[simp] theorem noteFreeing_pending (s : State) : (s.noteFreeing).pending = s.pending := rfl
@[simp] theorem noteFreeing_mem (s : State) : (s.noteFreeing).mem = s.mem := rfl
@[simp] theorem noteFreeing_badParity (s : State) : (s.noteFreeing).badParity = s.badParity := rfl
@[simp] theorem noteFreeing_answer (s : State) : (s.noteFreeing).answer = s.answer := rfl
@[simp] theorem noteFreeing_capture (s : State) : (s.noteFreeing).capture = s.capture := rfl
@[simp] theorem noteFreeing_lastServed (s : State) : (s.noteFreeing).lastServed = s.lastServed := rfl
@[simp] theorem noteFreeing_noticeGrant (s : State) : (s.noteFreeing).noticeGrant = s.noticeGrant := rfl
@[simp] theorem noteFreeing_dirty (s : State) : (s.noteFreeing).dirty = s.dirty := rfl
@[simp] theorem noteFreeing_promo (s : State) : (s.noteFreeing).promo = s.promo := rfl
@[simp] theorem noteFreeing_lastWritten (s : State) : (s.noteFreeing).lastWritten = s.lastWritten := rfl
@[simp] theorem noteFreeing_mode (s : State) : (s.noteFreeing).mode = s.mode := rfl
@[simp] theorem noteFreeing_cause (s : State) : (s.noteFreeing).cause = s.cause := rfl
@[simp] theorem noteFreeing_siteFault (s : State) : (s.noteFreeing).siteFault = s.siteFault := rfl
@[simp] theorem noteFreeing_lineHeld (s : State) : (s.noteFreeing).lineHeld = s.lineHeld := rfl
@[simp] theorem noteFreeing_load (s : State) : (s.noteFreeing).load = s.load := rfl
@[simp] theorem noteFreeing_ackRestart (s : State) : (s.noteFreeing).ackRestart = s.ackRestart := rfl
@[simp] theorem noteFreeing_site (s : State) : (s.noteFreeing).site = s.site := rfl
@[simp] theorem noteFreeing_clock (s : State) : (s.noteFreeing).clock = s.clock := rfl
@[simp] theorem noteFreeing_segs (s : State) : (s.noteFreeing).segs = s.segs := rfl
@[simp] theorem noteFreeing_pinch (s : State) : (s.noteFreeing).pinch = s.pinch := rfl
@[simp] theorem noteFreeing_slots (s : State) : (s.noteFreeing).slots = s.slots := rfl
@[simp] theorem noteFreeing_queue (s : State) : (s.noteFreeing).queue = s.queue := rfl
@[simp] theorem noteFreeing_cells (s : State) : (s.noteFreeing).cells = s.cells := rfl
@[simp] theorem noteFreeing_scrubbers (s : State) : (s.noteFreeing).scrubbers = s.scrubbers := rfl
@[simp] theorem noteFreeing_drying (s : State) : (s.noteFreeing).drying = s.drying := rfl
@[simp] theorem noteFreeing_zones (s : State) : (s.noteFreeing).zones = s.zones := rfl
@[simp] theorem noteFreeing_dspFlags (s : State) : (s.noteFreeing).dspFlags = s.dspFlags := rfl
@[simp] theorem noteFreeing_opsFlags (s : State) : (s.noteFreeing).opsFlags = s.opsFlags := rfl
@[simp] theorem noteFreeing_dspMask (s : State) : (s.noteFreeing).dspMask = s.dspMask := rfl
@[simp] theorem noteFreeing_opsMask (s : State) : (s.noteFreeing).opsMask = s.opsMask := rfl
@[simp] theorem noteFreeing_gwyMask (s : State) : (s.noteFreeing).gwyMask = s.gwyMask := rfl
@[simp] theorem noteFreeing_dspResult (s : State) : (s.noteFreeing).dspResult = s.dspResult := rfl
@[simp] theorem noteFreeing_opsResult (s : State) : (s.noteFreeing).opsResult = s.opsResult := rfl
@[simp] theorem noteFreeing_tuning (s : State) : (s.noteFreeing).tuning = s.tuning := rfl
@[simp] theorem noteFreeing_staging (s : State) : (s.noteFreeing).staging = s.staging := rfl
@[simp] theorem noteFreeing_held (s : State) : (s.noteFreeing).held = s.held := rfl
@[simp] theorem noteFreeing_writeIx (s : State) : (s.noteFreeing).writeIx = s.writeIx := rfl
@[simp] theorem noteFreeing_readIx (s : State) : (s.noteFreeing).readIx = s.readIx := rfl

@[simp] theorem clearFreeing_pending (s : State) : (s.clearFreeing).pending = s.pending := rfl
@[simp] theorem clearFreeing_mem (s : State) : (s.clearFreeing).mem = s.mem := rfl
@[simp] theorem clearFreeing_badParity (s : State) : (s.clearFreeing).badParity = s.badParity := rfl
@[simp] theorem clearFreeing_answer (s : State) : (s.clearFreeing).answer = s.answer := rfl
@[simp] theorem clearFreeing_capture (s : State) : (s.clearFreeing).capture = s.capture := rfl
@[simp] theorem clearFreeing_lastServed (s : State) : (s.clearFreeing).lastServed = s.lastServed := rfl
@[simp] theorem clearFreeing_noticeGrant (s : State) : (s.clearFreeing).noticeGrant = s.noticeGrant := rfl
@[simp] theorem clearFreeing_dirty (s : State) : (s.clearFreeing).dirty = s.dirty := rfl
@[simp] theorem clearFreeing_promo (s : State) : (s.clearFreeing).promo = s.promo := rfl
@[simp] theorem clearFreeing_lastWritten (s : State) : (s.clearFreeing).lastWritten = s.lastWritten := rfl
@[simp] theorem clearFreeing_mode (s : State) : (s.clearFreeing).mode = s.mode := rfl
@[simp] theorem clearFreeing_cause (s : State) : (s.clearFreeing).cause = s.cause := rfl
@[simp] theorem clearFreeing_siteFault (s : State) : (s.clearFreeing).siteFault = s.siteFault := rfl
@[simp] theorem clearFreeing_lineHeld (s : State) : (s.clearFreeing).lineHeld = s.lineHeld := rfl
@[simp] theorem clearFreeing_load (s : State) : (s.clearFreeing).load = s.load := rfl
@[simp] theorem clearFreeing_ackRestart (s : State) : (s.clearFreeing).ackRestart = s.ackRestart := rfl
@[simp] theorem clearFreeing_site (s : State) : (s.clearFreeing).site = s.site := rfl
@[simp] theorem clearFreeing_clock (s : State) : (s.clearFreeing).clock = s.clock := rfl
@[simp] theorem clearFreeing_segs (s : State) : (s.clearFreeing).segs = s.segs := rfl
@[simp] theorem clearFreeing_pinch (s : State) : (s.clearFreeing).pinch = s.pinch := rfl
@[simp] theorem clearFreeing_slots (s : State) : (s.clearFreeing).slots = s.slots := rfl
@[simp] theorem clearFreeing_queue (s : State) : (s.clearFreeing).queue = s.queue := rfl
@[simp] theorem clearFreeing_cells (s : State) : (s.clearFreeing).cells = s.cells := rfl
@[simp] theorem clearFreeing_scrubbers (s : State) : (s.clearFreeing).scrubbers = s.scrubbers := rfl
@[simp] theorem clearFreeing_drying (s : State) : (s.clearFreeing).drying = s.drying := rfl
@[simp] theorem clearFreeing_zones (s : State) : (s.clearFreeing).zones = s.zones := rfl
@[simp] theorem clearFreeing_dspFlags (s : State) : (s.clearFreeing).dspFlags = s.dspFlags := rfl
@[simp] theorem clearFreeing_opsFlags (s : State) : (s.clearFreeing).opsFlags = s.opsFlags := rfl
@[simp] theorem clearFreeing_dspMask (s : State) : (s.clearFreeing).dspMask = s.dspMask := rfl
@[simp] theorem clearFreeing_opsMask (s : State) : (s.clearFreeing).opsMask = s.opsMask := rfl
@[simp] theorem clearFreeing_gwyMask (s : State) : (s.clearFreeing).gwyMask = s.gwyMask := rfl
@[simp] theorem clearFreeing_dspResult (s : State) : (s.clearFreeing).dspResult = s.dspResult := rfl
@[simp] theorem clearFreeing_opsResult (s : State) : (s.clearFreeing).opsResult = s.opsResult := rfl
@[simp] theorem clearFreeing_tuning (s : State) : (s.clearFreeing).tuning = s.tuning := rfl
@[simp] theorem clearFreeing_staging (s : State) : (s.clearFreeing).staging = s.staging := rfl
@[simp] theorem clearFreeing_held (s : State) : (s.clearFreeing).held = s.held := rfl
@[simp] theorem clearFreeing_writeIx (s : State) : (s.clearFreeing).writeIx = s.writeIx := rfl
@[simp] theorem clearFreeing_readIx (s : State) : (s.clearFreeing).readIx = s.readIx := rfl

@[simp] theorem setDrying_pending (s : State) (l : List DryEntry) : (s.setDrying l).pending = s.pending := rfl
@[simp] theorem setDrying_mem (s : State) (l : List DryEntry) : (s.setDrying l).mem = s.mem := rfl
@[simp] theorem setDrying_badParity (s : State) (l : List DryEntry) : (s.setDrying l).badParity = s.badParity := rfl
@[simp] theorem setDrying_answer (s : State) (l : List DryEntry) : (s.setDrying l).answer = s.answer := rfl
@[simp] theorem setDrying_capture (s : State) (l : List DryEntry) : (s.setDrying l).capture = s.capture := rfl
@[simp] theorem setDrying_lastServed (s : State) (l : List DryEntry) : (s.setDrying l).lastServed = s.lastServed := rfl
@[simp] theorem setDrying_noticeGrant (s : State) (l : List DryEntry) : (s.setDrying l).noticeGrant = s.noticeGrant := rfl
@[simp] theorem setDrying_dirty (s : State) (l : List DryEntry) : (s.setDrying l).dirty = s.dirty := rfl
@[simp] theorem setDrying_promo (s : State) (l : List DryEntry) : (s.setDrying l).promo = s.promo := rfl
@[simp] theorem setDrying_lastWritten (s : State) (l : List DryEntry) : (s.setDrying l).lastWritten = s.lastWritten := rfl
@[simp] theorem setDrying_mode (s : State) (l : List DryEntry) : (s.setDrying l).mode = s.mode := rfl
@[simp] theorem setDrying_cause (s : State) (l : List DryEntry) : (s.setDrying l).cause = s.cause := rfl
@[simp] theorem setDrying_siteFault (s : State) (l : List DryEntry) : (s.setDrying l).siteFault = s.siteFault := rfl
@[simp] theorem setDrying_lineHeld (s : State) (l : List DryEntry) : (s.setDrying l).lineHeld = s.lineHeld := rfl
@[simp] theorem setDrying_load (s : State) (l : List DryEntry) : (s.setDrying l).load = s.load := rfl
@[simp] theorem setDrying_ackRestart (s : State) (l : List DryEntry) : (s.setDrying l).ackRestart = s.ackRestart := rfl
@[simp] theorem setDrying_site (s : State) (l : List DryEntry) : (s.setDrying l).site = s.site := rfl
@[simp] theorem setDrying_clock (s : State) (l : List DryEntry) : (s.setDrying l).clock = s.clock := rfl
@[simp] theorem setDrying_segs (s : State) (l : List DryEntry) : (s.setDrying l).segs = s.segs := rfl
@[simp] theorem setDrying_pinch (s : State) (l : List DryEntry) : (s.setDrying l).pinch = s.pinch := rfl
@[simp] theorem setDrying_slots (s : State) (l : List DryEntry) : (s.setDrying l).slots = s.slots := rfl
@[simp] theorem setDrying_queue (s : State) (l : List DryEntry) : (s.setDrying l).queue = s.queue := rfl
@[simp] theorem setDrying_freeing (s : State) (l : List DryEntry) : (s.setDrying l).freeing = s.freeing := rfl
@[simp] theorem setDrying_cells (s : State) (l : List DryEntry) : (s.setDrying l).cells = s.cells := rfl
@[simp] theorem setDrying_scrubbers (s : State) (l : List DryEntry) : (s.setDrying l).scrubbers = s.scrubbers := rfl
@[simp] theorem setDrying_zones (s : State) (l : List DryEntry) : (s.setDrying l).zones = s.zones := rfl
@[simp] theorem setDrying_dspFlags (s : State) (l : List DryEntry) : (s.setDrying l).dspFlags = s.dspFlags := rfl
@[simp] theorem setDrying_opsFlags (s : State) (l : List DryEntry) : (s.setDrying l).opsFlags = s.opsFlags := rfl
@[simp] theorem setDrying_dspMask (s : State) (l : List DryEntry) : (s.setDrying l).dspMask = s.dspMask := rfl
@[simp] theorem setDrying_opsMask (s : State) (l : List DryEntry) : (s.setDrying l).opsMask = s.opsMask := rfl
@[simp] theorem setDrying_gwyMask (s : State) (l : List DryEntry) : (s.setDrying l).gwyMask = s.gwyMask := rfl
@[simp] theorem setDrying_dspResult (s : State) (l : List DryEntry) : (s.setDrying l).dspResult = s.dspResult := rfl
@[simp] theorem setDrying_opsResult (s : State) (l : List DryEntry) : (s.setDrying l).opsResult = s.opsResult := rfl
@[simp] theorem setDrying_tuning (s : State) (l : List DryEntry) : (s.setDrying l).tuning = s.tuning := rfl
@[simp] theorem setDrying_staging (s : State) (l : List DryEntry) : (s.setDrying l).staging = s.staging := rfl
@[simp] theorem setDrying_held (s : State) (l : List DryEntry) : (s.setDrying l).held = s.held := rfl
@[simp] theorem setDrying_writeIx (s : State) (l : List DryEntry) : (s.setDrying l).writeIx = s.writeIx := rfl
@[simp] theorem setDrying_readIx (s : State) (l : List DryEntry) : (s.setDrying l).readIx = s.readIx := rfl

@[simp] theorem setQueue_pending (s : State) (l : List SlotIx) : (s.setQueue l).pending = s.pending := rfl
@[simp] theorem setQueue_mem (s : State) (l : List SlotIx) : (s.setQueue l).mem = s.mem := rfl
@[simp] theorem setQueue_badParity (s : State) (l : List SlotIx) : (s.setQueue l).badParity = s.badParity := rfl
@[simp] theorem setQueue_answer (s : State) (l : List SlotIx) : (s.setQueue l).answer = s.answer := rfl
@[simp] theorem setQueue_capture (s : State) (l : List SlotIx) : (s.setQueue l).capture = s.capture := rfl
@[simp] theorem setQueue_lastServed (s : State) (l : List SlotIx) : (s.setQueue l).lastServed = s.lastServed := rfl
@[simp] theorem setQueue_noticeGrant (s : State) (l : List SlotIx) : (s.setQueue l).noticeGrant = s.noticeGrant := rfl
@[simp] theorem setQueue_dirty (s : State) (l : List SlotIx) : (s.setQueue l).dirty = s.dirty := rfl
@[simp] theorem setQueue_promo (s : State) (l : List SlotIx) : (s.setQueue l).promo = s.promo := rfl
@[simp] theorem setQueue_lastWritten (s : State) (l : List SlotIx) : (s.setQueue l).lastWritten = s.lastWritten := rfl
@[simp] theorem setQueue_mode (s : State) (l : List SlotIx) : (s.setQueue l).mode = s.mode := rfl
@[simp] theorem setQueue_cause (s : State) (l : List SlotIx) : (s.setQueue l).cause = s.cause := rfl
@[simp] theorem setQueue_siteFault (s : State) (l : List SlotIx) : (s.setQueue l).siteFault = s.siteFault := rfl
@[simp] theorem setQueue_lineHeld (s : State) (l : List SlotIx) : (s.setQueue l).lineHeld = s.lineHeld := rfl
@[simp] theorem setQueue_load (s : State) (l : List SlotIx) : (s.setQueue l).load = s.load := rfl
@[simp] theorem setQueue_ackRestart (s : State) (l : List SlotIx) : (s.setQueue l).ackRestart = s.ackRestart := rfl
@[simp] theorem setQueue_site (s : State) (l : List SlotIx) : (s.setQueue l).site = s.site := rfl
@[simp] theorem setQueue_clock (s : State) (l : List SlotIx) : (s.setQueue l).clock = s.clock := rfl
@[simp] theorem setQueue_segs (s : State) (l : List SlotIx) : (s.setQueue l).segs = s.segs := rfl
@[simp] theorem setQueue_pinch (s : State) (l : List SlotIx) : (s.setQueue l).pinch = s.pinch := rfl
@[simp] theorem setQueue_slots (s : State) (l : List SlotIx) : (s.setQueue l).slots = s.slots := rfl
@[simp] theorem setQueue_freeing (s : State) (l : List SlotIx) : (s.setQueue l).freeing = s.freeing := rfl
@[simp] theorem setQueue_cells (s : State) (l : List SlotIx) : (s.setQueue l).cells = s.cells := rfl
@[simp] theorem setQueue_scrubbers (s : State) (l : List SlotIx) : (s.setQueue l).scrubbers = s.scrubbers := rfl
@[simp] theorem setQueue_drying (s : State) (l : List SlotIx) : (s.setQueue l).drying = s.drying := rfl
@[simp] theorem setQueue_zones (s : State) (l : List SlotIx) : (s.setQueue l).zones = s.zones := rfl
@[simp] theorem setQueue_dspFlags (s : State) (l : List SlotIx) : (s.setQueue l).dspFlags = s.dspFlags := rfl
@[simp] theorem setQueue_opsFlags (s : State) (l : List SlotIx) : (s.setQueue l).opsFlags = s.opsFlags := rfl
@[simp] theorem setQueue_dspMask (s : State) (l : List SlotIx) : (s.setQueue l).dspMask = s.dspMask := rfl
@[simp] theorem setQueue_opsMask (s : State) (l : List SlotIx) : (s.setQueue l).opsMask = s.opsMask := rfl
@[simp] theorem setQueue_gwyMask (s : State) (l : List SlotIx) : (s.setQueue l).gwyMask = s.gwyMask := rfl
@[simp] theorem setQueue_dspResult (s : State) (l : List SlotIx) : (s.setQueue l).dspResult = s.dspResult := rfl
@[simp] theorem setQueue_opsResult (s : State) (l : List SlotIx) : (s.setQueue l).opsResult = s.opsResult := rfl
@[simp] theorem setQueue_tuning (s : State) (l : List SlotIx) : (s.setQueue l).tuning = s.tuning := rfl
@[simp] theorem setQueue_staging (s : State) (l : List SlotIx) : (s.setQueue l).staging = s.staging := rfl
@[simp] theorem setQueue_held (s : State) (l : List SlotIx) : (s.setQueue l).held = s.held := rfl
@[simp] theorem setQueue_writeIx (s : State) (l : List SlotIx) : (s.setQueue l).writeIx = s.writeIx := rfl
@[simp] theorem setQueue_readIx (s : State) (l : List SlotIx) : (s.setQueue l).readIx = s.readIx := rfl

@[simp] theorem setStaging_pending (s : State) (l : List Notice) : (s.setStaging l).pending = s.pending := rfl
@[simp] theorem setStaging_mem (s : State) (l : List Notice) : (s.setStaging l).mem = s.mem := rfl
@[simp] theorem setStaging_badParity (s : State) (l : List Notice) : (s.setStaging l).badParity = s.badParity := rfl
@[simp] theorem setStaging_answer (s : State) (l : List Notice) : (s.setStaging l).answer = s.answer := rfl
@[simp] theorem setStaging_capture (s : State) (l : List Notice) : (s.setStaging l).capture = s.capture := rfl
@[simp] theorem setStaging_lastServed (s : State) (l : List Notice) : (s.setStaging l).lastServed = s.lastServed := rfl
@[simp] theorem setStaging_noticeGrant (s : State) (l : List Notice) : (s.setStaging l).noticeGrant = s.noticeGrant := rfl
@[simp] theorem setStaging_dirty (s : State) (l : List Notice) : (s.setStaging l).dirty = s.dirty := rfl
@[simp] theorem setStaging_promo (s : State) (l : List Notice) : (s.setStaging l).promo = s.promo := rfl
@[simp] theorem setStaging_lastWritten (s : State) (l : List Notice) : (s.setStaging l).lastWritten = s.lastWritten := rfl
@[simp] theorem setStaging_mode (s : State) (l : List Notice) : (s.setStaging l).mode = s.mode := rfl
@[simp] theorem setStaging_cause (s : State) (l : List Notice) : (s.setStaging l).cause = s.cause := rfl
@[simp] theorem setStaging_siteFault (s : State) (l : List Notice) : (s.setStaging l).siteFault = s.siteFault := rfl
@[simp] theorem setStaging_lineHeld (s : State) (l : List Notice) : (s.setStaging l).lineHeld = s.lineHeld := rfl
@[simp] theorem setStaging_load (s : State) (l : List Notice) : (s.setStaging l).load = s.load := rfl
@[simp] theorem setStaging_ackRestart (s : State) (l : List Notice) : (s.setStaging l).ackRestart = s.ackRestart := rfl
@[simp] theorem setStaging_site (s : State) (l : List Notice) : (s.setStaging l).site = s.site := rfl
@[simp] theorem setStaging_clock (s : State) (l : List Notice) : (s.setStaging l).clock = s.clock := rfl
@[simp] theorem setStaging_segs (s : State) (l : List Notice) : (s.setStaging l).segs = s.segs := rfl
@[simp] theorem setStaging_pinch (s : State) (l : List Notice) : (s.setStaging l).pinch = s.pinch := rfl
@[simp] theorem setStaging_slots (s : State) (l : List Notice) : (s.setStaging l).slots = s.slots := rfl
@[simp] theorem setStaging_queue (s : State) (l : List Notice) : (s.setStaging l).queue = s.queue := rfl
@[simp] theorem setStaging_freeing (s : State) (l : List Notice) : (s.setStaging l).freeing = s.freeing := rfl
@[simp] theorem setStaging_cells (s : State) (l : List Notice) : (s.setStaging l).cells = s.cells := rfl
@[simp] theorem setStaging_scrubbers (s : State) (l : List Notice) : (s.setStaging l).scrubbers = s.scrubbers := rfl
@[simp] theorem setStaging_drying (s : State) (l : List Notice) : (s.setStaging l).drying = s.drying := rfl
@[simp] theorem setStaging_zones (s : State) (l : List Notice) : (s.setStaging l).zones = s.zones := rfl
@[simp] theorem setStaging_dspFlags (s : State) (l : List Notice) : (s.setStaging l).dspFlags = s.dspFlags := rfl
@[simp] theorem setStaging_opsFlags (s : State) (l : List Notice) : (s.setStaging l).opsFlags = s.opsFlags := rfl
@[simp] theorem setStaging_dspMask (s : State) (l : List Notice) : (s.setStaging l).dspMask = s.dspMask := rfl
@[simp] theorem setStaging_opsMask (s : State) (l : List Notice) : (s.setStaging l).opsMask = s.opsMask := rfl
@[simp] theorem setStaging_gwyMask (s : State) (l : List Notice) : (s.setStaging l).gwyMask = s.gwyMask := rfl
@[simp] theorem setStaging_dspResult (s : State) (l : List Notice) : (s.setStaging l).dspResult = s.dspResult := rfl
@[simp] theorem setStaging_opsResult (s : State) (l : List Notice) : (s.setStaging l).opsResult = s.opsResult := rfl
@[simp] theorem setStaging_tuning (s : State) (l : List Notice) : (s.setStaging l).tuning = s.tuning := rfl
@[simp] theorem setStaging_held (s : State) (l : List Notice) : (s.setStaging l).held = s.held := rfl
@[simp] theorem setStaging_writeIx (s : State) (l : List Notice) : (s.setStaging l).writeIx = s.writeIx := rfl
@[simp] theorem setStaging_readIx (s : State) (l : List Notice) : (s.setStaging l).readIx = s.readIx := rfl

@[simp] theorem answered_pending (s : State) (b : BusAnswer) : (s.answered b).pending = s.pending := rfl
@[simp] theorem answered_mem (s : State) (b : BusAnswer) : (s.answered b).mem = s.mem := rfl
@[simp] theorem answered_badParity (s : State) (b : BusAnswer) : (s.answered b).badParity = s.badParity := rfl
@[simp] theorem answered_capture (s : State) (b : BusAnswer) : (s.answered b).capture = s.capture := rfl
@[simp] theorem answered_lastServed (s : State) (b : BusAnswer) : (s.answered b).lastServed = s.lastServed := rfl
@[simp] theorem answered_noticeGrant (s : State) (b : BusAnswer) : (s.answered b).noticeGrant = s.noticeGrant := rfl
@[simp] theorem answered_dirty (s : State) (b : BusAnswer) : (s.answered b).dirty = s.dirty := rfl
@[simp] theorem answered_promo (s : State) (b : BusAnswer) : (s.answered b).promo = s.promo := rfl
@[simp] theorem answered_lastWritten (s : State) (b : BusAnswer) : (s.answered b).lastWritten = s.lastWritten := rfl
@[simp] theorem answered_mode (s : State) (b : BusAnswer) : (s.answered b).mode = s.mode := rfl
@[simp] theorem answered_cause (s : State) (b : BusAnswer) : (s.answered b).cause = s.cause := rfl
@[simp] theorem answered_siteFault (s : State) (b : BusAnswer) : (s.answered b).siteFault = s.siteFault := rfl
@[simp] theorem answered_lineHeld (s : State) (b : BusAnswer) : (s.answered b).lineHeld = s.lineHeld := rfl
@[simp] theorem answered_load (s : State) (b : BusAnswer) : (s.answered b).load = s.load := rfl
@[simp] theorem answered_ackRestart (s : State) (b : BusAnswer) : (s.answered b).ackRestart = s.ackRestart := rfl
@[simp] theorem answered_site (s : State) (b : BusAnswer) : (s.answered b).site = s.site := rfl
@[simp] theorem answered_clock (s : State) (b : BusAnswer) : (s.answered b).clock = s.clock := rfl
@[simp] theorem answered_segs (s : State) (b : BusAnswer) : (s.answered b).segs = s.segs := rfl
@[simp] theorem answered_pinch (s : State) (b : BusAnswer) : (s.answered b).pinch = s.pinch := rfl
@[simp] theorem answered_slots (s : State) (b : BusAnswer) : (s.answered b).slots = s.slots := rfl
@[simp] theorem answered_queue (s : State) (b : BusAnswer) : (s.answered b).queue = s.queue := rfl
@[simp] theorem answered_freeing (s : State) (b : BusAnswer) : (s.answered b).freeing = s.freeing := rfl
@[simp] theorem answered_cells (s : State) (b : BusAnswer) : (s.answered b).cells = s.cells := rfl
@[simp] theorem answered_scrubbers (s : State) (b : BusAnswer) : (s.answered b).scrubbers = s.scrubbers := rfl
@[simp] theorem answered_drying (s : State) (b : BusAnswer) : (s.answered b).drying = s.drying := rfl
@[simp] theorem answered_zones (s : State) (b : BusAnswer) : (s.answered b).zones = s.zones := rfl
@[simp] theorem answered_dspFlags (s : State) (b : BusAnswer) : (s.answered b).dspFlags = s.dspFlags := rfl
@[simp] theorem answered_opsFlags (s : State) (b : BusAnswer) : (s.answered b).opsFlags = s.opsFlags := rfl
@[simp] theorem answered_dspMask (s : State) (b : BusAnswer) : (s.answered b).dspMask = s.dspMask := rfl
@[simp] theorem answered_opsMask (s : State) (b : BusAnswer) : (s.answered b).opsMask = s.opsMask := rfl
@[simp] theorem answered_gwyMask (s : State) (b : BusAnswer) : (s.answered b).gwyMask = s.gwyMask := rfl
@[simp] theorem answered_dspResult (s : State) (b : BusAnswer) : (s.answered b).dspResult = s.dspResult := rfl
@[simp] theorem answered_opsResult (s : State) (b : BusAnswer) : (s.answered b).opsResult = s.opsResult := rfl
@[simp] theorem answered_tuning (s : State) (b : BusAnswer) : (s.answered b).tuning = s.tuning := rfl
@[simp] theorem answered_staging (s : State) (b : BusAnswer) : (s.answered b).staging = s.staging := rfl
@[simp] theorem answered_held (s : State) (b : BusAnswer) : (s.answered b).held = s.held := rfl
@[simp] theorem answered_writeIx (s : State) (b : BusAnswer) : (s.answered b).writeIx = s.writeIx := rfl
@[simp] theorem answered_readIx (s : State) (b : BusAnswer) : (s.answered b).readIx = s.readIx := rfl

@[simp] theorem served_pending (s : State) (u : PortUser) : (s.served u).pending = s.pending := rfl
@[simp] theorem served_mem (s : State) (u : PortUser) : (s.served u).mem = s.mem := rfl
@[simp] theorem served_badParity (s : State) (u : PortUser) : (s.served u).badParity = s.badParity := rfl
@[simp] theorem served_answer (s : State) (u : PortUser) : (s.served u).answer = s.answer := rfl
@[simp] theorem served_capture (s : State) (u : PortUser) : (s.served u).capture = s.capture := rfl
@[simp] theorem served_dirty (s : State) (u : PortUser) : (s.served u).dirty = s.dirty := rfl
@[simp] theorem served_promo (s : State) (u : PortUser) : (s.served u).promo = s.promo := rfl
@[simp] theorem served_lastWritten (s : State) (u : PortUser) : (s.served u).lastWritten = s.lastWritten := rfl
@[simp] theorem served_mode (s : State) (u : PortUser) : (s.served u).mode = s.mode := rfl
@[simp] theorem served_cause (s : State) (u : PortUser) : (s.served u).cause = s.cause := rfl
@[simp] theorem served_siteFault (s : State) (u : PortUser) : (s.served u).siteFault = s.siteFault := rfl
@[simp] theorem served_lineHeld (s : State) (u : PortUser) : (s.served u).lineHeld = s.lineHeld := rfl
@[simp] theorem served_load (s : State) (u : PortUser) : (s.served u).load = s.load := rfl
@[simp] theorem served_ackRestart (s : State) (u : PortUser) : (s.served u).ackRestart = s.ackRestart := rfl
@[simp] theorem served_site (s : State) (u : PortUser) : (s.served u).site = s.site := rfl
@[simp] theorem served_clock (s : State) (u : PortUser) : (s.served u).clock = s.clock := rfl
@[simp] theorem served_segs (s : State) (u : PortUser) : (s.served u).segs = s.segs := rfl
@[simp] theorem served_pinch (s : State) (u : PortUser) : (s.served u).pinch = s.pinch := rfl
@[simp] theorem served_slots (s : State) (u : PortUser) : (s.served u).slots = s.slots := rfl
@[simp] theorem served_queue (s : State) (u : PortUser) : (s.served u).queue = s.queue := rfl
@[simp] theorem served_freeing (s : State) (u : PortUser) : (s.served u).freeing = s.freeing := rfl
@[simp] theorem served_cells (s : State) (u : PortUser) : (s.served u).cells = s.cells := rfl
@[simp] theorem served_scrubbers (s : State) (u : PortUser) : (s.served u).scrubbers = s.scrubbers := rfl
@[simp] theorem served_drying (s : State) (u : PortUser) : (s.served u).drying = s.drying := rfl
@[simp] theorem served_zones (s : State) (u : PortUser) : (s.served u).zones = s.zones := rfl
@[simp] theorem served_dspFlags (s : State) (u : PortUser) : (s.served u).dspFlags = s.dspFlags := rfl
@[simp] theorem served_opsFlags (s : State) (u : PortUser) : (s.served u).opsFlags = s.opsFlags := rfl
@[simp] theorem served_dspMask (s : State) (u : PortUser) : (s.served u).dspMask = s.dspMask := rfl
@[simp] theorem served_opsMask (s : State) (u : PortUser) : (s.served u).opsMask = s.opsMask := rfl
@[simp] theorem served_gwyMask (s : State) (u : PortUser) : (s.served u).gwyMask = s.gwyMask := rfl
@[simp] theorem served_dspResult (s : State) (u : PortUser) : (s.served u).dspResult = s.dspResult := rfl
@[simp] theorem served_opsResult (s : State) (u : PortUser) : (s.served u).opsResult = s.opsResult := rfl
@[simp] theorem served_tuning (s : State) (u : PortUser) : (s.served u).tuning = s.tuning := rfl
@[simp] theorem served_staging (s : State) (u : PortUser) : (s.served u).staging = s.staging := rfl
@[simp] theorem served_noticeGrant (s : State) (u : PortUser) : (s.served u).noticeGrant = s.noticeGrant := rfl
@[simp] theorem served_lastServed (s : State) (u : PortUser) : (s.served u).lastServed = u := rfl
@[simp] theorem served_held (s : State) (u : PortUser) : (s.served u).held = s.held := rfl
@[simp] theorem served_writeIx (s : State) (u : PortUser) : (s.served u).writeIx = s.writeIx := rfl
@[simp] theorem served_readIx (s : State) (u : PortUser) : (s.served u).readIx = s.readIx := rfl

@[simp] theorem writeWord_pending (s : State) (a : BitVec 18) (w : Word) : (s.writeWord a w).pending = s.pending := rfl
@[simp] theorem writeWord_answer (s : State) (a : BitVec 18) (w : Word) : (s.writeWord a w).answer = s.answer := rfl
@[simp] theorem writeWord_capture (s : State) (a : BitVec 18) (w : Word) : (s.writeWord a w).capture = s.capture := rfl
@[simp] theorem writeWord_lastServed (s : State) (a : BitVec 18) (w : Word) : (s.writeWord a w).lastServed = s.lastServed := rfl
@[simp] theorem writeWord_noticeGrant (s : State) (a : BitVec 18) (w : Word) : (s.writeWord a w).noticeGrant = s.noticeGrant := rfl
@[simp] theorem writeWord_dirty (s : State) (a : BitVec 18) (w : Word) : (s.writeWord a w).dirty = s.dirty := rfl
@[simp] theorem writeWord_promo (s : State) (a : BitVec 18) (w : Word) : (s.writeWord a w).promo = s.promo := rfl
@[simp] theorem writeWord_lastWritten (s : State) (a : BitVec 18) (w : Word) : (s.writeWord a w).lastWritten = s.lastWritten := rfl
@[simp] theorem writeWord_mode (s : State) (a : BitVec 18) (w : Word) : (s.writeWord a w).mode = s.mode := rfl
@[simp] theorem writeWord_cause (s : State) (a : BitVec 18) (w : Word) : (s.writeWord a w).cause = s.cause := rfl
@[simp] theorem writeWord_siteFault (s : State) (a : BitVec 18) (w : Word) : (s.writeWord a w).siteFault = s.siteFault := rfl
@[simp] theorem writeWord_lineHeld (s : State) (a : BitVec 18) (w : Word) : (s.writeWord a w).lineHeld = s.lineHeld := rfl
@[simp] theorem writeWord_load (s : State) (a : BitVec 18) (w : Word) : (s.writeWord a w).load = s.load := rfl
@[simp] theorem writeWord_ackRestart (s : State) (a : BitVec 18) (w : Word) : (s.writeWord a w).ackRestart = s.ackRestart := rfl
@[simp] theorem writeWord_site (s : State) (a : BitVec 18) (w : Word) : (s.writeWord a w).site = s.site := rfl
@[simp] theorem writeWord_clock (s : State) (a : BitVec 18) (w : Word) : (s.writeWord a w).clock = s.clock := rfl
@[simp] theorem writeWord_segs (s : State) (a : BitVec 18) (w : Word) : (s.writeWord a w).segs = s.segs := rfl
@[simp] theorem writeWord_pinch (s : State) (a : BitVec 18) (w : Word) : (s.writeWord a w).pinch = s.pinch := rfl
@[simp] theorem writeWord_slots (s : State) (a : BitVec 18) (w : Word) : (s.writeWord a w).slots = s.slots := rfl
@[simp] theorem writeWord_queue (s : State) (a : BitVec 18) (w : Word) : (s.writeWord a w).queue = s.queue := rfl
@[simp] theorem writeWord_freeing (s : State) (a : BitVec 18) (w : Word) : (s.writeWord a w).freeing = s.freeing := rfl
@[simp] theorem writeWord_cells (s : State) (a : BitVec 18) (w : Word) : (s.writeWord a w).cells = s.cells := rfl
@[simp] theorem writeWord_scrubbers (s : State) (a : BitVec 18) (w : Word) : (s.writeWord a w).scrubbers = s.scrubbers := rfl
@[simp] theorem writeWord_drying (s : State) (a : BitVec 18) (w : Word) : (s.writeWord a w).drying = s.drying := rfl
@[simp] theorem writeWord_zones (s : State) (a : BitVec 18) (w : Word) : (s.writeWord a w).zones = s.zones := rfl
@[simp] theorem writeWord_dspFlags (s : State) (a : BitVec 18) (w : Word) : (s.writeWord a w).dspFlags = s.dspFlags := rfl
@[simp] theorem writeWord_opsFlags (s : State) (a : BitVec 18) (w : Word) : (s.writeWord a w).opsFlags = s.opsFlags := rfl
@[simp] theorem writeWord_dspMask (s : State) (a : BitVec 18) (w : Word) : (s.writeWord a w).dspMask = s.dspMask := rfl
@[simp] theorem writeWord_opsMask (s : State) (a : BitVec 18) (w : Word) : (s.writeWord a w).opsMask = s.opsMask := rfl
@[simp] theorem writeWord_gwyMask (s : State) (a : BitVec 18) (w : Word) : (s.writeWord a w).gwyMask = s.gwyMask := rfl
@[simp] theorem writeWord_dspResult (s : State) (a : BitVec 18) (w : Word) : (s.writeWord a w).dspResult = s.dspResult := rfl
@[simp] theorem writeWord_opsResult (s : State) (a : BitVec 18) (w : Word) : (s.writeWord a w).opsResult = s.opsResult := rfl
@[simp] theorem writeWord_tuning (s : State) (a : BitVec 18) (w : Word) : (s.writeWord a w).tuning = s.tuning := rfl
@[simp] theorem writeWord_staging (s : State) (a : BitVec 18) (w : Word) : (s.writeWord a w).staging = s.staging := rfl
@[simp] theorem writeWord_held (s : State) (a : BitVec 18) (w : Word) : (s.writeWord a w).held = s.held := rfl
@[simp] theorem writeWord_writeIx (s : State) (a : BitVec 18) (w : Word) : (s.writeWord a w).writeIx = s.writeIx := rfl
@[simp] theorem writeWord_readIx (s : State) (a : BitVec 18) (w : Word) : (s.writeWord a w).readIx = s.readIx := rfl

@[simp] theorem upset_pending (s : State) (l : List (BitVec 20)) : (s.upset l).pending = s.pending := rfl
@[simp] theorem upset_mem (s : State) (l : List (BitVec 20)) : (s.upset l).mem = s.mem := rfl
@[simp] theorem upset_answer (s : State) (l : List (BitVec 20)) : (s.upset l).answer = s.answer := rfl
@[simp] theorem upset_capture (s : State) (l : List (BitVec 20)) : (s.upset l).capture = s.capture := rfl
@[simp] theorem upset_lastServed (s : State) (l : List (BitVec 20)) : (s.upset l).lastServed = s.lastServed := rfl
@[simp] theorem upset_noticeGrant (s : State) (l : List (BitVec 20)) : (s.upset l).noticeGrant = s.noticeGrant := rfl
@[simp] theorem upset_dirty (s : State) (l : List (BitVec 20)) : (s.upset l).dirty = s.dirty := rfl
@[simp] theorem upset_promo (s : State) (l : List (BitVec 20)) : (s.upset l).promo = s.promo := rfl
@[simp] theorem upset_lastWritten (s : State) (l : List (BitVec 20)) : (s.upset l).lastWritten = s.lastWritten := rfl
@[simp] theorem upset_mode (s : State) (l : List (BitVec 20)) : (s.upset l).mode = s.mode := rfl
@[simp] theorem upset_cause (s : State) (l : List (BitVec 20)) : (s.upset l).cause = s.cause := rfl
@[simp] theorem upset_siteFault (s : State) (l : List (BitVec 20)) : (s.upset l).siteFault = s.siteFault := rfl
@[simp] theorem upset_lineHeld (s : State) (l : List (BitVec 20)) : (s.upset l).lineHeld = s.lineHeld := rfl
@[simp] theorem upset_load (s : State) (l : List (BitVec 20)) : (s.upset l).load = s.load := rfl
@[simp] theorem upset_ackRestart (s : State) (l : List (BitVec 20)) : (s.upset l).ackRestart = s.ackRestart := rfl
@[simp] theorem upset_site (s : State) (l : List (BitVec 20)) : (s.upset l).site = s.site := rfl
@[simp] theorem upset_clock (s : State) (l : List (BitVec 20)) : (s.upset l).clock = s.clock := rfl
@[simp] theorem upset_segs (s : State) (l : List (BitVec 20)) : (s.upset l).segs = s.segs := rfl
@[simp] theorem upset_pinch (s : State) (l : List (BitVec 20)) : (s.upset l).pinch = s.pinch := rfl
@[simp] theorem upset_slots (s : State) (l : List (BitVec 20)) : (s.upset l).slots = s.slots := rfl
@[simp] theorem upset_queue (s : State) (l : List (BitVec 20)) : (s.upset l).queue = s.queue := rfl
@[simp] theorem upset_freeing (s : State) (l : List (BitVec 20)) : (s.upset l).freeing = s.freeing := rfl
@[simp] theorem upset_cells (s : State) (l : List (BitVec 20)) : (s.upset l).cells = s.cells := rfl
@[simp] theorem upset_scrubbers (s : State) (l : List (BitVec 20)) : (s.upset l).scrubbers = s.scrubbers := rfl
@[simp] theorem upset_drying (s : State) (l : List (BitVec 20)) : (s.upset l).drying = s.drying := rfl
@[simp] theorem upset_zones (s : State) (l : List (BitVec 20)) : (s.upset l).zones = s.zones := rfl
@[simp] theorem upset_dspFlags (s : State) (l : List (BitVec 20)) : (s.upset l).dspFlags = s.dspFlags := rfl
@[simp] theorem upset_opsFlags (s : State) (l : List (BitVec 20)) : (s.upset l).opsFlags = s.opsFlags := rfl
@[simp] theorem upset_dspMask (s : State) (l : List (BitVec 20)) : (s.upset l).dspMask = s.dspMask := rfl
@[simp] theorem upset_opsMask (s : State) (l : List (BitVec 20)) : (s.upset l).opsMask = s.opsMask := rfl
@[simp] theorem upset_gwyMask (s : State) (l : List (BitVec 20)) : (s.upset l).gwyMask = s.gwyMask := rfl
@[simp] theorem upset_dspResult (s : State) (l : List (BitVec 20)) : (s.upset l).dspResult = s.dspResult := rfl
@[simp] theorem upset_opsResult (s : State) (l : List (BitVec 20)) : (s.upset l).opsResult = s.opsResult := rfl
@[simp] theorem upset_tuning (s : State) (l : List (BitVec 20)) : (s.upset l).tuning = s.tuning := rfl
@[simp] theorem upset_staging (s : State) (l : List (BitVec 20)) : (s.upset l).staging = s.staging := rfl
@[simp] theorem upset_held (s : State) (l : List (BitVec 20)) : (s.upset l).held = s.held := rfl
@[simp] theorem upset_writeIx (s : State) (l : List (BitVec 20)) : (s.upset l).writeIx = s.writeIx := rfl
@[simp] theorem upset_readIx (s : State) (l : List (BitVec 20)) : (s.upset l).readIx = s.readIx := rfl

@[simp] theorem dropEntry_pending (s : State) (g : SegIx) : (s.dropEntry g).pending = s.pending := rfl
@[simp] theorem dropEntry_mem (s : State) (g : SegIx) : (s.dropEntry g).mem = s.mem := rfl
@[simp] theorem dropEntry_badParity (s : State) (g : SegIx) : (s.dropEntry g).badParity = s.badParity := rfl
@[simp] theorem dropEntry_answer (s : State) (g : SegIx) : (s.dropEntry g).answer = s.answer := rfl
@[simp] theorem dropEntry_capture (s : State) (g : SegIx) : (s.dropEntry g).capture = s.capture := rfl
@[simp] theorem dropEntry_lastServed (s : State) (g : SegIx) : (s.dropEntry g).lastServed = s.lastServed := rfl
@[simp] theorem dropEntry_noticeGrant (s : State) (g : SegIx) : (s.dropEntry g).noticeGrant = s.noticeGrant := rfl
@[simp] theorem dropEntry_dirty (s : State) (g : SegIx) : (s.dropEntry g).dirty = s.dirty := rfl
@[simp] theorem dropEntry_promo (s : State) (g : SegIx) : (s.dropEntry g).promo = s.promo := rfl
@[simp] theorem dropEntry_lastWritten (s : State) (g : SegIx) : (s.dropEntry g).lastWritten = s.lastWritten := rfl
@[simp] theorem dropEntry_mode (s : State) (g : SegIx) : (s.dropEntry g).mode = s.mode := rfl
@[simp] theorem dropEntry_cause (s : State) (g : SegIx) : (s.dropEntry g).cause = s.cause := rfl
@[simp] theorem dropEntry_siteFault (s : State) (g : SegIx) : (s.dropEntry g).siteFault = s.siteFault := rfl
@[simp] theorem dropEntry_lineHeld (s : State) (g : SegIx) : (s.dropEntry g).lineHeld = s.lineHeld := rfl
@[simp] theorem dropEntry_load (s : State) (g : SegIx) : (s.dropEntry g).load = s.load := rfl
@[simp] theorem dropEntry_ackRestart (s : State) (g : SegIx) : (s.dropEntry g).ackRestart = s.ackRestart := rfl
@[simp] theorem dropEntry_site (s : State) (g : SegIx) : (s.dropEntry g).site = s.site := rfl
@[simp] theorem dropEntry_clock (s : State) (g : SegIx) : (s.dropEntry g).clock = s.clock := rfl
@[simp] theorem dropEntry_segs (s : State) (g : SegIx) : (s.dropEntry g).segs = s.segs := rfl
@[simp] theorem dropEntry_pinch (s : State) (g : SegIx) : (s.dropEntry g).pinch = s.pinch := rfl
@[simp] theorem dropEntry_slots (s : State) (g : SegIx) : (s.dropEntry g).slots = s.slots := rfl
@[simp] theorem dropEntry_queue (s : State) (g : SegIx) : (s.dropEntry g).queue = s.queue := rfl
@[simp] theorem dropEntry_freeing (s : State) (g : SegIx) : (s.dropEntry g).freeing = s.freeing := rfl
@[simp] theorem dropEntry_cells (s : State) (g : SegIx) : (s.dropEntry g).cells = s.cells := rfl
@[simp] theorem dropEntry_scrubbers (s : State) (g : SegIx) : (s.dropEntry g).scrubbers = s.scrubbers := rfl
@[simp] theorem dropEntry_zones (s : State) (g : SegIx) : (s.dropEntry g).zones = s.zones := rfl
@[simp] theorem dropEntry_dspFlags (s : State) (g : SegIx) : (s.dropEntry g).dspFlags = s.dspFlags := rfl
@[simp] theorem dropEntry_opsFlags (s : State) (g : SegIx) : (s.dropEntry g).opsFlags = s.opsFlags := rfl
@[simp] theorem dropEntry_dspMask (s : State) (g : SegIx) : (s.dropEntry g).dspMask = s.dspMask := rfl
@[simp] theorem dropEntry_opsMask (s : State) (g : SegIx) : (s.dropEntry g).opsMask = s.opsMask := rfl
@[simp] theorem dropEntry_gwyMask (s : State) (g : SegIx) : (s.dropEntry g).gwyMask = s.gwyMask := rfl
@[simp] theorem dropEntry_dspResult (s : State) (g : SegIx) : (s.dropEntry g).dspResult = s.dspResult := rfl
@[simp] theorem dropEntry_opsResult (s : State) (g : SegIx) : (s.dropEntry g).opsResult = s.opsResult := rfl
@[simp] theorem dropEntry_tuning (s : State) (g : SegIx) : (s.dropEntry g).tuning = s.tuning := rfl
@[simp] theorem dropEntry_staging (s : State) (g : SegIx) : (s.dropEntry g).staging = s.staging := rfl
@[simp] theorem dropEntry_held (s : State) (g : SegIx) : (s.dropEntry g).held = s.held := rfl
@[simp] theorem dropEntry_writeIx (s : State) (g : SegIx) : (s.dropEntry g).writeIx = s.writeIx := rfl
@[simp] theorem dropEntry_readIx (s : State) (g : SegIx) : (s.dropEntry g).readIx = s.readIx := rfl

@[simp] theorem leaveQueue_pending (s : State) (k : SlotIx) : (s.leaveQueue k).pending = s.pending := rfl
@[simp] theorem leaveQueue_mem (s : State) (k : SlotIx) : (s.leaveQueue k).mem = s.mem := rfl
@[simp] theorem leaveQueue_badParity (s : State) (k : SlotIx) : (s.leaveQueue k).badParity = s.badParity := rfl
@[simp] theorem leaveQueue_answer (s : State) (k : SlotIx) : (s.leaveQueue k).answer = s.answer := rfl
@[simp] theorem leaveQueue_capture (s : State) (k : SlotIx) : (s.leaveQueue k).capture = s.capture := rfl
@[simp] theorem leaveQueue_lastServed (s : State) (k : SlotIx) : (s.leaveQueue k).lastServed = s.lastServed := rfl
@[simp] theorem leaveQueue_noticeGrant (s : State) (k : SlotIx) : (s.leaveQueue k).noticeGrant = s.noticeGrant := rfl
@[simp] theorem leaveQueue_dirty (s : State) (k : SlotIx) : (s.leaveQueue k).dirty = s.dirty := rfl
@[simp] theorem leaveQueue_promo (s : State) (k : SlotIx) : (s.leaveQueue k).promo = s.promo := rfl
@[simp] theorem leaveQueue_lastWritten (s : State) (k : SlotIx) : (s.leaveQueue k).lastWritten = s.lastWritten := rfl
@[simp] theorem leaveQueue_mode (s : State) (k : SlotIx) : (s.leaveQueue k).mode = s.mode := rfl
@[simp] theorem leaveQueue_cause (s : State) (k : SlotIx) : (s.leaveQueue k).cause = s.cause := rfl
@[simp] theorem leaveQueue_siteFault (s : State) (k : SlotIx) : (s.leaveQueue k).siteFault = s.siteFault := rfl
@[simp] theorem leaveQueue_lineHeld (s : State) (k : SlotIx) : (s.leaveQueue k).lineHeld = s.lineHeld := rfl
@[simp] theorem leaveQueue_load (s : State) (k : SlotIx) : (s.leaveQueue k).load = s.load := rfl
@[simp] theorem leaveQueue_ackRestart (s : State) (k : SlotIx) : (s.leaveQueue k).ackRestart = s.ackRestart := rfl
@[simp] theorem leaveQueue_site (s : State) (k : SlotIx) : (s.leaveQueue k).site = s.site := rfl
@[simp] theorem leaveQueue_clock (s : State) (k : SlotIx) : (s.leaveQueue k).clock = s.clock := rfl
@[simp] theorem leaveQueue_segs (s : State) (k : SlotIx) : (s.leaveQueue k).segs = s.segs := rfl
@[simp] theorem leaveQueue_pinch (s : State) (k : SlotIx) : (s.leaveQueue k).pinch = s.pinch := rfl
@[simp] theorem leaveQueue_slots (s : State) (k : SlotIx) : (s.leaveQueue k).slots = s.slots := rfl
@[simp] theorem leaveQueue_freeing (s : State) (k : SlotIx) : (s.leaveQueue k).freeing = s.freeing := rfl
@[simp] theorem leaveQueue_cells (s : State) (k : SlotIx) : (s.leaveQueue k).cells = s.cells := rfl
@[simp] theorem leaveQueue_scrubbers (s : State) (k : SlotIx) : (s.leaveQueue k).scrubbers = s.scrubbers := rfl
@[simp] theorem leaveQueue_drying (s : State) (k : SlotIx) : (s.leaveQueue k).drying = s.drying := rfl
@[simp] theorem leaveQueue_zones (s : State) (k : SlotIx) : (s.leaveQueue k).zones = s.zones := rfl
@[simp] theorem leaveQueue_dspFlags (s : State) (k : SlotIx) : (s.leaveQueue k).dspFlags = s.dspFlags := rfl
@[simp] theorem leaveQueue_opsFlags (s : State) (k : SlotIx) : (s.leaveQueue k).opsFlags = s.opsFlags := rfl
@[simp] theorem leaveQueue_dspMask (s : State) (k : SlotIx) : (s.leaveQueue k).dspMask = s.dspMask := rfl
@[simp] theorem leaveQueue_opsMask (s : State) (k : SlotIx) : (s.leaveQueue k).opsMask = s.opsMask := rfl
@[simp] theorem leaveQueue_gwyMask (s : State) (k : SlotIx) : (s.leaveQueue k).gwyMask = s.gwyMask := rfl
@[simp] theorem leaveQueue_dspResult (s : State) (k : SlotIx) : (s.leaveQueue k).dspResult = s.dspResult := rfl
@[simp] theorem leaveQueue_opsResult (s : State) (k : SlotIx) : (s.leaveQueue k).opsResult = s.opsResult := rfl
@[simp] theorem leaveQueue_tuning (s : State) (k : SlotIx) : (s.leaveQueue k).tuning = s.tuning := rfl
@[simp] theorem leaveQueue_staging (s : State) (k : SlotIx) : (s.leaveQueue k).staging = s.staging := rfl
@[simp] theorem leaveQueue_held (s : State) (k : SlotIx) : (s.leaveQueue k).held = s.held := rfl
@[simp] theorem leaveQueue_writeIx (s : State) (k : SlotIx) : (s.leaveQueue k).writeIx = s.writeIx := rfl
@[simp] theorem leaveQueue_readIx (s : State) (k : SlotIx) : (s.leaveQueue k).readIx = s.readIx := rfl

@[simp] theorem markSlotWords_pending (s : State) (k : SlotIx) : (s.markSlotWords k).pending = s.pending := rfl
@[simp] theorem markSlotWords_mem (s : State) (k : SlotIx) : (s.markSlotWords k).mem = s.mem := rfl
@[simp] theorem markSlotWords_badParity (s : State) (k : SlotIx) : (s.markSlotWords k).badParity = s.badParity := rfl
@[simp] theorem markSlotWords_answer (s : State) (k : SlotIx) : (s.markSlotWords k).answer = s.answer := rfl
@[simp] theorem markSlotWords_capture (s : State) (k : SlotIx) : (s.markSlotWords k).capture = s.capture := rfl
@[simp] theorem markSlotWords_lastServed (s : State) (k : SlotIx) : (s.markSlotWords k).lastServed = s.lastServed := rfl
@[simp] theorem markSlotWords_noticeGrant (s : State) (k : SlotIx) : (s.markSlotWords k).noticeGrant = s.noticeGrant := rfl
@[simp] theorem markSlotWords_promo (s : State) (k : SlotIx) : (s.markSlotWords k).promo = s.promo := rfl
@[simp] theorem markSlotWords_lastWritten (s : State) (k : SlotIx) : (s.markSlotWords k).lastWritten = s.lastWritten := rfl
@[simp] theorem markSlotWords_mode (s : State) (k : SlotIx) : (s.markSlotWords k).mode = s.mode := rfl
@[simp] theorem markSlotWords_cause (s : State) (k : SlotIx) : (s.markSlotWords k).cause = s.cause := rfl
@[simp] theorem markSlotWords_siteFault (s : State) (k : SlotIx) : (s.markSlotWords k).siteFault = s.siteFault := rfl
@[simp] theorem markSlotWords_lineHeld (s : State) (k : SlotIx) : (s.markSlotWords k).lineHeld = s.lineHeld := rfl
@[simp] theorem markSlotWords_load (s : State) (k : SlotIx) : (s.markSlotWords k).load = s.load := rfl
@[simp] theorem markSlotWords_ackRestart (s : State) (k : SlotIx) : (s.markSlotWords k).ackRestart = s.ackRestart := rfl
@[simp] theorem markSlotWords_site (s : State) (k : SlotIx) : (s.markSlotWords k).site = s.site := rfl
@[simp] theorem markSlotWords_clock (s : State) (k : SlotIx) : (s.markSlotWords k).clock = s.clock := rfl
@[simp] theorem markSlotWords_segs (s : State) (k : SlotIx) : (s.markSlotWords k).segs = s.segs := rfl
@[simp] theorem markSlotWords_pinch (s : State) (k : SlotIx) : (s.markSlotWords k).pinch = s.pinch := rfl
@[simp] theorem markSlotWords_slots (s : State) (k : SlotIx) : (s.markSlotWords k).slots = s.slots := rfl
@[simp] theorem markSlotWords_queue (s : State) (k : SlotIx) : (s.markSlotWords k).queue = s.queue := rfl
@[simp] theorem markSlotWords_freeing (s : State) (k : SlotIx) : (s.markSlotWords k).freeing = s.freeing := rfl
@[simp] theorem markSlotWords_cells (s : State) (k : SlotIx) : (s.markSlotWords k).cells = s.cells := rfl
@[simp] theorem markSlotWords_scrubbers (s : State) (k : SlotIx) : (s.markSlotWords k).scrubbers = s.scrubbers := rfl
@[simp] theorem markSlotWords_drying (s : State) (k : SlotIx) : (s.markSlotWords k).drying = s.drying := rfl
@[simp] theorem markSlotWords_zones (s : State) (k : SlotIx) : (s.markSlotWords k).zones = s.zones := rfl
@[simp] theorem markSlotWords_dspFlags (s : State) (k : SlotIx) : (s.markSlotWords k).dspFlags = s.dspFlags := rfl
@[simp] theorem markSlotWords_opsFlags (s : State) (k : SlotIx) : (s.markSlotWords k).opsFlags = s.opsFlags := rfl
@[simp] theorem markSlotWords_dspMask (s : State) (k : SlotIx) : (s.markSlotWords k).dspMask = s.dspMask := rfl
@[simp] theorem markSlotWords_opsMask (s : State) (k : SlotIx) : (s.markSlotWords k).opsMask = s.opsMask := rfl
@[simp] theorem markSlotWords_gwyMask (s : State) (k : SlotIx) : (s.markSlotWords k).gwyMask = s.gwyMask := rfl
@[simp] theorem markSlotWords_dspResult (s : State) (k : SlotIx) : (s.markSlotWords k).dspResult = s.dspResult := rfl
@[simp] theorem markSlotWords_opsResult (s : State) (k : SlotIx) : (s.markSlotWords k).opsResult = s.opsResult := rfl
@[simp] theorem markSlotWords_tuning (s : State) (k : SlotIx) : (s.markSlotWords k).tuning = s.tuning := rfl
@[simp] theorem markSlotWords_staging (s : State) (k : SlotIx) : (s.markSlotWords k).staging = s.staging := rfl
@[simp] theorem markSlotWords_held (s : State) (k : SlotIx) : (s.markSlotWords k).held = s.held := rfl
@[simp] theorem markSlotWords_writeIx (s : State) (k : SlotIx) : (s.markSlotWords k).writeIx = s.writeIx := rfl
@[simp] theorem markSlotWords_readIx (s : State) (k : SlotIx) : (s.markSlotWords k).readIx = s.readIx := rfl

@[simp] theorem putDsp_pending (s : State) (v : BitVec 16) : (s.putDsp v).pending = s.pending := rfl
@[simp] theorem putDsp_mem (s : State) (v : BitVec 16) : (s.putDsp v).mem = s.mem := rfl
@[simp] theorem putDsp_badParity (s : State) (v : BitVec 16) : (s.putDsp v).badParity = s.badParity := rfl
@[simp] theorem putDsp_answer (s : State) (v : BitVec 16) : (s.putDsp v).answer = s.answer := rfl
@[simp] theorem putDsp_capture (s : State) (v : BitVec 16) : (s.putDsp v).capture = s.capture := rfl
@[simp] theorem putDsp_lastServed (s : State) (v : BitVec 16) : (s.putDsp v).lastServed = s.lastServed := rfl
@[simp] theorem putDsp_noticeGrant (s : State) (v : BitVec 16) : (s.putDsp v).noticeGrant = s.noticeGrant := rfl
@[simp] theorem putDsp_promo (s : State) (v : BitVec 16) : (s.putDsp v).promo = s.promo := rfl
@[simp] theorem putDsp_lastWritten (s : State) (v : BitVec 16) : (s.putDsp v).lastWritten = s.lastWritten := rfl
@[simp] theorem putDsp_mode (s : State) (v : BitVec 16) : (s.putDsp v).mode = s.mode := rfl
@[simp] theorem putDsp_cause (s : State) (v : BitVec 16) : (s.putDsp v).cause = s.cause := rfl
@[simp] theorem putDsp_siteFault (s : State) (v : BitVec 16) : (s.putDsp v).siteFault = s.siteFault := rfl
@[simp] theorem putDsp_lineHeld (s : State) (v : BitVec 16) : (s.putDsp v).lineHeld = s.lineHeld := rfl
@[simp] theorem putDsp_load (s : State) (v : BitVec 16) : (s.putDsp v).load = s.load := rfl
@[simp] theorem putDsp_ackRestart (s : State) (v : BitVec 16) : (s.putDsp v).ackRestart = s.ackRestart := rfl
@[simp] theorem putDsp_site (s : State) (v : BitVec 16) : (s.putDsp v).site = s.site := rfl
@[simp] theorem putDsp_clock (s : State) (v : BitVec 16) : (s.putDsp v).clock = s.clock := rfl
@[simp] theorem putDsp_segs (s : State) (v : BitVec 16) : (s.putDsp v).segs = s.segs := rfl
@[simp] theorem putDsp_pinch (s : State) (v : BitVec 16) : (s.putDsp v).pinch = s.pinch := rfl
@[simp] theorem putDsp_slots (s : State) (v : BitVec 16) : (s.putDsp v).slots = s.slots := rfl
@[simp] theorem putDsp_queue (s : State) (v : BitVec 16) : (s.putDsp v).queue = s.queue := rfl
@[simp] theorem putDsp_freeing (s : State) (v : BitVec 16) : (s.putDsp v).freeing = s.freeing := rfl
@[simp] theorem putDsp_cells (s : State) (v : BitVec 16) : (s.putDsp v).cells = s.cells := rfl
@[simp] theorem putDsp_scrubbers (s : State) (v : BitVec 16) : (s.putDsp v).scrubbers = s.scrubbers := rfl
@[simp] theorem putDsp_drying (s : State) (v : BitVec 16) : (s.putDsp v).drying = s.drying := rfl
@[simp] theorem putDsp_zones (s : State) (v : BitVec 16) : (s.putDsp v).zones = s.zones := rfl
@[simp] theorem putDsp_opsFlags (s : State) (v : BitVec 16) : (s.putDsp v).opsFlags = s.opsFlags := rfl
@[simp] theorem putDsp_dspMask (s : State) (v : BitVec 16) : (s.putDsp v).dspMask = s.dspMask := rfl
@[simp] theorem putDsp_opsMask (s : State) (v : BitVec 16) : (s.putDsp v).opsMask = s.opsMask := rfl
@[simp] theorem putDsp_gwyMask (s : State) (v : BitVec 16) : (s.putDsp v).gwyMask = s.gwyMask := rfl
@[simp] theorem putDsp_dspResult (s : State) (v : BitVec 16) : (s.putDsp v).dspResult = s.dspResult := rfl
@[simp] theorem putDsp_opsResult (s : State) (v : BitVec 16) : (s.putDsp v).opsResult = s.opsResult := rfl
@[simp] theorem putDsp_tuning (s : State) (v : BitVec 16) : (s.putDsp v).tuning = s.tuning := rfl
@[simp] theorem putDsp_staging (s : State) (v : BitVec 16) : (s.putDsp v).staging = s.staging := rfl
@[simp] theorem putDsp_held (s : State) (v : BitVec 16) : (s.putDsp v).held = s.held := rfl
@[simp] theorem putDsp_writeIx (s : State) (v : BitVec 16) : (s.putDsp v).writeIx = s.writeIx := rfl
@[simp] theorem putDsp_readIx (s : State) (v : BitVec 16) : (s.putDsp v).readIx = s.readIx := rfl

@[simp] theorem putOps_pending (s : State) (v : BitVec 5) : (s.putOps v).pending = s.pending := rfl
@[simp] theorem putOps_mem (s : State) (v : BitVec 5) : (s.putOps v).mem = s.mem := rfl
@[simp] theorem putOps_badParity (s : State) (v : BitVec 5) : (s.putOps v).badParity = s.badParity := rfl
@[simp] theorem putOps_answer (s : State) (v : BitVec 5) : (s.putOps v).answer = s.answer := rfl
@[simp] theorem putOps_capture (s : State) (v : BitVec 5) : (s.putOps v).capture = s.capture := rfl
@[simp] theorem putOps_lastServed (s : State) (v : BitVec 5) : (s.putOps v).lastServed = s.lastServed := rfl
@[simp] theorem putOps_noticeGrant (s : State) (v : BitVec 5) : (s.putOps v).noticeGrant = s.noticeGrant := rfl
@[simp] theorem putOps_promo (s : State) (v : BitVec 5) : (s.putOps v).promo = s.promo := rfl
@[simp] theorem putOps_lastWritten (s : State) (v : BitVec 5) : (s.putOps v).lastWritten = s.lastWritten := rfl
@[simp] theorem putOps_mode (s : State) (v : BitVec 5) : (s.putOps v).mode = s.mode := rfl
@[simp] theorem putOps_cause (s : State) (v : BitVec 5) : (s.putOps v).cause = s.cause := rfl
@[simp] theorem putOps_siteFault (s : State) (v : BitVec 5) : (s.putOps v).siteFault = s.siteFault := rfl
@[simp] theorem putOps_lineHeld (s : State) (v : BitVec 5) : (s.putOps v).lineHeld = s.lineHeld := rfl
@[simp] theorem putOps_load (s : State) (v : BitVec 5) : (s.putOps v).load = s.load := rfl
@[simp] theorem putOps_ackRestart (s : State) (v : BitVec 5) : (s.putOps v).ackRestart = s.ackRestart := rfl
@[simp] theorem putOps_site (s : State) (v : BitVec 5) : (s.putOps v).site = s.site := rfl
@[simp] theorem putOps_clock (s : State) (v : BitVec 5) : (s.putOps v).clock = s.clock := rfl
@[simp] theorem putOps_segs (s : State) (v : BitVec 5) : (s.putOps v).segs = s.segs := rfl
@[simp] theorem putOps_pinch (s : State) (v : BitVec 5) : (s.putOps v).pinch = s.pinch := rfl
@[simp] theorem putOps_slots (s : State) (v : BitVec 5) : (s.putOps v).slots = s.slots := rfl
@[simp] theorem putOps_queue (s : State) (v : BitVec 5) : (s.putOps v).queue = s.queue := rfl
@[simp] theorem putOps_freeing (s : State) (v : BitVec 5) : (s.putOps v).freeing = s.freeing := rfl
@[simp] theorem putOps_cells (s : State) (v : BitVec 5) : (s.putOps v).cells = s.cells := rfl
@[simp] theorem putOps_scrubbers (s : State) (v : BitVec 5) : (s.putOps v).scrubbers = s.scrubbers := rfl
@[simp] theorem putOps_drying (s : State) (v : BitVec 5) : (s.putOps v).drying = s.drying := rfl
@[simp] theorem putOps_zones (s : State) (v : BitVec 5) : (s.putOps v).zones = s.zones := rfl
@[simp] theorem putOps_dspFlags (s : State) (v : BitVec 5) : (s.putOps v).dspFlags = s.dspFlags := rfl
@[simp] theorem putOps_dspMask (s : State) (v : BitVec 5) : (s.putOps v).dspMask = s.dspMask := rfl
@[simp] theorem putOps_opsMask (s : State) (v : BitVec 5) : (s.putOps v).opsMask = s.opsMask := rfl
@[simp] theorem putOps_gwyMask (s : State) (v : BitVec 5) : (s.putOps v).gwyMask = s.gwyMask := rfl
@[simp] theorem putOps_dspResult (s : State) (v : BitVec 5) : (s.putOps v).dspResult = s.dspResult := rfl
@[simp] theorem putOps_opsResult (s : State) (v : BitVec 5) : (s.putOps v).opsResult = s.opsResult := rfl
@[simp] theorem putOps_tuning (s : State) (v : BitVec 5) : (s.putOps v).tuning = s.tuning := rfl
@[simp] theorem putOps_staging (s : State) (v : BitVec 5) : (s.putOps v).staging = s.staging := rfl
@[simp] theorem putOps_held (s : State) (v : BitVec 5) : (s.putOps v).held = s.held := rfl
@[simp] theorem putOps_writeIx (s : State) (v : BitVec 5) : (s.putOps v).writeIx = s.writeIx := rfl
@[simp] theorem putOps_readIx (s : State) (v : BitVec 5) : (s.putOps v).readIx = s.readIx := rfl

@[simp] theorem setDsp_pending (s : State) (f : DspFlag) : (s.setDsp f).pending = s.pending := rfl
@[simp] theorem setDsp_mem (s : State) (f : DspFlag) : (s.setDsp f).mem = s.mem := rfl
@[simp] theorem setDsp_badParity (s : State) (f : DspFlag) : (s.setDsp f).badParity = s.badParity := rfl
@[simp] theorem setDsp_answer (s : State) (f : DspFlag) : (s.setDsp f).answer = s.answer := rfl
@[simp] theorem setDsp_capture (s : State) (f : DspFlag) : (s.setDsp f).capture = s.capture := rfl
@[simp] theorem setDsp_lastServed (s : State) (f : DspFlag) : (s.setDsp f).lastServed = s.lastServed := rfl
@[simp] theorem setDsp_noticeGrant (s : State) (f : DspFlag) : (s.setDsp f).noticeGrant = s.noticeGrant := rfl
@[simp] theorem setDsp_promo (s : State) (f : DspFlag) : (s.setDsp f).promo = s.promo := rfl
@[simp] theorem setDsp_lastWritten (s : State) (f : DspFlag) : (s.setDsp f).lastWritten = s.lastWritten := rfl
@[simp] theorem setDsp_mode (s : State) (f : DspFlag) : (s.setDsp f).mode = s.mode := rfl
@[simp] theorem setDsp_cause (s : State) (f : DspFlag) : (s.setDsp f).cause = s.cause := rfl
@[simp] theorem setDsp_siteFault (s : State) (f : DspFlag) : (s.setDsp f).siteFault = s.siteFault := rfl
@[simp] theorem setDsp_lineHeld (s : State) (f : DspFlag) : (s.setDsp f).lineHeld = s.lineHeld := rfl
@[simp] theorem setDsp_load (s : State) (f : DspFlag) : (s.setDsp f).load = s.load := rfl
@[simp] theorem setDsp_ackRestart (s : State) (f : DspFlag) : (s.setDsp f).ackRestart = s.ackRestart := rfl
@[simp] theorem setDsp_site (s : State) (f : DspFlag) : (s.setDsp f).site = s.site := rfl
@[simp] theorem setDsp_clock (s : State) (f : DspFlag) : (s.setDsp f).clock = s.clock := rfl
@[simp] theorem setDsp_segs (s : State) (f : DspFlag) : (s.setDsp f).segs = s.segs := rfl
@[simp] theorem setDsp_pinch (s : State) (f : DspFlag) : (s.setDsp f).pinch = s.pinch := rfl
@[simp] theorem setDsp_slots (s : State) (f : DspFlag) : (s.setDsp f).slots = s.slots := rfl
@[simp] theorem setDsp_queue (s : State) (f : DspFlag) : (s.setDsp f).queue = s.queue := rfl
@[simp] theorem setDsp_freeing (s : State) (f : DspFlag) : (s.setDsp f).freeing = s.freeing := rfl
@[simp] theorem setDsp_cells (s : State) (f : DspFlag) : (s.setDsp f).cells = s.cells := rfl
@[simp] theorem setDsp_scrubbers (s : State) (f : DspFlag) : (s.setDsp f).scrubbers = s.scrubbers := rfl
@[simp] theorem setDsp_drying (s : State) (f : DspFlag) : (s.setDsp f).drying = s.drying := rfl
@[simp] theorem setDsp_zones (s : State) (f : DspFlag) : (s.setDsp f).zones = s.zones := rfl
@[simp] theorem setDsp_opsFlags (s : State) (f : DspFlag) : (s.setDsp f).opsFlags = s.opsFlags := rfl
@[simp] theorem setDsp_dspMask (s : State) (f : DspFlag) : (s.setDsp f).dspMask = s.dspMask := rfl
@[simp] theorem setDsp_opsMask (s : State) (f : DspFlag) : (s.setDsp f).opsMask = s.opsMask := rfl
@[simp] theorem setDsp_gwyMask (s : State) (f : DspFlag) : (s.setDsp f).gwyMask = s.gwyMask := rfl
@[simp] theorem setDsp_dspResult (s : State) (f : DspFlag) : (s.setDsp f).dspResult = s.dspResult := rfl
@[simp] theorem setDsp_opsResult (s : State) (f : DspFlag) : (s.setDsp f).opsResult = s.opsResult := rfl
@[simp] theorem setDsp_tuning (s : State) (f : DspFlag) : (s.setDsp f).tuning = s.tuning := rfl
@[simp] theorem setDsp_staging (s : State) (f : DspFlag) : (s.setDsp f).staging = s.staging := rfl
@[simp] theorem setDsp_held (s : State) (f : DspFlag) : (s.setDsp f).held = s.held := rfl
@[simp] theorem setDsp_writeIx (s : State) (f : DspFlag) : (s.setDsp f).writeIx = s.writeIx := rfl
@[simp] theorem setDsp_readIx (s : State) (f : DspFlag) : (s.setDsp f).readIx = s.readIx := rfl

@[simp] theorem setOps_pending (s : State) (f : OpsFlag) : (s.setOps f).pending = s.pending := rfl
@[simp] theorem setOps_mem (s : State) (f : OpsFlag) : (s.setOps f).mem = s.mem := rfl
@[simp] theorem setOps_badParity (s : State) (f : OpsFlag) : (s.setOps f).badParity = s.badParity := rfl
@[simp] theorem setOps_answer (s : State) (f : OpsFlag) : (s.setOps f).answer = s.answer := rfl
@[simp] theorem setOps_capture (s : State) (f : OpsFlag) : (s.setOps f).capture = s.capture := rfl
@[simp] theorem setOps_lastServed (s : State) (f : OpsFlag) : (s.setOps f).lastServed = s.lastServed := rfl
@[simp] theorem setOps_noticeGrant (s : State) (f : OpsFlag) : (s.setOps f).noticeGrant = s.noticeGrant := rfl
@[simp] theorem setOps_promo (s : State) (f : OpsFlag) : (s.setOps f).promo = s.promo := rfl
@[simp] theorem setOps_lastWritten (s : State) (f : OpsFlag) : (s.setOps f).lastWritten = s.lastWritten := rfl
@[simp] theorem setOps_mode (s : State) (f : OpsFlag) : (s.setOps f).mode = s.mode := rfl
@[simp] theorem setOps_cause (s : State) (f : OpsFlag) : (s.setOps f).cause = s.cause := rfl
@[simp] theorem setOps_siteFault (s : State) (f : OpsFlag) : (s.setOps f).siteFault = s.siteFault := rfl
@[simp] theorem setOps_lineHeld (s : State) (f : OpsFlag) : (s.setOps f).lineHeld = s.lineHeld := rfl
@[simp] theorem setOps_load (s : State) (f : OpsFlag) : (s.setOps f).load = s.load := rfl
@[simp] theorem setOps_ackRestart (s : State) (f : OpsFlag) : (s.setOps f).ackRestart = s.ackRestart := rfl
@[simp] theorem setOps_site (s : State) (f : OpsFlag) : (s.setOps f).site = s.site := rfl
@[simp] theorem setOps_clock (s : State) (f : OpsFlag) : (s.setOps f).clock = s.clock := rfl
@[simp] theorem setOps_segs (s : State) (f : OpsFlag) : (s.setOps f).segs = s.segs := rfl
@[simp] theorem setOps_pinch (s : State) (f : OpsFlag) : (s.setOps f).pinch = s.pinch := rfl
@[simp] theorem setOps_slots (s : State) (f : OpsFlag) : (s.setOps f).slots = s.slots := rfl
@[simp] theorem setOps_queue (s : State) (f : OpsFlag) : (s.setOps f).queue = s.queue := rfl
@[simp] theorem setOps_freeing (s : State) (f : OpsFlag) : (s.setOps f).freeing = s.freeing := rfl
@[simp] theorem setOps_cells (s : State) (f : OpsFlag) : (s.setOps f).cells = s.cells := rfl
@[simp] theorem setOps_scrubbers (s : State) (f : OpsFlag) : (s.setOps f).scrubbers = s.scrubbers := rfl
@[simp] theorem setOps_drying (s : State) (f : OpsFlag) : (s.setOps f).drying = s.drying := rfl
@[simp] theorem setOps_zones (s : State) (f : OpsFlag) : (s.setOps f).zones = s.zones := rfl
@[simp] theorem setOps_dspFlags (s : State) (f : OpsFlag) : (s.setOps f).dspFlags = s.dspFlags := rfl
@[simp] theorem setOps_dspMask (s : State) (f : OpsFlag) : (s.setOps f).dspMask = s.dspMask := rfl
@[simp] theorem setOps_opsMask (s : State) (f : OpsFlag) : (s.setOps f).opsMask = s.opsMask := rfl
@[simp] theorem setOps_gwyMask (s : State) (f : OpsFlag) : (s.setOps f).gwyMask = s.gwyMask := rfl
@[simp] theorem setOps_dspResult (s : State) (f : OpsFlag) : (s.setOps f).dspResult = s.dspResult := rfl
@[simp] theorem setOps_opsResult (s : State) (f : OpsFlag) : (s.setOps f).opsResult = s.opsResult := rfl
@[simp] theorem setOps_tuning (s : State) (f : OpsFlag) : (s.setOps f).tuning = s.tuning := rfl
@[simp] theorem setOps_staging (s : State) (f : OpsFlag) : (s.setOps f).staging = s.staging := rfl
@[simp] theorem setOps_held (s : State) (f : OpsFlag) : (s.setOps f).held = s.held := rfl
@[simp] theorem setOps_writeIx (s : State) (f : OpsFlag) : (s.setOps f).writeIx = s.writeIx := rfl
@[simp] theorem setOps_readIx (s : State) (f : OpsFlag) : (s.setOps f).readIx = s.readIx := rfl

@[simp] theorem setDspMask_pending (s : State) (v : Word) : (s.setDspMask v).pending = s.pending := rfl
@[simp] theorem setDspMask_mem (s : State) (v : Word) : (s.setDspMask v).mem = s.mem := rfl
@[simp] theorem setDspMask_badParity (s : State) (v : Word) : (s.setDspMask v).badParity = s.badParity := rfl
@[simp] theorem setDspMask_answer (s : State) (v : Word) : (s.setDspMask v).answer = s.answer := rfl
@[simp] theorem setDspMask_capture (s : State) (v : Word) : (s.setDspMask v).capture = s.capture := rfl
@[simp] theorem setDspMask_lastServed (s : State) (v : Word) : (s.setDspMask v).lastServed = s.lastServed := rfl
@[simp] theorem setDspMask_noticeGrant (s : State) (v : Word) : (s.setDspMask v).noticeGrant = s.noticeGrant := rfl
@[simp] theorem setDspMask_promo (s : State) (v : Word) : (s.setDspMask v).promo = s.promo := rfl
@[simp] theorem setDspMask_lastWritten (s : State) (v : Word) : (s.setDspMask v).lastWritten = s.lastWritten := rfl
@[simp] theorem setDspMask_mode (s : State) (v : Word) : (s.setDspMask v).mode = s.mode := rfl
@[simp] theorem setDspMask_cause (s : State) (v : Word) : (s.setDspMask v).cause = s.cause := rfl
@[simp] theorem setDspMask_siteFault (s : State) (v : Word) : (s.setDspMask v).siteFault = s.siteFault := rfl
@[simp] theorem setDspMask_lineHeld (s : State) (v : Word) : (s.setDspMask v).lineHeld = s.lineHeld := rfl
@[simp] theorem setDspMask_load (s : State) (v : Word) : (s.setDspMask v).load = s.load := rfl
@[simp] theorem setDspMask_ackRestart (s : State) (v : Word) : (s.setDspMask v).ackRestart = s.ackRestart := rfl
@[simp] theorem setDspMask_site (s : State) (v : Word) : (s.setDspMask v).site = s.site := rfl
@[simp] theorem setDspMask_clock (s : State) (v : Word) : (s.setDspMask v).clock = s.clock := rfl
@[simp] theorem setDspMask_segs (s : State) (v : Word) : (s.setDspMask v).segs = s.segs := rfl
@[simp] theorem setDspMask_pinch (s : State) (v : Word) : (s.setDspMask v).pinch = s.pinch := rfl
@[simp] theorem setDspMask_slots (s : State) (v : Word) : (s.setDspMask v).slots = s.slots := rfl
@[simp] theorem setDspMask_queue (s : State) (v : Word) : (s.setDspMask v).queue = s.queue := rfl
@[simp] theorem setDspMask_freeing (s : State) (v : Word) : (s.setDspMask v).freeing = s.freeing := rfl
@[simp] theorem setDspMask_cells (s : State) (v : Word) : (s.setDspMask v).cells = s.cells := rfl
@[simp] theorem setDspMask_scrubbers (s : State) (v : Word) : (s.setDspMask v).scrubbers = s.scrubbers := rfl
@[simp] theorem setDspMask_drying (s : State) (v : Word) : (s.setDspMask v).drying = s.drying := rfl
@[simp] theorem setDspMask_zones (s : State) (v : Word) : (s.setDspMask v).zones = s.zones := rfl
@[simp] theorem setDspMask_dspFlags (s : State) (v : Word) : (s.setDspMask v).dspFlags = s.dspFlags := rfl
@[simp] theorem setDspMask_opsFlags (s : State) (v : Word) : (s.setDspMask v).opsFlags = s.opsFlags := rfl
@[simp] theorem setDspMask_opsMask (s : State) (v : Word) : (s.setDspMask v).opsMask = s.opsMask := rfl
@[simp] theorem setDspMask_gwyMask (s : State) (v : Word) : (s.setDspMask v).gwyMask = s.gwyMask := rfl
@[simp] theorem setDspMask_dspResult (s : State) (v : Word) : (s.setDspMask v).dspResult = s.dspResult := rfl
@[simp] theorem setDspMask_opsResult (s : State) (v : Word) : (s.setDspMask v).opsResult = s.opsResult := rfl
@[simp] theorem setDspMask_tuning (s : State) (v : Word) : (s.setDspMask v).tuning = s.tuning := rfl
@[simp] theorem setDspMask_staging (s : State) (v : Word) : (s.setDspMask v).staging = s.staging := rfl
@[simp] theorem setDspMask_held (s : State) (v : Word) : (s.setDspMask v).held = s.held := rfl
@[simp] theorem setDspMask_writeIx (s : State) (v : Word) : (s.setDspMask v).writeIx = s.writeIx := rfl
@[simp] theorem setDspMask_readIx (s : State) (v : Word) : (s.setDspMask v).readIx = s.readIx := rfl

@[simp] theorem setOpsMask_pending (s : State) (v : Word) : (s.setOpsMask v).pending = s.pending := rfl
@[simp] theorem setOpsMask_mem (s : State) (v : Word) : (s.setOpsMask v).mem = s.mem := rfl
@[simp] theorem setOpsMask_badParity (s : State) (v : Word) : (s.setOpsMask v).badParity = s.badParity := rfl
@[simp] theorem setOpsMask_answer (s : State) (v : Word) : (s.setOpsMask v).answer = s.answer := rfl
@[simp] theorem setOpsMask_capture (s : State) (v : Word) : (s.setOpsMask v).capture = s.capture := rfl
@[simp] theorem setOpsMask_lastServed (s : State) (v : Word) : (s.setOpsMask v).lastServed = s.lastServed := rfl
@[simp] theorem setOpsMask_noticeGrant (s : State) (v : Word) : (s.setOpsMask v).noticeGrant = s.noticeGrant := rfl
@[simp] theorem setOpsMask_promo (s : State) (v : Word) : (s.setOpsMask v).promo = s.promo := rfl
@[simp] theorem setOpsMask_lastWritten (s : State) (v : Word) : (s.setOpsMask v).lastWritten = s.lastWritten := rfl
@[simp] theorem setOpsMask_mode (s : State) (v : Word) : (s.setOpsMask v).mode = s.mode := rfl
@[simp] theorem setOpsMask_cause (s : State) (v : Word) : (s.setOpsMask v).cause = s.cause := rfl
@[simp] theorem setOpsMask_siteFault (s : State) (v : Word) : (s.setOpsMask v).siteFault = s.siteFault := rfl
@[simp] theorem setOpsMask_lineHeld (s : State) (v : Word) : (s.setOpsMask v).lineHeld = s.lineHeld := rfl
@[simp] theorem setOpsMask_load (s : State) (v : Word) : (s.setOpsMask v).load = s.load := rfl
@[simp] theorem setOpsMask_ackRestart (s : State) (v : Word) : (s.setOpsMask v).ackRestart = s.ackRestart := rfl
@[simp] theorem setOpsMask_site (s : State) (v : Word) : (s.setOpsMask v).site = s.site := rfl
@[simp] theorem setOpsMask_clock (s : State) (v : Word) : (s.setOpsMask v).clock = s.clock := rfl
@[simp] theorem setOpsMask_segs (s : State) (v : Word) : (s.setOpsMask v).segs = s.segs := rfl
@[simp] theorem setOpsMask_pinch (s : State) (v : Word) : (s.setOpsMask v).pinch = s.pinch := rfl
@[simp] theorem setOpsMask_slots (s : State) (v : Word) : (s.setOpsMask v).slots = s.slots := rfl
@[simp] theorem setOpsMask_queue (s : State) (v : Word) : (s.setOpsMask v).queue = s.queue := rfl
@[simp] theorem setOpsMask_freeing (s : State) (v : Word) : (s.setOpsMask v).freeing = s.freeing := rfl
@[simp] theorem setOpsMask_cells (s : State) (v : Word) : (s.setOpsMask v).cells = s.cells := rfl
@[simp] theorem setOpsMask_scrubbers (s : State) (v : Word) : (s.setOpsMask v).scrubbers = s.scrubbers := rfl
@[simp] theorem setOpsMask_drying (s : State) (v : Word) : (s.setOpsMask v).drying = s.drying := rfl
@[simp] theorem setOpsMask_zones (s : State) (v : Word) : (s.setOpsMask v).zones = s.zones := rfl
@[simp] theorem setOpsMask_dspFlags (s : State) (v : Word) : (s.setOpsMask v).dspFlags = s.dspFlags := rfl
@[simp] theorem setOpsMask_opsFlags (s : State) (v : Word) : (s.setOpsMask v).opsFlags = s.opsFlags := rfl
@[simp] theorem setOpsMask_dspMask (s : State) (v : Word) : (s.setOpsMask v).dspMask = s.dspMask := rfl
@[simp] theorem setOpsMask_gwyMask (s : State) (v : Word) : (s.setOpsMask v).gwyMask = s.gwyMask := rfl
@[simp] theorem setOpsMask_dspResult (s : State) (v : Word) : (s.setOpsMask v).dspResult = s.dspResult := rfl
@[simp] theorem setOpsMask_opsResult (s : State) (v : Word) : (s.setOpsMask v).opsResult = s.opsResult := rfl
@[simp] theorem setOpsMask_tuning (s : State) (v : Word) : (s.setOpsMask v).tuning = s.tuning := rfl
@[simp] theorem setOpsMask_staging (s : State) (v : Word) : (s.setOpsMask v).staging = s.staging := rfl
@[simp] theorem setOpsMask_held (s : State) (v : Word) : (s.setOpsMask v).held = s.held := rfl
@[simp] theorem setOpsMask_writeIx (s : State) (v : Word) : (s.setOpsMask v).writeIx = s.writeIx := rfl
@[simp] theorem setOpsMask_readIx (s : State) (v : Word) : (s.setOpsMask v).readIx = s.readIx := rfl

@[simp] theorem setGwyMask_pending (s : State) (v : Word) : (s.setGwyMask v).pending = s.pending := rfl
@[simp] theorem setGwyMask_mem (s : State) (v : Word) : (s.setGwyMask v).mem = s.mem := rfl
@[simp] theorem setGwyMask_badParity (s : State) (v : Word) : (s.setGwyMask v).badParity = s.badParity := rfl
@[simp] theorem setGwyMask_answer (s : State) (v : Word) : (s.setGwyMask v).answer = s.answer := rfl
@[simp] theorem setGwyMask_capture (s : State) (v : Word) : (s.setGwyMask v).capture = s.capture := rfl
@[simp] theorem setGwyMask_lastServed (s : State) (v : Word) : (s.setGwyMask v).lastServed = s.lastServed := rfl
@[simp] theorem setGwyMask_noticeGrant (s : State) (v : Word) : (s.setGwyMask v).noticeGrant = s.noticeGrant := rfl
@[simp] theorem setGwyMask_promo (s : State) (v : Word) : (s.setGwyMask v).promo = s.promo := rfl
@[simp] theorem setGwyMask_lastWritten (s : State) (v : Word) : (s.setGwyMask v).lastWritten = s.lastWritten := rfl
@[simp] theorem setGwyMask_mode (s : State) (v : Word) : (s.setGwyMask v).mode = s.mode := rfl
@[simp] theorem setGwyMask_cause (s : State) (v : Word) : (s.setGwyMask v).cause = s.cause := rfl
@[simp] theorem setGwyMask_siteFault (s : State) (v : Word) : (s.setGwyMask v).siteFault = s.siteFault := rfl
@[simp] theorem setGwyMask_lineHeld (s : State) (v : Word) : (s.setGwyMask v).lineHeld = s.lineHeld := rfl
@[simp] theorem setGwyMask_load (s : State) (v : Word) : (s.setGwyMask v).load = s.load := rfl
@[simp] theorem setGwyMask_ackRestart (s : State) (v : Word) : (s.setGwyMask v).ackRestart = s.ackRestart := rfl
@[simp] theorem setGwyMask_site (s : State) (v : Word) : (s.setGwyMask v).site = s.site := rfl
@[simp] theorem setGwyMask_clock (s : State) (v : Word) : (s.setGwyMask v).clock = s.clock := rfl
@[simp] theorem setGwyMask_segs (s : State) (v : Word) : (s.setGwyMask v).segs = s.segs := rfl
@[simp] theorem setGwyMask_pinch (s : State) (v : Word) : (s.setGwyMask v).pinch = s.pinch := rfl
@[simp] theorem setGwyMask_slots (s : State) (v : Word) : (s.setGwyMask v).slots = s.slots := rfl
@[simp] theorem setGwyMask_queue (s : State) (v : Word) : (s.setGwyMask v).queue = s.queue := rfl
@[simp] theorem setGwyMask_freeing (s : State) (v : Word) : (s.setGwyMask v).freeing = s.freeing := rfl
@[simp] theorem setGwyMask_cells (s : State) (v : Word) : (s.setGwyMask v).cells = s.cells := rfl
@[simp] theorem setGwyMask_scrubbers (s : State) (v : Word) : (s.setGwyMask v).scrubbers = s.scrubbers := rfl
@[simp] theorem setGwyMask_drying (s : State) (v : Word) : (s.setGwyMask v).drying = s.drying := rfl
@[simp] theorem setGwyMask_zones (s : State) (v : Word) : (s.setGwyMask v).zones = s.zones := rfl
@[simp] theorem setGwyMask_dspFlags (s : State) (v : Word) : (s.setGwyMask v).dspFlags = s.dspFlags := rfl
@[simp] theorem setGwyMask_opsFlags (s : State) (v : Word) : (s.setGwyMask v).opsFlags = s.opsFlags := rfl
@[simp] theorem setGwyMask_dspMask (s : State) (v : Word) : (s.setGwyMask v).dspMask = s.dspMask := rfl
@[simp] theorem setGwyMask_opsMask (s : State) (v : Word) : (s.setGwyMask v).opsMask = s.opsMask := rfl
@[simp] theorem setGwyMask_dspResult (s : State) (v : Word) : (s.setGwyMask v).dspResult = s.dspResult := rfl
@[simp] theorem setGwyMask_opsResult (s : State) (v : Word) : (s.setGwyMask v).opsResult = s.opsResult := rfl
@[simp] theorem setGwyMask_tuning (s : State) (v : Word) : (s.setGwyMask v).tuning = s.tuning := rfl
@[simp] theorem setGwyMask_staging (s : State) (v : Word) : (s.setGwyMask v).staging = s.staging := rfl
@[simp] theorem setGwyMask_held (s : State) (v : Word) : (s.setGwyMask v).held = s.held := rfl
@[simp] theorem setGwyMask_writeIx (s : State) (v : Word) : (s.setGwyMask v).writeIx = s.writeIx := rfl
@[simp] theorem setGwyMask_readIx (s : State) (v : Word) : (s.setGwyMask v).readIx = s.readIx := rfl

end Sys2Proof.Machine
end

