-- ==== Sys2Proof/Laws/Memory.lean ====
section
/-! SUPPORT. Plan memory: the canonical form is kept by every write, and what a read finds after a write. -/
namespace Sys2Proof.Machine
open Sys2Proof

theorem memWf_cons (a : Nat) (v : Byte) (t : List Host.Cell) :
    memWf ((a, v) :: t) = true ↔ v ≠ Config.powerOnByte ∧ (∀ c ∈ t, a < c.1) ∧ memWf t = true := by
  simp [memWf, and_assoc]

/-- Every entry of a memory after a write is the written one or was there. -/
theorem mem_memSet (a : Nat) (v : Byte) (m : List Host.Cell) (c : Host.Cell) (h : c ∈ memSet a v m) :
    c = (a, v) ∨ c ∈ m := by
  induction m with
  | nil =>
    simp only [memSet] at h
    split at h <;> simp_all
  | cons d t ih =>
    obtain ⟨b, w⟩ := d
    simp only [memSet] at h
    split at h
    · split at h
      · exact Or.inr h
      · rcases List.mem_cons.1 h with e | e
        · exact Or.inl e
        · exact Or.inr e
    · split at h
      · split at h
        · exact Or.inr (List.mem_cons_of_mem _ h)
        · rcases List.mem_cons.1 h with e | e
          · exact Or.inl e
          · exact Or.inr (List.mem_cons_of_mem _ e)
      · rcases List.mem_cons.1 h with e | e
        · subst e; exact Or.inr (List.mem_cons_self ..)
        · rcases ih e with e' | e'
          · exact Or.inl e'
          · exact Or.inr (List.mem_cons_of_mem _ e')

/-- A byte write keeps the canonical form. -/
theorem memWf_memSet (a : Nat) (v : Byte) (m : List Host.Cell) (h : memWf m = true) : memWf (memSet a v m) = true := by
  induction m with
  | nil =>
    simp only [memSet]
    split
    · rfl
    · simp_all [memWf]
  | cons d t ih =>
    obtain ⟨b, w⟩ := d
    obtain ⟨hw, hb, ht⟩ := (memWf_cons b w t).1 h
    simp only [memSet]
    split
    · rename_i hab
      split
      · exact h
      · rename_i hv
        refine (memWf_cons _ _ _).2 ⟨hv, ?_, h⟩
        intro c hc
        rcases List.mem_cons.1 hc with e | e
        · subst e; exact hab
        · exact Nat.lt_trans hab (hb c e)
    · split
      · rename_i _ hab
        subst hab
        split
        · exact ht
        · rename_i hv
          exact (memWf_cons _ _ _).2 ⟨hv, hb, ht⟩
      · rename_i h1 h2
        refine (memWf_cons _ _ _).2 ⟨hw, ?_, ih ht⟩
        intro c hc
        rcases mem_memSet a v t c hc with e | e
        · subst e; simp only; omega
        · exact hb c e

/-- An address below every listed one reads as unwritten. -/
theorem memByte_below (m : List Host.Cell) (a : Nat) (h : ∀ c ∈ m, a < c.1) : memByte m a = Config.powerOnByte := by
  induction m with
  | nil => rfl
  | cons d t ih =>
    obtain ⟨b, w⟩ := d
    have hb : a < b := h (b, w) (List.mem_cons_self ..)
    simp only [memByte]
    rw [if_neg (by omega)]
    exact ih (fun c hc => h c (List.mem_cons_of_mem _ hc))

/-- The written byte reads back. -/
theorem memByte_memSet_same (a : Nat) (v : Byte) (m : List Host.Cell) (h : memWf m = true) :
    memByte (memSet a v m) a = v := by
  induction m with
  | nil =>
    simp only [memSet]
    split
    · rename_i hv; subst hv; rfl
    · simp [memByte]
  | cons d t ih =>
    obtain ⟨b, w⟩ := d
    obtain ⟨_, hb, ht⟩ := (memWf_cons b w t).1 h
    simp only [memSet]
    split
    · rename_i hab
      split
      · rename_i hv
        rw [hv]
        refine memByte_below _ _ ?_
        intro c hc
        rcases List.mem_cons.1 hc with e | e
        · subst e; exact hab
        · exact Nat.lt_trans hab (hb c e)
      · simp [memByte]
    · split
      · rename_i _ hab
        subst hab
        split
        · rename_i hv
          rw [hv]; exact memByte_below _ _ hb
        · simp [memByte]
      · rename_i h1 h2
        simp only [memByte]
        rw [if_neg (fun e => h2 e.symm)]
        exact ih ht

/-- Every other byte reads as before. -/
theorem memByte_memSet_other (a b : Nat) (v : Byte) (m : List Host.Cell) (h : memWf m = true) (ne : b ≠ a) :
    memByte (memSet a v m) b = memByte m b := by
  induction m with
  | nil =>
    simp only [memSet]
    split
    · rfl
    · simp [memByte, Ne.symm ne]
  | cons d t ih =>
    obtain ⟨c, w⟩ := d
    obtain ⟨_, hb, ht⟩ := (memWf_cons c w t).1 h
    simp only [memSet]
    split
    · split
      · rfl
      · simp [memByte, Ne.symm ne]
    · split
      · rename_i _ hac
        subst hac
        split
        · simp [memByte, Ne.symm ne]
        · simp [memByte, Ne.symm ne]
      · simp only [memByte]
        split
        · rfl
        · exact ih ht

/-- A word write keeps the canonical form. -/
theorem memWf_memSetWord (a : Nat) (w : Word) (m : List Host.Cell) (h : memWf m = true) :
    memWf (memSetWord a w m) = true :=
  memWf_memSet _ _ _ (memWf_memSet _ _ _ (memWf_memSet _ _ _ (memWf_memSet _ _ _ h)))

/-- The bytes of a word after it is written. -/
theorem memByte_memSetWord (a : Nat) (w : Word) (m : List Host.Cell) (h : memWf m = true) (b : Nat) :
    memByte (memSetWord a w m) b =
      if b = 4 * a + 3 then byteAt w 3 else if b = 4 * a + 2 then byteAt w 2 else if b = 4 * a + 1 then byteAt w 1
      else if b = 4 * a then byteAt w 0 else memByte m b := by
  have h0 := memWf_memSet (4 * a) (byteAt w 0) m h
  have h1 := memWf_memSet (4 * a + 1) (byteAt w 1) _ h0
  have h2 := memWf_memSet (4 * a + 2) (byteAt w 2) _ h1
  unfold memSetWord
  split
  · rename_i e; subst e; exact memByte_memSet_same _ _ _ h2
  · rename_i n3
    rw [memByte_memSet_other _ _ _ _ h2 n3]
    split
    · rename_i e; subst e; exact memByte_memSet_same _ _ _ h1
    · rename_i n2
      rw [memByte_memSet_other _ _ _ _ h1 n2]
      split
      · rename_i e; subst e; exact memByte_memSet_same _ _ _ h0
      · rename_i n1
        rw [memByte_memSet_other _ _ _ _ h0 n1]
        split
        · rename_i e; subst e; exact memByte_memSet_same _ _ _ h
        · rename_i n0
          exact memByte_memSet_other _ _ _ _ h n0

theorem word_of_bytes (w : Word) : byteAt w 3 ++ byteAt w 2 ++ byteAt w 1 ++ byteAt w 0 = w := by
  apply BitVec.eq_of_getLsbD_eq
  intro i hi
  simp only [byteAt, BitVec.getLsbD_append, BitVec.getLsbD_extractLsb']
  by_cases h0 : i < 8
  · simp [h0]
  · by_cases h1 : i - 8 < 8
    · simp [h0, h1]; congr 1; omega
    · by_cases h2 : i - 8 - 8 < 8
      · simp [h0, h1, h2]; congr 1; omega
      · have h3 : i - 8 - 8 - 8 < 8 := by omega
        simp [h0, h1, h2, h3]; congr 1; omega

/-- The written word reads back. -/
theorem memWord_memSetWord_same (a : Nat) (w : Word) (m : List Host.Cell) (h : memWf m = true) :
    memWord (memSetWord a w m) a = w := by
  have e1 : ¬ (4 * a + 2 = 4 * a + 3) := by omega
  have e2 : ¬ (4 * a + 1 = 4 * a + 3) := by omega
  have e3 : ¬ (4 * a + 1 = 4 * a + 2) := by omega
  have e4 : ¬ (4 * a = 4 * a + 3) := by omega
  have e5 : ¬ (4 * a = 4 * a + 2) := by omega
  have e6 : ¬ (4 * a = 4 * a + 1) := by omega
  unfold memWord
  simp only [memByte_memSetWord a w m h, if_true, if_neg e1, if_neg e2, if_neg e3, if_neg e4, if_neg e5, if_neg e6]
  exact word_of_bytes w

/-- A byte of another word reads as before. -/
theorem memByte_memSetWord_other (a b : Nat) (w : Word) (m : List Host.Cell) (h : memWf m = true) (ne : b / 4 ≠ a) :
    memByte (memSetWord a w m) b = memByte m b := by
  have far : ∀ i, i < 4 → b ≠ 4 * a + i := fun i hi e => ne (by omega)
  have d0 : b ≠ 4 * a := far 0 (by omega)
  simp only [memByte_memSetWord a w m h, if_neg d0, if_neg (far 1 (by omega)), if_neg (far 2 (by omega)),
    if_neg (far 3 (by omega))]

/-- Every other word reads as before. -/
theorem memWord_memSetWord_other (a b : Nat) (w : Word) (m : List Host.Cell) (h : memWf m = true) (ne : b ≠ a) :
    memWord (memSetWord a w m) b = memWord m b := by
  have same : ∀ i, i < 4 → memByte (memSetWord a w m) (4 * b + i) = memByte m (4 * b + i) :=
    fun i hi => memByte_memSetWord_other a (4 * b + i) w m h (by omega)
  have s0 : memByte (memSetWord a w m) (4 * b) = memByte m (4 * b) := same 0 (by omega)
  simp only [memWord, s0, same 1 (by omega), same 2 (by omega), same 3 (by omega)]

/-- A word write of the part keeps the canonical form. -/
theorem memWf_writeWord (s : State) (a : BitVec 18) (w : Word) (h : memWf s.mem = true) :
    memWf (s.writeWord a w).mem = true := memWf_memSetWord _ _ _ h

theorem readWord_writeWord_same (s : State) (a : BitVec 18) (w : Word) (h : memWf s.mem = true) :
    (s.writeWord a w).readWord a = w := memWord_memSetWord_same _ _ _ h

theorem readWord_writeWord_other (s : State) (a b : BitVec 18) (w : Word) (h : memWf s.mem = true) (ne : b ≠ a) :
    (s.writeWord a w).readWord b = s.readWord b :=
  memWord_memSetWord_other _ _ _ _ h (fun e => ne (BitVec.eq_of_toNat_eq e))

/-- A word written has good parity, and no other word's parity has changed. -/
theorem wordBad_writeWord (s : State) (a b : BitVec 18) (w : Word) :
    (s.writeWord a w).wordBad b = if b = a then false else s.wordBad b := by
  unfold State.wordBad State.writeWord
  rw [List.any_filter]
  by_cases e : b = a
  · subst e
    simp
  · have ne : b.toNat ≠ a.toNat := fun h => e (BitVec.eq_of_toNat_eq h)
    simp only [e, if_false]
    congr 1
    funext x
    by_cases h : x / 4 = b.toNat
    · simp [h, ne]
    · simp [h]

@[simp] theorem writeWords_nil (s : State) : s.writeWords [] = s := rfl

@[simp] theorem writeWords_cons (s : State) (p : BitVec 18 × Word) (l : List (BitVec 18 × Word)) :
    s.writeWords (p :: l) = (s.writeWord p.1 p.2).writeWords l := rfl

/-- Writes of words keep the canonical form. -/
theorem memWf_writeWords (l : List (BitVec 18 × Word)) (s : State) (h : memWf s.mem = true) :
    memWf (s.writeWords l).mem = true := by
  induction l generalizing s with
  | nil => exact h
  | cons p l ih => exact ih _ (memWf_writeWord s p.1 p.2 h)

/-- A word that no write names reads as before. -/
theorem readWord_writeWords_other (l : List (BitVec 18 × Word)) (s : State) (h : memWf s.mem = true) (b : BitVec 18)
    (hb : ∀ p ∈ l, p.1 ≠ b) : (s.writeWords l).readWord b = s.readWord b := by
  induction l generalizing s with
  | nil => rfl
  | cons p l ih =>
    rw [writeWords_cons, ih _ (memWf_writeWord s p.1 p.2 h) (fun q hq => hb q (List.mem_cons_of_mem _ hq)),
      readWord_writeWord_other s p.1 b p.2 h (fun e => hb p (List.mem_cons_self ..) e.symm)]

/-- Writes of words change plan memory and its parity, and nothing else. -/
theorem writeWords_eq (l : List (BitVec 18 × Word)) (s : State) :
    s.writeWords l = { s with mem := (s.writeWords l).mem, badParity := (s.writeWords l).badParity } := by
  induction l generalizing s with
  | nil => rfl
  | cons p l ih => rw [writeWords_cons]; exact ih (s.writeWord p.1 p.2)

end Sys2Proof.Machine
end

