-- ==== Sys2Proof/Laws/Port.lean ====
section
/-! SUPPORT. The memory port: what the arbiter's operations can do, and that an access finds the port its own once the
grants before it have ended (R33). -/
namespace Sys2Proof.Machine
open Sys2Proof

/-! ### What each operation can do -/

/-- The arbiter gives the notice writer its grant, or does nothing. -/
theorem arbitrate_cases (s : State) :
    s.arbitrate = s ∨ ∃ n, s.held = some n ∧ s.noticeGrant = none
      ∧ s.arbitrate = { s with
          noticeGrant := some { notice := n, start := s.writeIx, publish := true }, lastServed := .notice } := by
  unfold State.arbitrate
  split
  · rename_i c
    simp only [Bool.and_eq_true, Option.isNone_iff_eq_none] at c
    cases hh : s.held with
    | none => left; simp [State.beginGrant, hh]
    | some n => right; exact ⟨n, rfl, c.1, by simp [State.beginGrant, hh, State.served]⟩
  · left; rfl

/-- The arbiter touches the grant and the last requester served, and nothing else. -/
theorem arbitrate_eq (s : State) :
    s.arbitrate = { s with noticeGrant := s.arbitrate.noticeGrant, lastServed := s.arbitrate.lastServed } := by
  rcases arbitrate_cases s with h | ⟨n, _, _, h⟩
  · rw [h]
  · rw [h]

/-- A writer's record is taken and written, or there is none. -/
theorem mirrorGrant_cases (s : State) :
    (s.nextRecord = none ∧ s.mirrorGrant = s)
      ∨ ∃ r, s.nextRecord = some r ∧ s.mirrorGrant = ((s.takeRecord r).writeWords (s.recordWords r)).served .mirror := by
  unfold State.mirrorGrant
  cases s.nextRecord <;> simp

/-- The end of a grant: nothing, or the words alone, or the words and the publication. -/
theorem endGrant_cases (s : State) :
    (s.noticeGrant = none ∧ s.endGrant = s)
      ∨ ∃ g, s.noticeGrant = some g
        ∧ s.endGrant = (if g.publish then (({ s with noticeGrant := none } : State).writeWords g.words).publish
            else ({ s with noticeGrant := none } : State).writeWords g.words) := by
  unfold State.endGrant
  cases s.noticeGrant <;> simp

/-! ### The turn of an access -/

/-- At a ready port nothing comes before an access. -/
theorem serveAhead_ready (s : State) (h : s.portReady = true) : s.serveAhead = s := by
  simp only [State.portReady, Bool.and_eq_true, decide_eq_true_eq] at h
  simp [State.serveAhead, h.2]

theorem endGrant_free (s : State) (h : s.noticeGrant = none) : s.endGrant = s := by simp [State.endGrant, h]

theorem portReady_free (s : State) (h : s.portReady = true) : s.noticeGrant = none := by
  simp only [State.portReady, Bool.and_eq_true, Option.isNone_iff_eq_none] at h
  exact h.1

/-- An access that finds the port its own waits for nothing. -/
theorem awaitPort_ready (s : State) (h : s.portReady = true) : s.awaitPort = s := by
  simp only [State.awaitPort, endGrant_free s (portReady_free s h), serveAhead_ready s h]

@[simp] theorem writeWords_noticeGrant (l : List (BitVec 18 × Word)) (s : State) :
    (s.writeWords l).noticeGrant = s.noticeGrant := by
  unfold State.writeWords
  induction l generalizing s with
  | nil => rfl
  | cons p l ih => simp [ih]

@[simp] theorem writeWords_lastServed (l : List (BitVec 18 × Word)) (s : State) :
    (s.writeWords l).lastServed = s.lastServed := by
  unfold State.writeWords
  induction l generalizing s with
  | nil => rfl
  | cons p l ih => simp [ih]

@[simp] theorem publish_noticeGrant (s : State) : s.publish.noticeGrant = s.noticeGrant := by
  unfold State.publish State.judgeThreshold
  cases s.held <;> simp
  split <;> simp

@[simp] theorem publish_lastServed (s : State) : s.publish.lastServed = s.lastServed := by
  unfold State.publish State.judgeThreshold
  cases s.held <;> simp
  split <;> simp

theorem endGrant_lastServed (s : State) : s.endGrant.lastServed = s.lastServed := by
  rcases endGrant_cases s with ⟨_, h⟩ | ⟨g, _, h⟩
  · rw [h]
  · rw [h]; split <;> simp

/-- When a grant has ended the port is free. -/
theorem endGrant_noticeGrant (s : State) : s.endGrant.noticeGrant = none := by
  rcases endGrant_cases s with ⟨h0, h⟩ | ⟨g, _, h⟩
  · rw [h, h0]
  · rw [h]; split <;> simp

theorem mirrorGrant_noticeGrant (s : State) : s.mirrorGrant.noticeGrant = s.noticeGrant := by
  rcases mirrorGrant_cases s with ⟨_, h⟩ | ⟨r, _, h⟩
  · rw [h]
  · rw [h]; simp [State.takeRecord]

theorem mirrorGrant_lastServed (s : State) (h : s.nextRecord.isSome = true) : s.mirrorGrant.lastServed = .mirror := by
  obtain ⟨r, hr⟩ := Option.isSome_iff_exists.mp h
  simp [State.mirrorGrant, hr]

theorem beginGrant_lastServed (s : State) (h : s.held.isSome = true) : s.beginGrant.endGrant.lastServed = .notice := by
  obtain ⟨n, hn⟩ := Option.isSome_iff_exists.mp h
  rw [endGrant_lastServed]
  simp [State.beginGrant, hn]

/-- Who comes next when an access waits: the round robin, by the last requester served. -/
theorem grantNext_passage (s : State) : s.grantNext (.passage :: s.portWaiters)
    = match s.lastServed with
      | .notice => some .passage
      | .mirror => if s.noticeWaits then some .notice else some .passage
      | .passage => if s.mirrorWaits then some .mirror else if s.noticeWaits then some .notice else some .passage := by
  unfold State.grantNext State.portWaiters
  cases s.lastServed <;> cases s.mirrorWaits <;> cases s.noticeWaits <;> rfl

theorem serveAhead_noticeGrant (s : State) (h : s.noticeGrant = none) : s.serveAhead.noticeGrant = none := by
  unfold State.serveAhead
  split
  · rw [mirrorGrant_noticeGrant, h]
  · exact endGrant_noticeGrant _
  · exact h
  · exact h

/-- After the grants that come before it an access finds the port its own. -/
theorem awaitPort_portReady (s : State) : s.awaitPort.portReady = true := by
  have step : ∀ u : State, u.noticeGrant = none → u.serveAhead.portReady = true
      ∨ (u.lastServed = .passage ∧ u.serveAhead.lastServed = .mirror) := by
    intro u hu
    have free := serveAhead_noticeGrant u hu
    have next := grantNext_passage u
    cases hl : u.lastServed with
    | notice =>
      left
      rw [hl] at next
      simp only at next
      rw [serveAhead_ready u (by simp [State.portReady, hu, next])]
      simp [State.portReady, hu, next]
    | mirror =>
      left
      rw [hl] at next
      simp only at next
      by_cases w : u.noticeWaits = true
      · have held : u.held.isSome = true := by
          simp only [State.noticeWaits, Bool.and_eq_true] at w
          exact w.1
        rw [if_pos w] at next
        have e : u.serveAhead = u.beginGrant.endGrant := by simp [State.serveAhead, next]
        have last : u.serveAhead.lastServed = .notice := by rw [e]; exact beginGrant_lastServed u held
        have n2 := grantNext_passage u.serveAhead
        rw [last] at n2
        simp [State.portReady, free, n2]
      · rw [if_neg w] at next
        rw [serveAhead_ready u (by simp [State.portReady, hu, next])]
        simp [State.portReady, hu, next]
    | passage =>
      rw [hl] at next
      simp only at next
      by_cases m : u.mirrorWaits = true
      · right
        have some : u.nextRecord.isSome = true := by
          simp only [State.mirrorWaits, Bool.and_eq_true] at m
          exact m.2
        rw [if_pos m] at next
        have e : u.serveAhead = u.mirrorGrant := by simp [State.serveAhead, next]
        exact ⟨rfl, by rw [e]; exact mirrorGrant_lastServed u some⟩
      · left
        rw [if_neg m] at next
        by_cases w : u.noticeWaits = true
        · have held : u.held.isSome = true := by
            simp only [State.noticeWaits, Bool.and_eq_true] at w
            exact w.1
          rw [if_pos w] at next
          have e : u.serveAhead = u.beginGrant.endGrant := by simp [State.serveAhead, next]
          have last : u.serveAhead.lastServed = .notice := by rw [e]; exact beginGrant_lastServed u held
          have n2 := grantNext_passage u.serveAhead
          rw [last] at n2
          simp [State.portReady, free, n2]
        · rw [if_neg w] at next
          rw [serveAhead_ready u (by simp [State.portReady, hu, next])]
          simp [State.portReady, hu, next]
  have f0 := endGrant_noticeGrant s
  have f1 := serveAhead_noticeGrant _ f0
  rcases step s.endGrant f0 with r | ⟨_, m⟩
  · rw [show s.awaitPort = s.endGrant.serveAhead from serveAhead_ready _ r]
    exact r
  · rcases step s.endGrant.serveAhead f1 with r | ⟨p, _⟩
    · exact r
    · rw [m] at p; cases p

/-- Awaiting the port twice is awaiting it once. -/
theorem awaitPort_awaitPort (s : State) : s.awaitPort.awaitPort = s.awaitPort :=
  awaitPort_ready _ (awaitPort_portReady s)

/-! ### What waiting leaves alone -/

/-- Only plan memory, the two writers, the port's own record, the status flags and the dirty marks differ. -/
def State.portOnly (s t : State) : Prop :=
  t = { s with
    mem := t.mem, badParity := t.badParity, held := t.held, writeIx := t.writeIx, dspFlags := t.dspFlags,
    dirty := t.dirty, promo := t.promo, lastWritten := t.lastWritten, lastServed := t.lastServed,
    noticeGrant := t.noticeGrant }

theorem portOnly_refl (s : State) : s.portOnly s := rfl

theorem portOnly_trans {s t u : State} (h : s.portOnly t) (k : t.portOnly u) : s.portOnly u := by
  unfold State.portOnly at *
  rw [k, h]

theorem portOnly_writeWords (l : List (BitVec 18 × Word)) (s : State) : s.portOnly (s.writeWords l) := by
  rw [writeWords_eq l s]; rfl

theorem portOnly_publish (s : State) : s.portOnly s.publish := by
  unfold State.publish
  split
  · rfl
  · simp only [State.judgeThreshold]; split <;> rfl

theorem portOnly_endGrant (s : State) : s.portOnly s.endGrant := by
  rcases endGrant_cases s with ⟨_, e⟩ | ⟨g, _, e⟩
  · rw [e]; rfl
  · have w : s.portOnly (({ s with noticeGrant := none } : State).writeWords g.words) :=
      portOnly_trans (t := { s with noticeGrant := none }) rfl (portOnly_writeWords _ _)
    rw [e]
    split
    · exact portOnly_trans w (portOnly_publish _)
    · exact w

theorem portOnly_serveAhead (s : State) : s.portOnly s.serveAhead := by
  unfold State.serveAhead
  split
  · rcases mirrorGrant_cases s with ⟨_, e⟩ | ⟨r, _, e⟩
    · rw [e]; rfl
    · rw [e]
      exact portOnly_trans (t := s.takeRecord r) rfl (portOnly_trans (portOnly_writeWords _ _) rfl)
  · refine portOnly_trans ?_ (portOnly_endGrant _)
    unfold State.beginGrant
    split <;> rfl
  · rfl
  · rfl

/-- Waiting for the port leaves every other block as it is. -/
theorem portOnly_awaitPort (s : State) : s.portOnly s.awaitPort :=
  portOnly_trans (portOnly_endGrant s) (portOnly_trans (portOnly_serveAhead _) (portOnly_serveAhead _))

/-! ### Plan memory keeps its form -/

theorem memWf_mirrorGrant (s : State) (h : memWf s.mem = true) : memWf s.mirrorGrant.mem = true := by
  rcases mirrorGrant_cases s with ⟨_, e⟩ | ⟨r, _, e⟩
  · rw [e]; exact h
  · rw [e]; exact memWf_writeWords _ _ h

theorem publish_mem (s : State) : s.publish.mem = s.mem := by
  unfold State.publish
  split
  · rfl
  · simp only [State.judgeThreshold]; split <;> rfl

theorem memWf_endGrant (s : State) (h : memWf s.mem = true) : memWf s.endGrant.mem = true := by
  rcases endGrant_cases s with ⟨_, e⟩ | ⟨g, _, e⟩
  · rw [e]; exact h
  · have w : memWf (({ s with noticeGrant := none } : State).writeWords g.words).mem = true := memWf_writeWords _ _ h
    rw [e]
    split
    · rw [publish_mem]; exact w
    · exact w

theorem memWf_serveAhead (s : State) (h : memWf s.mem = true) : memWf s.serveAhead.mem = true := by
  unfold State.serveAhead
  split
  · exact memWf_mirrorGrant s h
  · apply memWf_endGrant
    unfold State.beginGrant
    split <;> exact h
  · exact h
  · exact h

/-- Waiting for the port keeps the canonical form of plan memory. -/
theorem memWf_awaitPort (s : State) (h : memWf s.mem = true) : memWf s.awaitPort.mem = true :=
  memWf_serveAhead _ (memWf_serveAhead _ (memWf_endGrant s h))

end Sys2Proof.Machine
end

