-- ==== Sys2Proof/Laws/Bus.lean ====
section
/-! SUPPORT. The area map at the addresses that rows name, and what a sound single-word access comes to. -/
namespace Sys2Proof.Machine
open Sys2Proof

/-! ### The area map -/

theorem placeOf_control (c : CtlWord) (h : c ≠ .unassigned) : placeOf (controlAddr c) = .control c := by
  cases c with
  | tuning i => revert i; decide
  | unassigned => exact absurd rfl h
  | _ => decide

theorem placeOf_cell (c : CellIx) (w : Fin 4) : placeOf (cellAddr c w.val) = .cell c w := by
  revert c w; decide +kernel

theorem placeOf_figure (z : ZoneIx) (m : Bool) : placeOf (figureAddr z m) = .figure z m := by
  revert z m; decide +kernel

theorem placeOf_slot (k : SlotIx) (w : Fin 16) : placeOf (slotAddr k w.val) = .slot k w := by
  revert k w; decide +kernel

/-! ### A sound single-word access -/

theorem wordParityOk_goodWord (w : Word) : wordParityOk (goodWord w) = true := by simp [wordParityOk, goodWord]

@[simp] theorem addrParityOk_goodWrite (t : Tag) (a : BitVec 18) (v : Word) : addrParityOk (goodWrite t a v) = true := by
  simp [addrParityOk, goodWrite]

@[simp] theorem addrParityOk_goodRead (t : Tag) (a : BitVec 18) : addrParityOk (goodRead t a) = true := by
  simp [addrParityOk, goodRead]

theorem takenAddrs_goodWrite (t : Tag) (a : BitVec 18) (v : Word) : takenAddrs (goodWrite t a v) = [a] := by
  simp [takenAddrs, goodWrite, coveredAddrs, moreWords]

theorem takenAddrs_goodRead (t : Tag) (a : BitVec 18) : takenAddrs (goodRead t a) = [a] := by
  simp [takenAddrs, goodRead, coveredAddrs, moreWords]

theorem takenWords_goodWrite (t : Tag) (a : BitVec 18) (v : Word) :
    takenWords (goodWrite t a v) = [(a, goodWord v)] := by
  simp only [takenWords, takenAddrs_goodWrite]; rfl

@[simp] theorem dataParityOk_goodWrite (t : Tag) (a : BitVec 18) (v : Word) : dataParityOk (goodWrite t a v) = true := by
  simp [dataParityOk, takenWords_goodWrite, wordParityOk_goodWord]

@[simp] theorem dataParityOk_goodRead (t : Tag) (a : BitVec 18) : dataParityOk (goodRead t a) = true := by
  simp [dataParityOk, takenWords, goodRead, transferData]

/-- A sound access sets no BUS_PARITY. -/
theorem busParityFails_goodWrite (s : State) (t : Tag) (a : BitVec 18) (v : Word) :
    s.busParityFails (goodWrite t a v) = false := by simp [State.busParityFails]

theorem busParityFails_goodRead (s : State) (t : Tag) (a : BitVec 18) :
    s.busParityFails (goodRead t a) = false := by simp [State.busParityFails]

/-! ### Accesses and the port (R33) -/

/-- A sound access without a memory part is one event and leaves the port alone. -/
theorem busAccess_noPort (s : State) (a : Access) (p : s.busParityFails a = false)
    (h : (s.fateOf a).usesPort = false) : s.busAccess a = s.carryOut a (s.fateOf a) := by
  have e : s.handOver a (s.fateOf a) = s := by
    revert h
    cases s.fateOf a <;> simp [State.handOver, Fate.usesPort]
  simp [State.busAccess, h, p, State.flagParity, e]

/-- The turn of an access in the state of its event is the end of its wait. -/
theorem atTurn_portReady (s : State) : s.atTurn s.portReady = s.awaitPort := by
  unfold State.atTurn
  split
  · rename_i h; exact (awaitPort_ready s h).symm
  · rfl

/-- A sound access with a memory part and no copy is carried out when its turn at the port has come. -/
theorem busAccess_port (s : State) (a : Access) (p : s.busParityFails a = false)
    (h : (s.fateOf a).usesPort = true) (n : ∀ v, s.fateOf a ≠ .watch v) :
    s.busAccess a = (s.awaitPort.carryOut a (s.fateOf a)).arbitrate := by
  have e : s.handOver a (s.fateOf a) = s := by
    revert n
    cases s.fateOf a <;> simp [State.handOver]
  simp [State.busAccess, h, p, State.flagParity, e, atTurn_portReady]

/-- In LOADING and INITIALISING every access is answered RETRY and nothing else happens (R20). -/
theorem busAccess_notReady (s : State) (a : Access) (h : s.mode = .loading ∨ s.mode = .initialising) :
    s.busAccess a = s.answered .retry := by
  have hp : s.busParityFails a = false := by
    rcases h with h | h <;> simp [State.busParityFails, h]
  have hf : s.fateOf a = .notReady := by simp [State.fateOf, h]
  rw [busAccess_noPort s a hp (by rw [hf]; rfl), hf]; rfl

/-- The fate of a sound write that R20 to R22 allow. -/
theorem fateOf_goodWrite (s : State) (t : Tag) (a : BitVec 18) (v : Word)
    (hl : s.mode ≠ .loading) (hi : s.mode ≠ .initialising) (ht : t ≠ .three)
    (ha : s.allows (goodWrite t a v) = true) :
    s.fateOf (goodWrite t a v) = writeFate (goodWrite t a v) := by
  have h1 : (goodWrite t a v).tag = t := rfl
  have h2 : (goodWrite t a v).transfer = .write (goodWord v) [] := rfl
  simp [State.fateOf, hl, hi, ha, h1, h2, ht]

/-- A sound write of an acted word goes to its owner and is answered DONE with count 1 (R26). -/
theorem busAccess_acted (s : State) (t : Tag) (a : BitVec 18) (v : Word) (p : Place)
    (hl : s.mode ≠ .loading) (hi : s.mode ≠ .initialising) (ht : t ≠ .three) (hp : placeOf a = p)
    (ha : s.allows (goodWrite t a v) = true) (hc : classOf p = .acted) :
    s.busAccess (goodWrite t a v) = (s.actedWrite p v).answered (.done 1 []) := by
  have hg : p ≠ .general := fun e => by simp [e, classOf] at hc
  have h1 : (goodWrite t a v).addr = a := rfl
  have h2 : firstData (goodWrite t a v).transfer = v := rfl
  have hw : writeFate (goodWrite t a v) = .act v := by simp [writeFate, h1, h2, hp, hg, hc]
  have hf := (fateOf_goodWrite s t a v hl hi ht ha).trans hw
  rw [busAccess_noPort s _ (busParityFails_goodWrite s t a v) (by rw [hf]; rfl), hf]
  simp [State.carryOut, h1, hp]

/-- A sound write of a watched word: its copy goes to the owner at its event, and the word to memory in its turn (R25). -/
theorem busAccess_watched (s : State) (t : Tag) (a : BitVec 18) (v : Word) (p : Place)
    (hl : s.mode ≠ .loading) (hi : s.mode ≠ .initialising) (ht : t ≠ .three) (hp : placeOf a = p)
    (ha : s.allows (goodWrite t a v) = true) (hc : classOf p = .watched) :
    s.busAccess (goodWrite t a v) = (((s.watchedCopy p v).atTurn s.portReady).storeWatched a v).arbitrate := by
  have hg : p ≠ .general := fun e => by simp [e, classOf] at hc
  have h1 : (goodWrite t a v).addr = a := rfl
  have h2 : firstData (goodWrite t a v).transfer = v := rfl
  have hw : writeFate (goodWrite t a v) = .watch v := by simp [writeFate, h1, h2, hp, hg, hc]
  have hf := (fateOf_goodWrite s t a v hl hi ht ha).trans hw
  simp [State.busAccess, hf, busParityFails_goodWrite, State.flagParity, Fate.usesPort, State.handOver, State.carryOut,
    h1, hp]

/-- A sound write that R20 to R22 do not allow is an access refusal (R23). -/
theorem busAccess_denied (s : State) (t : Tag) (a : BitVec 18) (v : Word)
    (hl : s.mode ≠ .loading) (hi : s.mode ≠ .initialising)
    (ha : s.allows (goodWrite t a v) = false) :
    s.busAccess (goodWrite t a v) = s.deny (goodWrite t a v) := by
  have hf : s.fateOf (goodWrite t a v) = .denied := by simp [State.fateOf, hl, hi, ha]
  rw [busAccess_noPort s _ (busParityFails_goodWrite s t a v) (by rw [hf]; rfl), hf]; rfl

/-- In RECOVERY and SERVICE a sound write is allowed when the rights and the word's state allow it (R20 to R22). -/
theorem allows_running (s : State) (t : Tag) (a : BitVec 18) (v : Word) (hn : s.mode ≠ .noSite) :
    s.allows (goodWrite t a v) = (mayWrite t (placeOf a) && s.stateAllows (placeOf a) v) := by
  simp [State.allows, goodWrite, State.noSiteAllows, hn, goodWord]

/-- The fate of a sound single-word read (R20 to R28). -/
theorem fateOf_goodRead (s : State) (t : Tag) (a : BitVec 18)
    (hl : s.mode ≠ .loading) (hi : s.mode ≠ .initialising) (ht : t ≠ .three) :
    s.fateOf (goodRead t a) = s.readFate (goodRead t a) := by
  have h1 : (goodRead t a).tag = t := rfl
  have h2 : (goodRead t a).transfer = .read 0 := rfl
  simp [State.fateOf, hl, hi, h1, h2, ht, State.allows]

/-! ### The rows' accesses in RECOVERY and SERVICE -/

theorem running_modes (s : State) (h : s.running = true) :
    s.mode ≠ .loading ∧ s.mode ≠ .initialising ∧ s.mode ≠ .noSite := by
  cases hm : s.mode <;> simp_all [State.running]

/-- A sound write of an acted control word other than the read index (R26). -/
theorem busAccess_control (s : State) (t : Tag) (c : CtlWord) (v : Word) (h : s.running = true)
    (hw : mayWriteControl t c = true) (hr : c ≠ .readIx) :
    s.busAccess (goodWrite t (controlAddr c) v) = (s.controlWrite c v).answered (.done 1 []) := by
  obtain ⟨hl, hi, hn⟩ := running_modes s h
  have hu : c ≠ .unassigned := fun e => by subst e; cases t <;> simp [mayWriteControl] at hw
  have ht : t ≠ .three := fun e => by subst e; cases c <;> simp [mayWriteControl] at hw
  have hc : classOf (.control c) = .acted := by
    cases t <;> cases c <;> simp_all [mayWriteControl, classOf, controlClass]
  have hs : s.stateAllows (.control c) v = true := by
    cases c <;> simp_all [State.stateAllows]
  have hp := placeOf_control c hu
  have ha : s.allows (goodWrite t (controlAddr c) v) = true := by
    rw [allows_running s t _ v hn, hp]; simp [mayWrite, hw, hs]
  rw [busAccess_acted s t _ v _ hl hi ht hp ha hc]; rfl

/-- A sound write of the notice read index word with an acceptable value (R22, R170). -/
theorem busAccess_readIx (s : State) (v : Word) (h : s.running = true) (hv : s.readIxOk v = true) :
    s.busAccess (goodWrite .dispatch (controlAddr .readIx) v) = (s.takeReadIx v).answered (.done 1 []) := by
  obtain ⟨hl, hi, hn⟩ := running_modes s h
  have hp := placeOf_control .readIx (by decide)
  have ha : s.allows (goodWrite .dispatch (controlAddr .readIx) v) = true := by
    rw [allows_running s _ _ v hn, hp]; simp [mayWrite, mayWriteControl, State.stateAllows, hv]
  rw [busAccess_acted s _ _ v _ hl hi (by decide) hp ha rfl]; rfl

/-- The drafter of a slot is not tag 3. -/
theorem drafterOf_ne_three (k : SlotIx) : drafterOf k ≠ .three := by unfold drafterOf; split <;> decide

/-- The drafter's write of a slot's commit or cancel word (R26). -/
theorem busAccess_slotActed (s : State) (k : SlotIx) (w : Fin 16) (v : Word) (h : s.running = true)
    (hw : w = 11 ∨ w = 15) :
    s.busAccess (goodWrite (drafterOf k) (slotAddr k w.val) v)
      = (s.actedWrite (.slot k w) v).answered (.done 1 []) := by
  obtain ⟨hl, hi, hn⟩ := running_modes s h
  have hp := placeOf_slot k w
  have hc : classOf (.slot k w) = .acted := by rcases hw with e | e <;> subst e <;> rfl
  have ha : s.allows (goodWrite (drafterOf k) (slotAddr k w.val) v) = true := by
    rw [allows_running s _ _ v hn, hp]
    rcases hw with e | e <;> subst e <;> simp [mayWrite, State.stateAllows]
  exact busAccess_acted s _ _ v _ hl hi (drafterOf_ne_three k) hp ha hc

/-- A commit (R59). -/
theorem busAccess_commit (s : State) (k : SlotIx) (v : Word) (h : s.running = true) :
    s.busAccess (goodWrite (drafterOf k) (slotAddr k 11) v) = (s.commitWrite k v).answered (.done 1 []) :=
  busAccess_slotActed s k 11 v h (Or.inl rfl)

/-- A cancel (R120). -/
theorem busAccess_cancel (s : State) (k : SlotIx) (v : Word) (h : s.running = true) :
    s.busAccess (goodWrite (drafterOf k) (slotAddr k 15) v) = (s.cancelWrite k v).answered (.done 1 []) :=
  busAccess_slotActed s k 15 v h (Or.inr rfl)

/-- The drafter's write of a header or route word of an IDLE slot (R58). -/
theorem busAccess_draft (s : State) (k : SlotIx) (w : Fin 11) (v : Word) (h : s.running = true)
    (hs : (s.slot k).state = .idle) :
    s.busAccess (goodWrite (drafterOf k) (slotAddr k w.val) v)
      = (((s.draftWrite k w v).atTurn s.portReady).storeWatched (slotAddr k w.val) v).arbitrate := by
  obtain ⟨hl, hi, hn⟩ := running_modes s h
  have hw : w.val < 16 := by omega
  have hp : placeOf (slotAddr k w.val) = .slot k ⟨w.val, hw⟩ := placeOf_slot k ⟨w.val, hw⟩
  have hc : classOf (.slot k ⟨w.val, hw⟩) = .watched := by
    have : w.val ≤ 10 := by omega
    simp [classOf, slotWordClass, this]
  have ha : s.allows (goodWrite (drafterOf k) (slotAddr k w.val) v) = true := by
    rw [allows_running s _ _ v hn, hp]
    have : w.val ≤ 11 := by omega
    simp [mayWrite, State.stateAllows, SlotState.live, hs, this]
  rw [busAccess_watched s _ _ v _ hl hi (drafterOf_ne_three k) hp ha hc]
  simp [State.watchedCopy]

/-- The gateway's write of a report cell word (R89, R92). -/
theorem busAccess_cell (s : State) (c : CellIx) (w : Fin 4) (v : Word) (h : s.running = true) :
    s.busAccess (goodWrite .gateway (cellAddr c w.val) v)
      = (((s.watchedCopy (.cell c w) v).atTurn s.portReady).storeWatched (cellAddr c w.val) v).arbitrate := by
  obtain ⟨hl, hi, hn⟩ := running_modes s h
  have hp := placeOf_cell c w
  have ha : s.allows (goodWrite .gateway (cellAddr c w.val) v) = true := by
    rw [allows_running s _ _ v hn, hp]; simp [mayWrite, State.stateAllows]
  exact busAccess_watched s _ _ v _ hl hi (by decide) hp ha rfl

/-- The operations link's write of a zone figure word (R137). -/
theorem busAccess_figure (s : State) (z : ZoneIx) (m : Bool) (v : Word) (h : s.running = true) :
    s.busAccess (goodWrite .operations (figureAddr z m) v)
      = (((s.watchedCopy (.figure z m) v).atTurn s.portReady).storeWatched (figureAddr z m) v).arbitrate := by
  obtain ⟨hl, hi, hn⟩ := running_modes s h
  have hp := placeOf_figure z m
  have ha : s.allows (goodWrite .operations (figureAddr z m) v) = true := by
    rw [allows_running s _ _ v hn, hp]; simp [mayWrite, State.stateAllows]
  exact busAccess_watched s _ _ v _ hl hi (by decide) hp ha rfl

/-! ### Command words -/

theorem byteAt_getLsbD (w : Word) (j i : Nat) : (byteAt w j).getLsbD i = (decide (i < 8) && w.getLsbD (8 * j + i)) := by
  simp [byteAt]

theorem fld8_getLsbD (p : Nat) (b : Byte) (i : Nat) :
    (fld 8 p b.toNat).getLsbD i = (decide (i < 32) && decide (p ≤ i) && b.getLsbD (i - p)) := by
  simp only [fld, BitVec.ofNat_toNat, BitVec.getLsbD_shiftLeft, BitVec.getLsbD_setWidth, BitVec.setWidth_eq]
  by_cases h1 : i < 32 <;> by_cases h2 : i < p
  · simp [h2]
  · have h3 : i - p < 32 := by omega
    simp [h1, h2, h3, Nat.le_of_not_lt h2]
  · simp [h1]
  · simp [h1]

theorem commandWord_getLsbD (code : Byte) (f : CmdFields) (i : Nat) : (commandWord code f).getLsbD i
    = ((decide (i < 32) && code.getLsbD i) || (decide (i < 32) && decide (8 ≤ i) && f.a.getLsbD (i - 8))
      || (decide (i < 32) && decide (16 ≤ i) && f.b.getLsbD (i - 16))
      || (decide (i < 32) && decide (24 ≤ i) && f.tag.getLsbD (i - 24))) := by
  simp [commandWord, fld8_getLsbD]

theorem getLsbD_big (b : Byte) (i : Nat) (h : 8 ≤ i) : b.getLsbD i = false := BitVec.getLsbD_of_ge b i h

theorem commandWord_code (code : Byte) (f : CmdFields) : byteAt (commandWord code f) 0 = code := by
  apply BitVec.eq_of_getLsbD_eq
  intro i hi
  have h1 : ¬ 8 ≤ i := by omega
  have h2 : ¬ 16 ≤ i := by omega
  have h3 : ¬ 24 ≤ i := by omega
  have h4 : i < 32 := by omega
  rw [byteAt_getLsbD, commandWord_getLsbD]
  simp [hi, h1, h2, h3, h4]

theorem commandWord_fields (code : Byte) (f : CmdFields) : cmdFieldsOf (commandWord code f) = f := by
  obtain ⟨a, b, t⟩ := f
  simp only [cmdFieldsOf, CmdFields.mk.injEq]
  refine ⟨?_, ?_, ?_⟩
  · apply BitVec.eq_of_getLsbD_eq
    intro i hi
    have h2 : ¬ 16 ≤ 8 + i := by omega
    have h3 : ¬ 24 ≤ 8 + i := by omega
    have h4 : 8 + i < 32 := by omega
    rw [byteAt_getLsbD, commandWord_getLsbD]
    simp [hi, h2, h3, h4]
  · apply BitVec.eq_of_getLsbD_eq
    intro i hi
    have h3 : ¬ 24 ≤ 16 + i := by omega
    have h4 : 16 + i < 32 := by omega
    have h5 : 16 + i - 8 = 8 + i := by omega
    rw [byteAt_getLsbD, commandWord_getLsbD]
    simp [hi, h3, h4, h5, getLsbD_big code (16 + i) (by omega)]
  · apply BitVec.eq_of_getLsbD_eq
    intro i hi
    have h4 : 24 + i < 32 := by omega
    have h5 : 24 + i - 8 = 16 + i := by omega
    have h6 : 24 + i - 16 = 8 + i := by omega
    rw [byteAt_getLsbD, commandWord_getLsbD]
    simp [hi, h4, h5, h6, getLsbD_big code (24 + i) (by omega), getLsbD_big a (16 + i) (by omega)]

/-- A write of a command word outside LOADING and INITIALISING is one command (R160); in NO_SITE it reaches the part from
dispatch alone (R20). -/
theorem busAccess_command (s : State) (i : Issuer) (code : Byte) (f : CmdFields)
    (hl : s.mode ≠ .loading) (hi : s.mode ≠ .initialising) (hn : s.mode = .noSite → i = .dispatch) :
    s.busAccess (commandAccess i code f) = (s.issue i code f).answered (.done 1 []) := by
  have hp : placeOf (controlAddr (commandWordOf i)) = .control (commandWordOf i) := by cases i <;> decide
  have ht : issuerTag i ≠ .three := by cases i <;> decide
  have hc : classOf (.control (commandWordOf i)) = .acted := by cases i <;> rfl
  have ha : s.allows (commandAccess i code f) = true := by
    by_cases h : s.mode = .noSite
    · obtain rfl := hn h
      unfold State.allows
      rw [show placeOf (commandAccess .dispatch code f).addr = .control .dspCommand from hp]
      simp [commandAccess, goodWrite, issuerTag, mayWrite, mayWriteControl, State.stateAllows, State.noSiteAllows,
        isSingle, moreWords, commandWordOf]
    · unfold commandAccess
      rw [allows_running s _ _ _ h, hp]
      cases i <;> rfl
  unfold commandAccess at ha ⊢
  rw [busAccess_acted s _ _ _ _ hl hi ht hp ha hc]
  cases i <;>
    simp [State.actedWrite, State.controlWrite, commandWordOf, State.commandWrite, commandWord_code, commandWord_fields]

end Sys2Proof.Machine
end

