-- ==== Sys2Proof/Laws/Outside.lean ====
section
/-! SUPPORT. The frame of every operation of the core, the tracker, the drying unit and the zone monitor: it leaves the
outside of the state alone (plan memory, the bus, the port, the loader, the clock, masks, results, tuning, indices). -/
namespace Sys2Proof.Machine
open Sys2Proof

@[simp] theorem outside_markDirty (s : State) (r : MirrorRec) : (s.markDirty r).outside = s.outside := rfl
@[simp] theorem outside_markIf (s : State) (b : Bool) (r : MirrorRec) : (s.markIf b r).outside = s.outside := rfl
@[simp] theorem outside_setSeg (s : State) (g : SegIx) (r : Seg) : (s.setSeg g r).outside = s.outside := rfl
@[simp] theorem outside_setSlot (s : State) (k : SlotIx) (r : Slot) : (s.setSlot k r).outside = s.outside := rfl
@[simp] theorem outside_setScrub (s : State) (x : ScrubIx) (r : Scrubber) : (s.setScrub x r).outside = s.outside := rfl
@[simp] theorem outside_setPinch (s : State) (p : PinchIx) (r : Pinch) : (s.setPinch p r).outside = s.outside := rfl
@[simp] theorem outside_setZone (s : State) (z : ZoneIx) (r : Zone) : (s.setZone z r).outside = s.outside := rfl
@[simp] theorem outside_setCell (s : State) (c : CellIx) (r : CellCapture) : (s.setCell c r).outside = s.outside := rfl
@[simp] theorem outside_noteFreeing (s : State) : (s.noteFreeing).outside = s.outside := rfl
@[simp] theorem outside_clearFreeing (s : State) : (s.clearFreeing).outside = s.outside := rfl
@[simp] theorem outside_setDrying (s : State) (l : List DryEntry) : (s.setDrying l).outside = s.outside := rfl
@[simp] theorem outside_setQueue (s : State) (l : List SlotIx) : (s.setQueue l).outside = s.outside := rfl
@[simp] theorem outside_setStaging (s : State) (l : List Notice) : (s.setStaging l).outside = s.outside := rfl
@[simp] theorem outside_dropEntry (s : State) (g : SegIx) : (s.dropEntry g).outside = s.outside := rfl
@[simp] theorem outside_leaveQueue (s : State) (k : SlotIx) : (s.leaveQueue k).outside = s.outside := rfl
@[simp] theorem outside_markSlotWords (s : State) (k : SlotIx) : (s.markSlotWords k).outside = s.outside := rfl
@[simp] theorem outside_putDsp (s : State) (v : BitVec 16) : (s.putDsp v).outside = s.outside := rfl
@[simp] theorem outside_putOps (s : State) (v : BitVec 5) : (s.putOps v).outside = s.outside := rfl
@[simp] theorem outside_setDsp (s : State) (f : DspFlag) : (s.setDsp f).outside = s.outside := rfl
@[simp] theorem outside_setOps (s : State) (f : OpsFlag) : (s.setOps f).outside = s.outside := rfl

@[simp] theorem outside_ite (c : Prop) [Decidable c] (s t : State) :
    (if c then s else t).outside = if c then s.outside else t.outside := apply_ite State.outside c s t

/-- A loop of operations that leave the outside alone leaves it alone. -/
@[simp] theorem outside_foldl {α : Type} (f : State → α → State) (h : ∀ s a, (f s a).outside = s.outside) (l : List α)
    (s : State) : (l.foldl f s).outside = s.outside := by
  induction l generalizing s with
  | nil => rfl
  | cons a l ih => rw [List.foldl_cons, ih, h]

@[simp] theorem outside_raising (f : State → State) (h : ∀ s, (f s).outside = s.outside) (s : State) :
    (s.raising f).outside = s.outside := by
  simp only [State.raising]; split <;> simp [h]

@[simp] theorem outside_stage (s : State) (n : Notice) : (s.stage n).outside = s.outside := by
  simp [State.stage]

@[simp] theorem outside_notify (s : State) (kind : NoticeKind) (payload : List Word) : (s.notify kind payload).outside = s.outside := by
  simp [State.notify]

@[simp] theorem outside_notifySlot (s : State) (kind : NoticeKind) (k : SlotIx) (b c : Nat) : (s.notifySlot kind k b c).outside = s.outside := by
  simp [State.notifySlot]

@[simp] theorem outside_refreshPinch (s : State) (p : PinchIx) (gain : Option ScrubIx) : (s.refreshPinch p gain).outside = s.outside := by
  simp only [State.refreshPinch]; (repeat' split) <;> simp

@[simp] theorem outside_refreshPinchOf (s : State) (g : SegIx) (gain : Option ScrubIx) : (s.refreshPinchOf g gain).outside = s.outside := by
  unfold State.refreshPinchOf; split <;> simp

@[simp] theorem outside_markWet (s : State) (g : SegIx) : (s.markWet g).outside = s.outside := by
  simp [State.markWet]

@[simp] theorem outside_setOccupant (s : State) (x : ScrubIx) (g : SegIx) : (s.setOccupant x g).outside = s.outside := by
  unfold State.setOccupant; split <;> simp

@[simp] theorem outside_clearOccupant (s : State) (x : ScrubIx) (g : SegIx) : (s.clearOccupant x g).outside = s.outside := by
  simp [State.clearOccupant]

@[simp] theorem outside_suspendWet (s : State) (g : SegIx) : (s.suspendWet g).outside = s.outside := by
  unfold State.suspendWet; split <;> simp

@[simp] theorem outside_takeFleet (s : State) (k : SlotIx) (e : SegIx × Nat) : (s.takeFleet k e).outside = s.outside := by
  simp [State.takeFleet]

@[simp] theorem outside_removeClaim (s : State) (k : SlotIx) (g : SegIx) : (s.removeClaim k g).outside = s.outside := by
  simp [State.removeClaim]

@[simp] theorem outside_addClaim (s : State) (k : SlotIx) (g : SegIx) : (s.addClaim k g).outside = s.outside := by
  simp [State.addClaim]

@[simp] theorem outside_takePassenger (s : State) (k : SlotIx) (g : SegIx) : (s.takePassenger k g).outside = s.outside := by
  simp [State.takePassenger]

@[simp] theorem outside_takeHold (s : State) (k : SlotIx) : (s.takeHold k).outside = s.outside := by
  simp [State.takeHold]

@[simp] theorem outside_release (s : State) (k : SlotIx) (wet : Bool) (g : SegIx) : (s.release k wet g).outside = s.outside := by
  simp [State.release]

@[simp] theorem outside_releaseWhere (s : State) (k : SlotIx) (pick : SegIx × Nat → Bool) : (s.releaseWhere k pick).outside = s.outside := by
  simp [State.releaseWhere]

@[simp] theorem outside_releaseAll (s : State) (k : SlotIx) : (s.releaseAll k).outside = s.outside := by
  simp [State.releaseAll]

@[simp] theorem outside_pend (s : State) (g : SegIx) : (s.pend g).outside = s.outside := by
  simp [State.pend]

@[simp] theorem outside_markPending (s : State) (k : SlotIx) (i : Nat) : (s.markPending k i).outside = s.outside := by
  simp [State.markPending]

@[simp] theorem outside_setClosure (s : State) (g : SegIx) (c : Closure) : (s.setClosure g c).outside = s.outside := by
  simp [State.setClosure]

@[simp] theorem outside_setLive (s : State) (x : Option ScrubIx) (k : Option FleetIx) : (s.setLive x k).outside = s.outside := by
  unfold State.setLive; split <;> simp

@[simp] theorem outside_setChanged (s : State) (k : SlotIx) : (s.setChanged k).outside = s.outside := by
  simp [State.setChanged]

@[simp] theorem outside_clearChanged (s : State) (k : SlotIx) : (s.clearChanged k).outside = s.outside := by
  simp [State.clearChanged]

@[simp] theorem outside_setResult (s : State) (k : SlotIx) (r : Result) (i : Nat) : (s.setResult k r i).outside = s.outside := by
  simp [State.setResult]

@[simp] theorem outside_captureFleet (s : State) (k : SlotIx) (x : ScrubIx) (m : AuthMode) : (s.captureFleet k x m).outside = s.outside := by
  simp [State.captureFleet]

@[simp] theorem outside_capturePassenger (s : State) (k : SlotIx) : (s.capturePassenger k).outside = s.outside := by
  simp [State.capturePassenger]

@[simp] theorem outside_toIdle (s : State) (k : SlotIx) (res : Result) (i : Nat) : (s.toIdle k res i).outside = s.outside := by
  simp [State.toIdle]

@[simp] theorem outside_clearLiveOf (s : State) (k : SlotIx) : (s.clearLiveOf k).outside = s.outside := by
  simp [State.clearLiveOf]

@[simp] theorem outside_dropClaims (s : State) (k : SlotIx) : (s.dropClaims k).outside = s.outside := by
  simp [State.dropClaims]

@[simp] theorem outside_endSlot (s : State) (k : SlotIx) (res : Result) : (s.endSlot k res).outside = s.outside := by
  simp [State.endSlot]

@[simp] theorem outside_releaseAndEnd (s : State) (k : SlotIx) (res : Result) : (s.releaseAndEnd k res).outside = s.outside := by
  simp [State.releaseAndEnd]

@[simp] theorem outside_clearOverdue (s : State) (k : SlotIx) : (s.clearOverdue k).outside = s.outside := by
  simp [State.clearOverdue]

@[simp] theorem outside_grant (s : State) (k : SlotIx) : (s.grant k).outside = s.outside := by
  simp [State.grant]

@[simp] theorem outside_activate (s : State) (k : SlotIx) : (s.activate k).outside = s.outside := by
  simp [State.activate]

@[simp] theorem outside_shortenedNotice (s : State) (k : SlotIx) : (s.shortenedNotice k).outside = s.outside := by
  simp [State.shortenedNotice]

@[simp] theorem outside_shorten (s : State) (k : SlotIx) (e : Nat) : (s.shorten k e).outside = s.outside := by
  simp [State.shorten]

@[simp] theorem outside_shortenHolder (s : State) (g : SegIx) (except : Option SlotIx) : (s.shortenHolder g except).outside = s.outside := by
  simp only [State.shortenHolder]; (repeat' split) <;> simp

@[simp] theorem outside_shortenToProgress (s : State) (k : SlotIx) : (s.shortenToProgress k).outside = s.outside := by
  simp [State.shortenToProgress]

@[simp] theorem outside_stillWaiting (s : State) (k : SlotIx) (f : Result × Nat) : (s.stillWaiting k f).outside = s.outside := by
  simp [State.stillWaiting]

@[simp] theorem outside_endWaiting (s : State) (k : SlotIx) (f : Result × Nat) : (s.endWaiting k f).outside = s.outside := by
  simp [State.endWaiting]

@[simp] theorem outside_reevalEntry (s : State) (k : SlotIx) : (s.reevalEntry k).outside = s.outside := by
  simp only [State.reevalEntry]; (repeat' split) <;> simp

@[simp] theorem outside_reevaluate (s : State) : (s.reevaluate).outside = s.outside := by
  simp [State.reevaluate]

@[simp] theorem outside_settle (s : State) : (s.settle).outside = s.outside := by
  simp [State.settle]

/-- An event leaves the outside alone when its changes do. -/
@[simp] theorem outside_event (f : State → State) (h : ∀ s, (f s).outside = s.outside) (s : State) :
    (s.event f).outside = s.outside := by
  simp only [State.event, outside_settle, h, outside_clearFreeing]

@[simp] theorem outside_shortenBefore (s : State) (k : SlotIx) (want : SegIx → Bool) : (s.shortenBefore k want).outside = s.outside := by
  unfold State.shortenBefore; split <;> simp

@[simp] theorem outside_preempt (s : State) (route : List SegIx) : (s.preempt route).outside = s.outside := by
  simp [State.preempt]

@[simp] theorem outside_refuseCommit (s : State) (k : SlotIx) (f : Result × Nat) : (s.refuseCommit k f).outside = s.outside := by
  simp [State.refuseCommit]

@[simp] theorem outside_refuseOnly (s : State) (k : SlotIx) (r : Result) : (s.refuseOnly k r).outside = s.outside := by
  simp [State.refuseOnly]

@[simp] theorem outside_beginWaiting (s : State) (k : SlotIx) (f : Result × Nat) (limit : Nat) : (s.beginWaiting k f limit).outside = s.outside := by
  simp [State.beginWaiting]

@[simp] theorem outside_commitFleet (s : State) (k : SlotIx) (wait : Bool) : (s.commitFleet k wait).outside = s.outside := by
  simp only [State.commitFleet]; (repeat' split) <;> simp

@[simp] theorem outside_commitPassenger (s : State) (k : SlotIx) : (s.commitPassenger k).outside = s.outside := by
  simp only [State.commitPassenger]; (repeat' split) <;> simp

@[simp] theorem outside_commitWrite (s : State) (k : SlotIx) (v : Word) : (s.commitWrite k v).outside = s.outside := by
  simp [State.commitWrite]

@[simp] theorem outside_releasePassenger (s : State) (k : SlotIx) : (s.releasePassenger k).outside = s.outside := by
  simp [State.releasePassenger]

@[simp] theorem outside_cancelSent (s : State) (k : SlotIx) : (s.cancelSent k).outside = s.outside := by
  simp [State.cancelSent]

@[simp] theorem outside_cancelLive (s : State) (k : SlotIx) : (s.cancelLive k).outside = s.outside := by
  unfold State.cancelLive; split <;> simp

@[simp] theorem outside_cancelWrite (s : State) (k : SlotIx) (v : Word) : (s.cancelWrite k v).outside = s.outside := by
  simp [State.cancelWrite]

@[simp] theorem outside_draftWrite (s : State) (k : SlotIx) (w : Fin 11) (v : Word) : (s.draftWrite k w v).outside = s.outside := by
  simp [State.draftWrite]

@[simp] theorem outside_gatewayHandover (s : State) (k : SlotIx) : (s.gatewayHandover k).outside = s.outside := by
  simp [State.gatewayHandover]

@[simp] theorem outside_confirmExpiry (s : State) (k : SlotIx) : (s.confirmExpiry k).outside = s.outside := by
  simp [State.confirmExpiry]

@[simp] theorem outside_setOverdue (s : State) (k : SlotIx) : (s.setOverdue k).outside = s.outside := by
  simp [State.setOverdue]

@[simp] theorem outside_shortenExpiry (s : State) (k : SlotIx) : (s.shortenExpiry k).outside = s.outside := by
  simp [State.shortenExpiry]

@[simp] theorem outside_waitExpiry (s : State) (k : SlotIx) : (s.waitExpiry k).outside = s.outside := by
  simp [State.waitExpiry]

@[simp] theorem outside_restartWet (s : State) : (s.restartWet).outside = s.outside := by
  simp [State.restartWet]

@[simp] theorem outside_hear (s : State) (x : ScrubIx) (p : Position) : (s.hear x p).outside = s.outside := by
  simp [State.hear]

@[simp] theorem outside_moveTo (s : State) (x : ScrubIx) (p : Position) : (s.moveTo x p).outside = s.outside := by
  simp [State.moveTo]

@[simp] theorem outside_progressTo (s : State) (x : ScrubIx) (p : Position) : (s.progressTo x p).outside = s.outside := by
  simp only [State.progressTo]; (repeat' split) <;> simp

@[simp] theorem outside_placeMark (s : State) (x : ScrubIx) : (s.placeMark x).outside = s.outside := by
  simp [State.placeMark]

@[simp] theorem outside_setMark (s : State) (x : ScrubIx) : (s.setMark x).outside = s.outside := by
  simp [State.setMark]

@[simp] theorem outside_violation (s : State) (x : ScrubIx) (p : Position) (v : List SegIx) : (s.violation x p v).outside = s.outside := by
  simp only [State.violation]; (repeat' split) <;> simp

@[simp] theorem outside_releaseBehind (s : State) (x : ScrubIx) (p : Position) : (s.releaseBehind x p).outside = s.outside := by
  unfold State.releaseBehind; split <;> simp

@[simp] theorem outside_witness (s : State) (x : ScrubIx) (p : Position) (scrubbing : Bool) : (s.witness x p scrubbing).outside = s.outside := by
  unfold State.witness; split <;> simp

@[simp] theorem outside_confirmedNotice (s : State) (k : SlotIx) : (s.confirmedNotice k).outside = s.outside := by
  simp [State.confirmedNotice]

@[simp] theorem outside_confirm (s : State) (k : SlotIx) : (s.confirm k).outside = s.outside := by
  simp [State.confirm]

@[simp] theorem outside_confirmShortening (s : State) (k : SlotIx) : (s.confirmShortening k).outside = s.outside := by
  simp [State.confirmShortening]

@[simp] theorem outside_confirmBeyond (s : State) (k : SlotIx) (p : Position) : (s.confirmBeyond k p).outside = s.outside := by
  simp [State.confirmBeyond]

@[simp] theorem outside_giveUp (s : State) (k : SlotIx) (res : Result) : (s.giveUp k res).outside = s.outside := by
  simp [State.giveUp]

@[simp] theorem outside_slotField (s : State) (x : ScrubIx) (p : Position) (r : Report) (beyond : Bool) : (s.slotField x p r beyond).outside = s.outside := by
  simp only [State.slotField]; (repeat' split) <;> simp

@[simp] theorem outside_complete (s : State) (x : ScrubIx) (p : Position) (f : ReportFlags) : (s.complete x p f).outside = s.outside := by
  unfold State.complete; split <;> simp

@[simp] theorem outside_storeReport (s : State) (x : ScrubIx) (r : Report) : (s.storeReport x r).outside = s.outside := by
  simp [State.storeReport]

@[simp] theorem outside_processReport (s : State) (x : ScrubIx) (p : Position) (r : Report) : (s.processReport x p r).outside = s.outside := by
  simp [State.processReport]

@[simp] theorem outside_invalidReport (s : State) (c : CellIx) (r : Report) : (s.invalidReport c r).outside = s.outside := by
  simp [State.invalidReport]

@[simp] theorem outside_cellWrite (s : State) (c : CellIx) (w : Fin 3) (v : Word) : (s.cellWrite c w v).outside = s.outside := by
  simp [State.cellWrite]

@[simp] theorem outside_lostExpiry (s : State) (x : ScrubIx) : (s.lostExpiry x).outside = s.outside := by
  simp [State.lostExpiry]

@[simp] theorem outside_withdrawSlot (s : State) (x : ScrubIx) : (s.withdrawSlot x).outside = s.outside := by
  unfold State.withdrawSlot; split <;> simp

@[simp] theorem outside_park (s : State) (x : ScrubIx) (g : Option SegIx) : (s.park x g).outside = s.outside := by
  unfold State.park; split <;> simp

@[simp] theorem outside_withdraw (s : State) (x : ScrubIx) (g : Option SegIx) : (s.withdraw x g).outside = s.outside := by
  simp [State.withdraw]

@[simp] theorem outside_readmit (s : State) (x : ScrubIx) : (s.readmit x).outside = s.outside := by
  simp [State.readmit]

@[simp] theorem outside_liftMark (s : State) (x : ScrubIx) : (s.liftMark x).outside = s.outside := by
  simp [State.liftMark]

@[simp] theorem outside_zoneNotice (s : State) (kind : NoticeKind) (z : ZoneIx) : (s.zoneNotice kind z).outside = s.outside := by
  simp [State.zoneNotice]

@[simp] theorem outside_dropHolding (s : State) (z : ZoneIx) (k : SlotIx) : (s.dropHolding z k).outside = s.outside := by
  simp [State.dropHolding]

@[simp] theorem outside_reachQuiet (s : State) (z : ZoneIx) : (s.reachQuiet z).outside = s.outside := by
  simp [State.reachQuiet]

@[simp] theorem outside_enterSettling (s : State) (z : ZoneIx) : (s.enterSettling z).outside = s.outside := by
  simp [State.enterSettling]

@[simp] theorem outside_reseed (s : State) (z : ZoneIx) : (s.reseed z).outside = s.outside := by
  simp [State.reseed]

@[simp] theorem outside_addHolding (s : State) (z : ZoneIx) (k : SlotIx) : (s.addHolding z k).outside = s.outside := by
  simp [State.addHolding]

@[simp] theorem outside_presentSlot (s : State) (z : ZoneIx) (k : SlotIx) : (s.presentSlot z k).outside = s.outside := by
  simp [State.presentSlot]

@[simp] theorem outside_enterPresent (s : State) (z : ZoneIx) : (s.enterPresent z).outside = s.outside := by
  simp [State.enterPresent]

@[simp] theorem outside_endEntry (s : State) (z : ZoneIx) : (s.endEntry z).outside = s.outside := by
  simp only [State.endEntry]; split <;> simp

@[simp] theorem outside_judgeZone (s : State) (z : ZoneIx) (d : Int) : (s.judgeZone z d).outside = s.outside := by
  simp only [State.judgeZone]; split <;> simp

@[simp] theorem outside_workSample (s : State) (z : ZoneIx) (fig : Nat) : (s.workSample z fig).outside = s.outside := by
  simp [State.workSample]

@[simp] theorem outside_takeSample (s : State) (z : ZoneIx) (fig : Nat) : (s.takeSample z fig).outside = s.outside := by
  simp only [State.takeSample]; split <;> simp

@[simp] theorem outside_restartSample (s : State) (z : ZoneIx) : (s.restartSample z).outside = s.outside := by
  simp [State.restartSample]

@[simp] theorem outside_zoneSample (s : State) (z : ZoneIx) (fig : Nat) : (s.zoneSample z fig).outside = s.outside := by
  simp [State.zoneSample]

@[simp] theorem outside_moisture (s : State) (z : ZoneIx) (fig : Nat) : (s.moisture z fig).outside = s.outside := by
  simp [State.moisture]

@[simp] theorem outside_quietEnds (s : State) (z : ZoneIx) : (s.quietEnds z).outside = s.outside := by
  simp only [State.quietEnds]; split <;> simp

@[simp] theorem outside_quietExpiry (s : State) (z : ZoneIx) : (s.quietExpiry z).outside = s.outside := by
  simp [State.quietExpiry]

@[simp] theorem outside_staleExpiry (s : State) (z : ZoneIx) : (s.staleExpiry z).outside = s.outside := by
  simp [State.staleExpiry]

@[simp] theorem outside_stuckExpiry (s : State) (z : ZoneIx) : (s.stuckExpiry z).outside = s.outside := by
  simp [State.stuckExpiry]

@[simp] theorem outside_haltExpiry (s : State) (z : ZoneIx) : (s.haltExpiry z).outside = s.outside := by
  simp [State.haltExpiry]

@[simp] theorem outside_dry (s : State) (e : DryEntry) : (s.dry e).outside = s.outside := by
  simp [State.dry]

@[simp] theorem outside_extend (s : State) (e : DryEntry) (z : ZoneIx) : (s.extend e z).outside = s.outside := by
  simp [State.extend]

@[simp] theorem outside_dryOverdue (s : State) (e : DryEntry) (z : ZoneIx) : (s.dryOverdue e z).outside = s.outside := by
  simp [State.dryOverdue]

@[simp] theorem outside_expireEntry (s : State) (e : DryEntry) : (s.expireEntry e).outside = s.outside := by
  simp only [State.expireEntry]; (repeat' split) <;> simp

@[simp] theorem outside_dryingExpiry (s : State) (g : SegIx) : (s.dryingExpiry g).outside = s.outside := by
  unfold State.dryingExpiry; split <;> simp

@[simp] theorem outside_closeFloor (s : State) (i : Issuer) (g : SegIx) : (s.closeFloor i g).outside = s.outside := by
  simp only [State.closeFloor]; (repeat' split) <;> simp

@[simp] theorem outside_closeSegment (s : State) (i : Issuer) (g : SegIx) : (s.closeSegment i g).outside = s.outside := by
  simp [State.closeSegment]

@[simp] theorem outside_reopenFloor (s : State) (i : Issuer) (g : SegIx) : (s.reopenFloor i g).outside = s.outside := by
  simp [State.reopenFloor]

@[simp] theorem outside_reopenSegment (s : State) (i : Issuer) (g : SegIx) : (s.reopenSegment i g).outside = s.outside := by
  simp [State.reopenSegment]

@[simp] theorem outside_closeZone (s : State) (z : ZoneIx) : (s.closeZone z).outside = s.outside := by
  simp [State.closeZone]

@[simp] theorem outside_reopenZone (s : State) (z : ZoneIx) : (s.reopenZone z).outside = s.outside := by
  simp [State.reopenZone]

end Sys2Proof.Machine
end

