-- ==== Sys2Proof/Laws/Tables.lean ====
section
/-! SUPPORT. Reading a table after one of its records is stored. -/
namespace Sys2Proof.Machine
open Sys2Proof

@[simp] theorem seg_setSeg_same (s : State) (g : SegIx) (r : Seg) : (s.setSeg g r).seg g = r := by
  simp [State.seg, State.setSeg, State.markIf]

theorem seg_setSeg_other (s : State) (g h : SegIx) (r : Seg) (ne : g ≠ h) : (s.setSeg g r).seg h = s.seg h := by
  have : g.val ≠ h.val := fun e => ne (Fin.ext e)
  simp [State.seg, State.setSeg, State.markIf, this]

theorem seg_setSeg (s : State) (g h : SegIx) (r : Seg) : (s.setSeg g r).seg h = if g = h then r else s.seg h := by
  by_cases e : g = h
  · subst e; simp
  · simp [seg_setSeg_other s g h r e, e]

@[simp] theorem slot_setSlot_same (s : State) (k : SlotIx) (r : Slot) : (s.setSlot k r).slot k = r := by
  simp [State.slot, State.setSlot, State.markIf]

theorem slot_setSlot_other (s : State) (k j : SlotIx) (r : Slot) (ne : k ≠ j) : (s.setSlot k r).slot j = s.slot j := by
  have : k.val ≠ j.val := fun e => ne (Fin.ext e)
  simp [State.slot, State.setSlot, State.markIf, this]

theorem slot_setSlot (s : State) (k j : SlotIx) (r : Slot) :
    (s.setSlot k r).slot j = if k = j then r else s.slot j := by
  by_cases e : k = j
  · subst e; simp
  · simp [slot_setSlot_other s k j r e, e]

@[simp] theorem scrub_setScrub_same (s : State) (x : ScrubIx) (r : Scrubber) : (s.setScrub x r).scrub x = r := by
  simp [State.scrub, State.setScrub, State.markIf]

theorem scrub_setScrub_other (s : State) (x y : ScrubIx) (r : Scrubber) (ne : x ≠ y) :
    (s.setScrub x r).scrub y = s.scrub y := by
  have : x.val ≠ y.val := fun e => ne (Fin.ext e)
  simp [State.scrub, State.setScrub, State.markIf, this]

theorem scrub_setScrub (s : State) (x y : ScrubIx) (r : Scrubber) :
    (s.setScrub x r).scrub y = if x = y then r else s.scrub y := by
  by_cases e : x = y
  · subst e; simp
  · simp [scrub_setScrub_other s x y r e, e]

@[simp] theorem zone_setZone_same (s : State) (z : ZoneIx) (r : Zone) : (s.setZone z r).zone z = r := by
  simp [State.zone, State.setZone]

theorem zone_setZone_other (s : State) (z y : ZoneIx) (r : Zone) (ne : z ≠ y) : (s.setZone z r).zone y = s.zone y := by
  have : z.val ≠ y.val := fun e => ne (Fin.ext e)
  simp [State.zone, State.setZone, this]

@[simp] theorem cell_setCell_same (s : State) (c : CellIx) (r : CellCapture) : (s.setCell c r).cell c = r := by
  simp [State.cell, State.setCell]

theorem cell_setCell_other (s : State) (c d : CellIx) (r : CellCapture) (ne : c ≠ d) :
    (s.setCell c r).cell d = s.cell d := by
  have : c.val ≠ d.val := fun e => ne (Fin.ext e)
  simp [State.cell, State.setCell, this]

@[simp] theorem pinchEntry_setPinch_same (s : State) (p : PinchIx) (r : Pinch) : (s.setPinch p r).pinchEntry p = r := by
  simp [State.pinchEntry, State.setPinch]

theorem pinchEntry_setPinch_other (s : State) (p q : PinchIx) (r : Pinch) (ne : p ≠ q) :
    (s.setPinch p r).pinchEntry q = s.pinchEntry q := by
  have : p.val ≠ q.val := fun e => ne (Fin.ext e)
  simp [State.pinchEntry, State.setPinch, this]

/-! ### Reading a table after an update of something else -/

@[simp] theorem seg_markDirty (s : State) (r : MirrorRec) (j : SegIx) : (s.markDirty r).seg j = s.seg j := rfl
@[simp] theorem seg_markIf (s : State) (b : Bool) (r : MirrorRec) (j : SegIx) : (s.markIf b r).seg j = s.seg j := rfl
@[simp] theorem seg_setSlot (s : State) (i : SlotIx) (r : Slot) (j : SegIx) : (s.setSlot i r).seg j = s.seg j := rfl
@[simp] theorem seg_setScrub (s : State) (i : ScrubIx) (r : Scrubber) (j : SegIx) : (s.setScrub i r).seg j = s.seg j := rfl
@[simp] theorem seg_setPinch (s : State) (i : PinchIx) (r : Pinch) (j : SegIx) : (s.setPinch i r).seg j = s.seg j := rfl
@[simp] theorem seg_setZone (s : State) (i : ZoneIx) (r : Zone) (j : SegIx) : (s.setZone i r).seg j = s.seg j := rfl
@[simp] theorem seg_setCell (s : State) (i : CellIx) (r : CellCapture) (j : SegIx) : (s.setCell i r).seg j = s.seg j := rfl
@[simp] theorem seg_setDrying (s : State) (l : List DryEntry) (j : SegIx) : (s.setDrying l).seg j = s.seg j := rfl
@[simp] theorem seg_setQueue (s : State) (l : List SlotIx) (j : SegIx) : (s.setQueue l).seg j = s.seg j := rfl
@[simp] theorem seg_setStaging (s : State) (l : List Notice) (j : SegIx) : (s.setStaging l).seg j = s.seg j := rfl
@[simp] theorem seg_noteFreeing (s : State) (j : SegIx) : (s.noteFreeing).seg j = s.seg j := rfl
@[simp] theorem seg_clearFreeing (s : State) (j : SegIx) : (s.clearFreeing).seg j = s.seg j := rfl
@[simp] theorem seg_dropEntry (s : State) (i : SegIx) (j : SegIx) : (s.dropEntry i).seg j = s.seg j := rfl
@[simp] theorem seg_leaveQueue (s : State) (i : SlotIx) (j : SegIx) : (s.leaveQueue i).seg j = s.seg j := rfl
@[simp] theorem seg_markSlotWords (s : State) (i : SlotIx) (j : SegIx) : (s.markSlotWords i).seg j = s.seg j := rfl
@[simp] theorem seg_setDsp (s : State) (f : DspFlag) (j : SegIx) : (s.setDsp f).seg j = s.seg j := rfl
@[simp] theorem seg_setOps (s : State) (f : OpsFlag) (j : SegIx) : (s.setOps f).seg j = s.seg j := rfl
@[simp] theorem seg_answered (s : State) (b : BusAnswer) (j : SegIx) : (s.answered b).seg j = s.seg j := rfl
@[simp] theorem seg_served (s : State) (u : PortUser) (j : SegIx) : (s.served u).seg j = s.seg j := rfl
@[simp] theorem seg_writeWord (s : State) (a : BitVec 18) (w : Word) (j : SegIx) : (s.writeWord a w).seg j = s.seg j := rfl

@[simp] theorem slot_markDirty (s : State) (r : MirrorRec) (j : SlotIx) : (s.markDirty r).slot j = s.slot j := rfl
@[simp] theorem slot_markIf (s : State) (b : Bool) (r : MirrorRec) (j : SlotIx) : (s.markIf b r).slot j = s.slot j := rfl
@[simp] theorem slot_setSeg (s : State) (i : SegIx) (r : Seg) (j : SlotIx) : (s.setSeg i r).slot j = s.slot j := rfl
@[simp] theorem slot_setScrub (s : State) (i : ScrubIx) (r : Scrubber) (j : SlotIx) : (s.setScrub i r).slot j = s.slot j := rfl
@[simp] theorem slot_setPinch (s : State) (i : PinchIx) (r : Pinch) (j : SlotIx) : (s.setPinch i r).slot j = s.slot j := rfl
@[simp] theorem slot_setZone (s : State) (i : ZoneIx) (r : Zone) (j : SlotIx) : (s.setZone i r).slot j = s.slot j := rfl
@[simp] theorem slot_setCell (s : State) (i : CellIx) (r : CellCapture) (j : SlotIx) : (s.setCell i r).slot j = s.slot j := rfl
@[simp] theorem slot_setDrying (s : State) (l : List DryEntry) (j : SlotIx) : (s.setDrying l).slot j = s.slot j := rfl
@[simp] theorem slot_setQueue (s : State) (l : List SlotIx) (j : SlotIx) : (s.setQueue l).slot j = s.slot j := rfl
@[simp] theorem slot_setStaging (s : State) (l : List Notice) (j : SlotIx) : (s.setStaging l).slot j = s.slot j := rfl
@[simp] theorem slot_noteFreeing (s : State) (j : SlotIx) : (s.noteFreeing).slot j = s.slot j := rfl
@[simp] theorem slot_clearFreeing (s : State) (j : SlotIx) : (s.clearFreeing).slot j = s.slot j := rfl
@[simp] theorem slot_dropEntry (s : State) (i : SegIx) (j : SlotIx) : (s.dropEntry i).slot j = s.slot j := rfl
@[simp] theorem slot_leaveQueue (s : State) (i : SlotIx) (j : SlotIx) : (s.leaveQueue i).slot j = s.slot j := rfl
@[simp] theorem slot_markSlotWords (s : State) (i : SlotIx) (j : SlotIx) : (s.markSlotWords i).slot j = s.slot j := rfl
@[simp] theorem slot_setDsp (s : State) (f : DspFlag) (j : SlotIx) : (s.setDsp f).slot j = s.slot j := rfl
@[simp] theorem slot_setOps (s : State) (f : OpsFlag) (j : SlotIx) : (s.setOps f).slot j = s.slot j := rfl
@[simp] theorem slot_answered (s : State) (b : BusAnswer) (j : SlotIx) : (s.answered b).slot j = s.slot j := rfl
@[simp] theorem slot_served (s : State) (u : PortUser) (j : SlotIx) : (s.served u).slot j = s.slot j := rfl
@[simp] theorem slot_writeWord (s : State) (a : BitVec 18) (w : Word) (j : SlotIx) : (s.writeWord a w).slot j = s.slot j := rfl

@[simp] theorem scrub_markDirty (s : State) (r : MirrorRec) (j : ScrubIx) : (s.markDirty r).scrub j = s.scrub j := rfl
@[simp] theorem scrub_markIf (s : State) (b : Bool) (r : MirrorRec) (j : ScrubIx) : (s.markIf b r).scrub j = s.scrub j := rfl
@[simp] theorem scrub_setSeg (s : State) (i : SegIx) (r : Seg) (j : ScrubIx) : (s.setSeg i r).scrub j = s.scrub j := rfl
@[simp] theorem scrub_setSlot (s : State) (i : SlotIx) (r : Slot) (j : ScrubIx) : (s.setSlot i r).scrub j = s.scrub j := rfl
@[simp] theorem scrub_setPinch (s : State) (i : PinchIx) (r : Pinch) (j : ScrubIx) : (s.setPinch i r).scrub j = s.scrub j := rfl
@[simp] theorem scrub_setZone (s : State) (i : ZoneIx) (r : Zone) (j : ScrubIx) : (s.setZone i r).scrub j = s.scrub j := rfl
@[simp] theorem scrub_setCell (s : State) (i : CellIx) (r : CellCapture) (j : ScrubIx) : (s.setCell i r).scrub j = s.scrub j := rfl
@[simp] theorem scrub_setDrying (s : State) (l : List DryEntry) (j : ScrubIx) : (s.setDrying l).scrub j = s.scrub j := rfl
@[simp] theorem scrub_setQueue (s : State) (l : List SlotIx) (j : ScrubIx) : (s.setQueue l).scrub j = s.scrub j := rfl
@[simp] theorem scrub_setStaging (s : State) (l : List Notice) (j : ScrubIx) : (s.setStaging l).scrub j = s.scrub j := rfl
@[simp] theorem scrub_noteFreeing (s : State) (j : ScrubIx) : (s.noteFreeing).scrub j = s.scrub j := rfl
@[simp] theorem scrub_clearFreeing (s : State) (j : ScrubIx) : (s.clearFreeing).scrub j = s.scrub j := rfl
@[simp] theorem scrub_dropEntry (s : State) (i : SegIx) (j : ScrubIx) : (s.dropEntry i).scrub j = s.scrub j := rfl
@[simp] theorem scrub_leaveQueue (s : State) (i : SlotIx) (j : ScrubIx) : (s.leaveQueue i).scrub j = s.scrub j := rfl
@[simp] theorem scrub_markSlotWords (s : State) (i : SlotIx) (j : ScrubIx) : (s.markSlotWords i).scrub j = s.scrub j := rfl
@[simp] theorem scrub_setDsp (s : State) (f : DspFlag) (j : ScrubIx) : (s.setDsp f).scrub j = s.scrub j := rfl
@[simp] theorem scrub_setOps (s : State) (f : OpsFlag) (j : ScrubIx) : (s.setOps f).scrub j = s.scrub j := rfl
@[simp] theorem scrub_answered (s : State) (b : BusAnswer) (j : ScrubIx) : (s.answered b).scrub j = s.scrub j := rfl
@[simp] theorem scrub_served (s : State) (u : PortUser) (j : ScrubIx) : (s.served u).scrub j = s.scrub j := rfl
@[simp] theorem scrub_writeWord (s : State) (a : BitVec 18) (w : Word) (j : ScrubIx) : (s.writeWord a w).scrub j = s.scrub j := rfl

@[simp] theorem zone_markDirty (s : State) (r : MirrorRec) (j : ZoneIx) : (s.markDirty r).zone j = s.zone j := rfl
@[simp] theorem zone_markIf (s : State) (b : Bool) (r : MirrorRec) (j : ZoneIx) : (s.markIf b r).zone j = s.zone j := rfl
@[simp] theorem zone_setSeg (s : State) (i : SegIx) (r : Seg) (j : ZoneIx) : (s.setSeg i r).zone j = s.zone j := rfl
@[simp] theorem zone_setSlot (s : State) (i : SlotIx) (r : Slot) (j : ZoneIx) : (s.setSlot i r).zone j = s.zone j := rfl
@[simp] theorem zone_setScrub (s : State) (i : ScrubIx) (r : Scrubber) (j : ZoneIx) : (s.setScrub i r).zone j = s.zone j := rfl
@[simp] theorem zone_setPinch (s : State) (i : PinchIx) (r : Pinch) (j : ZoneIx) : (s.setPinch i r).zone j = s.zone j := rfl
@[simp] theorem zone_setCell (s : State) (i : CellIx) (r : CellCapture) (j : ZoneIx) : (s.setCell i r).zone j = s.zone j := rfl
@[simp] theorem zone_setDrying (s : State) (l : List DryEntry) (j : ZoneIx) : (s.setDrying l).zone j = s.zone j := rfl
@[simp] theorem zone_setQueue (s : State) (l : List SlotIx) (j : ZoneIx) : (s.setQueue l).zone j = s.zone j := rfl
@[simp] theorem zone_setStaging (s : State) (l : List Notice) (j : ZoneIx) : (s.setStaging l).zone j = s.zone j := rfl
@[simp] theorem zone_noteFreeing (s : State) (j : ZoneIx) : (s.noteFreeing).zone j = s.zone j := rfl
@[simp] theorem zone_clearFreeing (s : State) (j : ZoneIx) : (s.clearFreeing).zone j = s.zone j := rfl
@[simp] theorem zone_dropEntry (s : State) (i : SegIx) (j : ZoneIx) : (s.dropEntry i).zone j = s.zone j := rfl
@[simp] theorem zone_leaveQueue (s : State) (i : SlotIx) (j : ZoneIx) : (s.leaveQueue i).zone j = s.zone j := rfl
@[simp] theorem zone_markSlotWords (s : State) (i : SlotIx) (j : ZoneIx) : (s.markSlotWords i).zone j = s.zone j := rfl
@[simp] theorem zone_setDsp (s : State) (f : DspFlag) (j : ZoneIx) : (s.setDsp f).zone j = s.zone j := rfl
@[simp] theorem zone_setOps (s : State) (f : OpsFlag) (j : ZoneIx) : (s.setOps f).zone j = s.zone j := rfl
@[simp] theorem zone_answered (s : State) (b : BusAnswer) (j : ZoneIx) : (s.answered b).zone j = s.zone j := rfl
@[simp] theorem zone_served (s : State) (u : PortUser) (j : ZoneIx) : (s.served u).zone j = s.zone j := rfl
@[simp] theorem zone_writeWord (s : State) (a : BitVec 18) (w : Word) (j : ZoneIx) : (s.writeWord a w).zone j = s.zone j := rfl

@[simp] theorem cell_markDirty (s : State) (r : MirrorRec) (j : CellIx) : (s.markDirty r).cell j = s.cell j := rfl
@[simp] theorem cell_markIf (s : State) (b : Bool) (r : MirrorRec) (j : CellIx) : (s.markIf b r).cell j = s.cell j := rfl
@[simp] theorem cell_setSeg (s : State) (i : SegIx) (r : Seg) (j : CellIx) : (s.setSeg i r).cell j = s.cell j := rfl
@[simp] theorem cell_setSlot (s : State) (i : SlotIx) (r : Slot) (j : CellIx) : (s.setSlot i r).cell j = s.cell j := rfl
@[simp] theorem cell_setScrub (s : State) (i : ScrubIx) (r : Scrubber) (j : CellIx) : (s.setScrub i r).cell j = s.cell j := rfl
@[simp] theorem cell_setPinch (s : State) (i : PinchIx) (r : Pinch) (j : CellIx) : (s.setPinch i r).cell j = s.cell j := rfl
@[simp] theorem cell_setZone (s : State) (i : ZoneIx) (r : Zone) (j : CellIx) : (s.setZone i r).cell j = s.cell j := rfl
@[simp] theorem cell_setDrying (s : State) (l : List DryEntry) (j : CellIx) : (s.setDrying l).cell j = s.cell j := rfl
@[simp] theorem cell_setQueue (s : State) (l : List SlotIx) (j : CellIx) : (s.setQueue l).cell j = s.cell j := rfl
@[simp] theorem cell_setStaging (s : State) (l : List Notice) (j : CellIx) : (s.setStaging l).cell j = s.cell j := rfl
@[simp] theorem cell_noteFreeing (s : State) (j : CellIx) : (s.noteFreeing).cell j = s.cell j := rfl
@[simp] theorem cell_clearFreeing (s : State) (j : CellIx) : (s.clearFreeing).cell j = s.cell j := rfl
@[simp] theorem cell_dropEntry (s : State) (i : SegIx) (j : CellIx) : (s.dropEntry i).cell j = s.cell j := rfl
@[simp] theorem cell_leaveQueue (s : State) (i : SlotIx) (j : CellIx) : (s.leaveQueue i).cell j = s.cell j := rfl
@[simp] theorem cell_markSlotWords (s : State) (i : SlotIx) (j : CellIx) : (s.markSlotWords i).cell j = s.cell j := rfl
@[simp] theorem cell_setDsp (s : State) (f : DspFlag) (j : CellIx) : (s.setDsp f).cell j = s.cell j := rfl
@[simp] theorem cell_setOps (s : State) (f : OpsFlag) (j : CellIx) : (s.setOps f).cell j = s.cell j := rfl
@[simp] theorem cell_answered (s : State) (b : BusAnswer) (j : CellIx) : (s.answered b).cell j = s.cell j := rfl
@[simp] theorem cell_served (s : State) (u : PortUser) (j : CellIx) : (s.served u).cell j = s.cell j := rfl
@[simp] theorem cell_writeWord (s : State) (a : BitVec 18) (w : Word) (j : CellIx) : (s.writeWord a w).cell j = s.cell j := rfl

@[simp] theorem pinchEntry_markDirty (s : State) (r : MirrorRec) (j : PinchIx) : (s.markDirty r).pinchEntry j = s.pinchEntry j := rfl
@[simp] theorem pinchEntry_markIf (s : State) (b : Bool) (r : MirrorRec) (j : PinchIx) : (s.markIf b r).pinchEntry j = s.pinchEntry j := rfl
@[simp] theorem pinchEntry_setSeg (s : State) (i : SegIx) (r : Seg) (j : PinchIx) : (s.setSeg i r).pinchEntry j = s.pinchEntry j := rfl
@[simp] theorem pinchEntry_setSlot (s : State) (i : SlotIx) (r : Slot) (j : PinchIx) : (s.setSlot i r).pinchEntry j = s.pinchEntry j := rfl
@[simp] theorem pinchEntry_setScrub (s : State) (i : ScrubIx) (r : Scrubber) (j : PinchIx) : (s.setScrub i r).pinchEntry j = s.pinchEntry j := rfl
@[simp] theorem pinchEntry_setZone (s : State) (i : ZoneIx) (r : Zone) (j : PinchIx) : (s.setZone i r).pinchEntry j = s.pinchEntry j := rfl
@[simp] theorem pinchEntry_setCell (s : State) (i : CellIx) (r : CellCapture) (j : PinchIx) : (s.setCell i r).pinchEntry j = s.pinchEntry j := rfl
@[simp] theorem pinchEntry_setDrying (s : State) (l : List DryEntry) (j : PinchIx) : (s.setDrying l).pinchEntry j = s.pinchEntry j := rfl
@[simp] theorem pinchEntry_setQueue (s : State) (l : List SlotIx) (j : PinchIx) : (s.setQueue l).pinchEntry j = s.pinchEntry j := rfl
@[simp] theorem pinchEntry_setStaging (s : State) (l : List Notice) (j : PinchIx) : (s.setStaging l).pinchEntry j = s.pinchEntry j := rfl
@[simp] theorem pinchEntry_noteFreeing (s : State) (j : PinchIx) : (s.noteFreeing).pinchEntry j = s.pinchEntry j := rfl
@[simp] theorem pinchEntry_clearFreeing (s : State) (j : PinchIx) : (s.clearFreeing).pinchEntry j = s.pinchEntry j := rfl
@[simp] theorem pinchEntry_dropEntry (s : State) (i : SegIx) (j : PinchIx) : (s.dropEntry i).pinchEntry j = s.pinchEntry j := rfl
@[simp] theorem pinchEntry_leaveQueue (s : State) (i : SlotIx) (j : PinchIx) : (s.leaveQueue i).pinchEntry j = s.pinchEntry j := rfl
@[simp] theorem pinchEntry_markSlotWords (s : State) (i : SlotIx) (j : PinchIx) : (s.markSlotWords i).pinchEntry j = s.pinchEntry j := rfl
@[simp] theorem pinchEntry_setDsp (s : State) (f : DspFlag) (j : PinchIx) : (s.setDsp f).pinchEntry j = s.pinchEntry j := rfl
@[simp] theorem pinchEntry_setOps (s : State) (f : OpsFlag) (j : PinchIx) : (s.setOps f).pinchEntry j = s.pinchEntry j := rfl
@[simp] theorem pinchEntry_answered (s : State) (b : BusAnswer) (j : PinchIx) : (s.answered b).pinchEntry j = s.pinchEntry j := rfl
@[simp] theorem pinchEntry_served (s : State) (u : PortUser) (j : PinchIx) : (s.served u).pinchEntry j = s.pinchEntry j := rfl
@[simp] theorem pinchEntry_writeWord (s : State) (a : BitVec 18) (w : Word) (j : PinchIx) : (s.writeWord a w).pinchEntry j = s.pinchEntry j := rfl

end Sys2Proof.Machine
end

