-- ==== Sys2Proof/Laws/SlotMoves.lean ====
section
/-! SUPPORT. How one slot record may move inside an event, and the ordered lists of marks and drying entries. -/

namespace Sys2Proof.Machine
open Sys2Proof

/-! ### Slot records -/

/-- How an authority may shrink: the revision is advanced once for each index at most that the end index loses. -/
def Slot.shrinks (r t : Slot) : Prop :=
  r.state.authority = true → t.state.authority = true →
    ∃ n, t.endIx + n ≤ r.endIx ∧ t.revision = nextRevision^[n] r.revision ∧ (n = 0 → t.endIx = r.endIx)

/-- How one slot record may move without a commit. -/
structure SlotMove (r t : Slot) : Prop where
  live : t.state ≠ .idle → r.state ≠ .idle
  waits : t.state = .waiting → r.state = .waiting
  named : t.scrubber = r.scrubber
  shrinks : r.shrinks t
  short : r.route.length ≤ 10 ∧ r.endIx ≤ 10 → t.route.length ≤ 10 ∧ t.endIx ≤ 10

theorem SlotMove.refl (r : Slot) : SlotMove r r where
  live := id
  waits := id
  named := rfl
  shrinks := fun _ _ => ⟨0, by omega, rfl, fun _ => rfl⟩
  short := id

theorem authority_of_live (x : SlotState) (h1 : x ≠ .idle) (h2 : x ≠ .waiting) : x.authority = true := by
  cases x <;> simp_all [SlotState.authority]

theorem live_of_authority (x : SlotState) (h : x.authority = true) : x ≠ .idle ∧ x ≠ .waiting := by
  cases x <;> simp_all [SlotState.authority]

theorem SlotMove.trans {r u t : Slot} (a : SlotMove r u) (b : SlotMove u t) : SlotMove r t where
  live := fun h => a.live (b.live h)
  waits := fun h => a.waits (b.waits h)
  named := b.named.trans a.named
  short := fun h => b.short (a.short h)
  shrinks := by
    intro hr ht
    have hu : u.state.authority = true := by
      apply authority_of_live
      · exact b.live (live_of_authority _ ht).1
      · exact fun e => (live_of_authority _ hr).2 (a.waits e)
    obtain ⟨n, h1, h2, h3⟩ := a.shrinks hr hu
    obtain ⟨m, k1, k2, k3⟩ := b.shrinks hu ht
    refine ⟨m + n, by omega, ?_, ?_⟩
    · rw [k2, h2, Function.iterate_add_apply]
    · intro h
      have hm : m = 0 := by omega
      have hn : n = 0 := by omega
      rw [k3 hm, h3 hn]

/-- A record that keeps its state, scrubber, route, end index and revision has moved. -/
theorem SlotMove.keep (r t : Slot) (h1 : t.state = r.state) (h2 : t.scrubber = r.scrubber) (h3 : t.route = r.route)
    (h4 : t.endIx = r.endIx) (h5 : t.revision = r.revision) : SlotMove r t where
  live := by rw [h1]; exact id
  waits := by rw [h1]; exact id
  named := h2
  shrinks := fun _ _ => ⟨0, by omega, by simp [h5], fun _ => h4⟩
  short := by rw [h3, h4]; exact id

/-- A record that goes from a state with its authority to another one, or keeps its state's kind. -/
theorem SlotMove.rename (r t : Slot) (h0 : r.state ≠ .idle) (h1 : t.state ≠ .waiting) (h2 : t.scrubber = r.scrubber)
    (h3 : t.route = r.route) (h4 : t.endIx = r.endIx) (h5 : t.revision = r.revision) : SlotMove r t where
  live := fun _ => h0
  waits := fun h => absurd h h1
  named := h2
  shrinks := fun _ _ => ⟨0, by omega, by simp [h5], fun _ => h4⟩
  short := by rw [h3, h4]; exact id

/-- The return to IDLE. -/
theorem SlotMove.ended (r t : Slot) (h1 : t.state = .idle) (h2 : t.scrubber = r.scrubber) (h3 : t.route = [])
    (h4 : t.endIx = 0) : SlotMove r t where
  live := fun h => absurd h1 h
  waits := fun h => by rw [h1] at h; cases h
  named := h2
  shrinks := fun _ h => by rw [h1] at h; simp [SlotState.authority] at h
  short := fun _ => by simp [h3, h4]

/-- A shortening (R112). -/
theorem SlotMove.shortened (r t : Slot) (h0 : r.state.authority = true) (h1 : t.state ≠ .waiting)
    (h2 : t.scrubber = r.scrubber) (h3 : t.route = r.route) (h4 : t.endIx < r.endIx)
    (h5 : t.revision = nextRevision r.revision) : SlotMove r t where
  live := fun _ => (live_of_authority _ h0).1
  waits := fun h => absurd h h1
  named := h2
  shrinks := fun _ _ => ⟨1, by omega, by simp [h5], fun h => by omega⟩
  short := by rw [h3]; intro h; omega

/-- A grant or activation of a waiting slot (R65, R70). -/
theorem SlotMove.granted (r t : Slot) (h0 : r.state = .waiting) (h1 : t.state ≠ .waiting)
    (h2 : t.scrubber = r.scrubber) (h3 : t.route = r.route) (h4 : t.endIx = r.route.length) : SlotMove r t where
  live := fun _ => by rw [h0]; decide
  waits := fun h => absurd h h1
  named := h2
  shrinks := fun h => by rw [h0] at h; simp [SlotState.authority] at h
  short := by rw [h3]; intro h; omega

/-! ### Ordered lists -/

theorem mem_insertBy_imp {α : Type} (key : α → Nat) (x : α) (l : List α) (y : α) (h : y ∈ insertBy key x l) :
    y = x ∨ y ∈ l := by
  induction l with
  | nil => simpa [insertBy] using h
  | cons z l ih =>
    simp only [insertBy] at h
    split at h
    · simpa using h
    · split at h
      · exact Or.inr h
      · rcases List.mem_cons.mp h with e | e
        · exact Or.inr (List.mem_cons.mpr (Or.inl e))
        · rcases ih e with k | k
          · exact Or.inl k
          · exact Or.inr (List.mem_cons.mpr (Or.inr k))

theorem pairwise_insertBy {α : Type} (key : α → Nat) (x : α) (l : List α)
    (h : l.Pairwise (fun a b => key a < key b)) : (insertBy key x l).Pairwise (fun a b => key a < key b) := by
  induction l with
  | nil => simp [insertBy]
  | cons z l ih =>
    obtain ⟨hz, hl⟩ := List.pairwise_cons.mp h
    simp only [insertBy]
    split
    · rename_i lt
      refine List.pairwise_cons.mpr ⟨?_, h⟩
      intro a ha
      rcases List.mem_cons.mp ha with e | e
      · rw [e]; exact lt
      · exact Nat.lt_trans lt (hz a e)
    · split
      · exact h
      · refine List.pairwise_cons.mpr ⟨?_, ih hl⟩
        intro a ha
        rcases mem_insertBy_imp key x l a ha with e | e
        · rw [e]; omega
        · exact hz a e

theorem mem_insertEntry (e : DryEntry) (l : List DryEntry) (y : DryEntry) :
    y ∈ insertEntry e l ↔ y = e ∨ y ∈ l := by
  induction l with
  | nil => simp [insertEntry]
  | cons z l ih =>
    simp only [insertEntry]
    split
    · simp
    · simp only [List.mem_cons, ih]; tauto

theorem pairwise_insertEntry (e : DryEntry) (l : List DryEntry)
    (h : l.Pairwise (fun a b => a.expiry.toNat ≤ b.expiry.toNat)) :
    (insertEntry e l).Pairwise (fun a b => a.expiry.toNat ≤ b.expiry.toNat) := by
  induction l with
  | nil => simp [insertEntry]
  | cons z l ih =>
    obtain ⟨hz, hl⟩ := List.pairwise_cons.mp h
    simp only [insertEntry]
    split
    · rename_i lt
      refine List.pairwise_cons.mpr ⟨?_, h⟩
      intro a ha
      rcases List.mem_cons.mp ha with k | k
      · rw [k]; omega
      · have := hz a k; omega
    · refine List.pairwise_cons.mpr ⟨?_, ih hl⟩
      intro a ha
      rcases (mem_insertEntry e l a).mp ha with k | k
      · rw [k]; omega
      · exact hz a k

theorem nodup_insertEntry (e : DryEntry) (l : List DryEntry) (h : (l.map DryEntry.seg).Nodup)
    (ne : ∀ a ∈ l, a.seg ≠ e.seg) : ((insertEntry e l).map DryEntry.seg).Nodup := by
  induction l with
  | nil => simp [insertEntry]
  | cons z l ih =>
    simp only [List.map_cons, List.nodup_cons] at h
    simp only [insertEntry]
    split
    · simp only [List.map_cons, List.nodup_cons, List.mem_cons]
      refine ⟨?_, h.1, h.2⟩
      rintro (k | k)
      · exact ne z (by simp) k.symm
      · obtain ⟨a, ha, hs⟩ := List.mem_map.mp k
        exact ne a (by simp [ha]) hs
    · simp only [List.map_cons, List.nodup_cons]
      refine ⟨?_, ih h.2 (fun a ha => ne a (by simp [ha]))⟩
      intro k
      obtain ⟨a, ha, hs⟩ := List.mem_map.mp k
      rcases (mem_insertEntry e l a).mp ha with q | q
      · subst q; exact ne z (by simp) hs.symm
      · exact h.1 (List.mem_map.mpr ⟨a, q, hs⟩)

end Sys2Proof.Machine
end

