-- ==== Sys2Proof/Laws/DryingList.lean ====
section
/-! SUPPORT. The law of the drying list, and what each change of one segment needs to keep it (R38, R126). -/
namespace Sys2Proof.Machine
open Sys2Proof

theorem wetAgrees_congr (s t : State) (g : SegIx) (hw : (t.seg g).wet = (s.seg g).wet) (hd : t.drying = s.drying) :
    t.wetAgrees g ↔ s.wetAgrees g := by
  unfold State.wetAgrees; rw [hw, hd]

/-- What a change of one segment must show of that segment to keep the law. -/
structure SegKept (s t : State) (g : SegIx) : Prop where
  mode : t.mode = s.mode
  others : ∀ h, h ≠ g → t.seg h = s.seg h
  dryHeld : (t.seg g).holder.isSome = true → (t.seg g).wet = none
  carried : (t.seg g).carried = true → (t.seg g).holder.any isFleet = true
  resting : s.mode ≠ .service → (t.seg g).wet = none ∧ (t.seg g).holder = none

theorem dryingLaw_of_parts (s t : State) (g : SegIx) (k : SegKept s t g) (law : s.dryingLaw)
    (nd : (t.drying.map DryEntry.seg).Nodup) (ord : t.drying.Pairwise (fun a b => a.expiry.toNat ≤ b.expiry.toNat))
    (here : t.wetAgrees g) (there : ∀ h, h ≠ g → (t.wetAgrees h ↔ s.wetAgrees h)) : t.dryingLaw := by
  obtain ⟨_, _, l3, l4, l5, l6⟩ := law
  refine ⟨nd, ord, ?_, ?_, ?_, ?_⟩
  · intro h
    by_cases e : h = g
    · subst e; exact here
    · exact (there h e).mpr (l3 h)
  · intro h
    by_cases e : h = g
    · subst e; exact k.dryHeld
    · rw [k.others h e]; exact l4 h
  · intro h
    by_cases e : h = g
    · subst e; exact k.carried
    · rw [k.others h e]; exact l5 h
  · intro hm h
    rw [k.mode] at hm
    by_cases e : h = g
    · subst e; exact k.resting hm
    · rw [k.others h e]; exact l6 hm h

/-- The wet field and the list stay. -/
theorem dryingLaw_keep (s t : State) (g : SegIx) (k : SegKept s t g) (law : s.dryingLaw)
    (hd : t.drying = s.drying) (hw : (t.seg g).wet = (s.seg g).wet) : t.dryingLaw := by
  have l := law
  obtain ⟨l1, l2, l3, _⟩ := l
  refine dryingLaw_of_parts s t g k law (by rw [hd]; exact l1) (by rw [hd]; exact l2) ?_ ?_
  · exact (wetAgrees_congr s t g hw hd).mpr (l3 g)
  · intro h e
    exact wetAgrees_congr s t h (by rw [k.others h e]) hd

/-- The segment's entry leaves the list. -/
theorem dryingLaw_drop (s t : State) (g : SegIx) (k : SegKept s t g) (law : s.dryingLaw)
    (hd : t.drying = s.drying.filter (fun e => e.seg != g)) (hw : (t.seg g).wet = none) : t.dryingLaw := by
  have l := law
  obtain ⟨l1, l2, l3, _⟩ := l
  refine dryingLaw_of_parts s t g k law ?_ ?_ ?_ ?_
  · rw [hd]
    exact List.Nodup.sublist (List.Sublist.map _ List.filter_sublist) l1
  · rw [hd]; exact l2.filter _
  · unfold State.wetAgrees
    rw [hw, hd]
    intro e he
    have := (List.mem_filter.mp he).2
    simpa using this
  · intro h e
    unfold State.wetAgrees
    rw [k.others h e, hd]
    cases (s.seg h).wet with
    | none =>
      constructor
      · intro a x hx ex
        refine a x (List.mem_filter.mpr ⟨hx, ?_⟩) ex
        simp only [bne_iff_ne]; rw [ex]; exact e
      · intro a x hx
        exact a x (List.mem_filter.mp hx).1
    | some w =>
      constructor
      · rintro ⟨x, hx, ex⟩
        exact ⟨x, (List.mem_filter.mp hx).1, ex⟩
      · rintro ⟨x, hx, ex⟩
        refine ⟨x, List.mem_filter.mpr ⟨hx, ?_⟩, ex⟩
        simp only [bne_iff_ne]; rw [ex.1]; exact e

/-- The segment's entry is put in the list, in place of an earlier one. -/
theorem dryingLaw_put (s t : State) (g : SegIx) (x : DryEntry) (k : SegKept s t g) (law : s.dryingLaw)
    (hg : x.seg = g) (hd : t.drying = insertEntry x (s.drying.filter (fun e => e.seg != g)))
    (hw : (t.seg g).wet = some { expiry := x.expiry, count := x.count }) : t.dryingLaw := by
  have l := law
  obtain ⟨l1, l2, l3, _⟩ := l
  have ne : ∀ a ∈ s.drying.filter (fun e => e.seg != g), a.seg ≠ x.seg := by
    intro a ha
    have := (List.mem_filter.mp ha).2
    rw [hg]; simpa using this
  refine dryingLaw_of_parts s t g k law ?_ ?_ ?_ ?_
  · rw [hd]
    exact nodup_insertEntry x _ (List.Nodup.sublist (List.Sublist.map _ List.filter_sublist) l1) ne
  · rw [hd]; exact pairwise_insertEntry x _ (l2.filter _)
  · unfold State.wetAgrees
    rw [hw, hd]
    exact ⟨x, (mem_insertEntry x _ x).mpr (Or.inl rfl), hg, rfl, rfl⟩
  · intro h e
    unfold State.wetAgrees
    rw [k.others h e, hd]
    cases (s.seg h).wet with
    | none =>
      constructor
      · intro a y hy ey
        refine a y ((mem_insertEntry _ _ _).mpr (Or.inr (List.mem_filter.mpr ⟨hy, ?_⟩))) ey
        simp only [bne_iff_ne]; rw [ey]; exact e
      · intro a y hy
        rcases (mem_insertEntry _ _ _).mp hy with q | q
        · rw [q, hg]; exact fun z => e z.symm
        · exact a y (List.mem_filter.mp q).1
    | some w =>
      constructor
      · rintro ⟨y, hy, ey⟩
        rcases (mem_insertEntry _ _ _).mp hy with q | q
        · rw [q, hg] at ey; exact absurd ey.1.symm e
        · exact ⟨y, (List.mem_filter.mp q).1, ey⟩
      · rintro ⟨y, hy, ey⟩
        refine ⟨y, (mem_insertEntry _ _ _).mpr (Or.inr (List.mem_filter.mpr ⟨hy, ?_⟩)), ey⟩
        simp only [bne_iff_ne]; rw [ey.1]; exact e

/-- Without an entry for a segment, taking its entries off leaves the list. -/
theorem filter_drying_of_dry (s : State) (g : SegIx) (law : s.dryingLaw) (h : (s.seg g).wet = none) :
    s.drying.filter (fun e => e.seg != g) = s.drying := by
  have a := law.2.2.1 g
  unfold State.wetAgrees at a
  rw [h] at a
  rw [List.filter_eq_self]
  intro e he
  simpa using a e he

/-- Nothing the law speaks of changes. -/
theorem dryingLaw_same (s t : State) (hm : t.mode = s.mode) (hd : t.drying = s.drying)
    (hs : ∀ g, (t.seg g).wet = (s.seg g).wet ∧ (t.seg g).holder = (s.seg g).holder
      ∧ (t.seg g).carried = (s.seg g).carried) (law : s.dryingLaw) : t.dryingLaw := by
  obtain ⟨l1, l2, l3, l4, l5, l6⟩ := law
  refine ⟨by rw [hd]; exact l1, by rw [hd]; exact l2, ?_, ?_, ?_, ?_⟩
  · intro g; exact (wetAgrees_congr s t g (hs g).1 hd).mpr (l3 g)
  · intro g; rw [(hs g).1, (hs g).2.1]; exact l4 g
  · intro g; rw [(hs g).2.1, (hs g).2.2]; exact l5 g
  · intro h g; rw [hm] at h; rw [(hs g).1, (hs g).2.1]; exact l6 h g

/-! ### The operations -/

theorem mode_of_outside {s t : State} (h : t.outside = s.outside) : t.mode = s.mode := congrArg Outside.mode h

/-- A change of one segment record that leaves wet, holder and carried wet. -/
theorem dryingLaw_setSeg (s : State) (g : SegIx) (r : Seg) (hw : r.wet = (s.seg g).wet)
    (hh : r.holder = (s.seg g).holder) (hc : r.carried = (s.seg g).carried) (law : s.dryingLaw) :
    (s.setSeg g r).dryingLaw := by
  refine dryingLaw_same s _ rfl rfl ?_ law
  intro h
  rw [seg_setSeg]
  split
  · subst h; exact ⟨hw, hh, hc⟩
  · exact ⟨rfl, rfl, rfl⟩

/-- The mark-wet request on dry floor that nobody holds, in SERVICE (R44, R127). -/
theorem dryingLaw_markWet (s : State) (g : SegIx) (law : s.dryingLaw) (hm : s.mode = .service)
    (hw : (s.seg g).wet = none) (hh : (s.seg g).holder = none) (hc : (s.seg g).carried = false) :
    (s.markWet g).dryingLaw := by
  let x : DryEntry :=
    { seg := g, expiry := s.after (100 * (s.floorClass (s.resolvedClass g)).drying), count := 0,
      cls := s.resolvedClass g,
      check := (s.floorClass (s.resolvedClass g)).moistureCheck && (s.fixed g).zone.isSome }
  have hseg : ((s.markWet g).seg g) = { s.seg g with wet := some { expiry := x.expiry, count := x.count } } := by
    simp only [State.markWet, seg_setSeg_same]; rfl
  refine dryingLaw_put s _ g x ⟨rfl, ?_, ?_, ?_, ?_⟩ law rfl ?_ ?_
  · intro h e
    simp only [State.markWet]
    rw [seg_setSeg_other _ _ _ _ (fun q => e q.symm)]
    rfl
  · rw [hseg]; simp [hh]
  · rw [hseg]; simp [hc]
  · intro q; exact absurd hm q
  · rw [filter_drying_of_dry s g law hw]; rfl
  · rw [hseg]

/-- Bringing a pinch group up to date changes its entry and the note of a freeing change alone (R48, R49). -/
theorem refreshPinch_eq (s : State) (p : PinchIx) (gain : Option ScrubIx) :
    ∃ l f, s.refreshPinch p gain = { s with pinch := l, freeing := f } := by
  unfold State.refreshPinch
  (repeat' split) <;> exact ⟨_, _, rfl⟩

theorem refreshPinchOf_eq (s : State) (g : SegIx) (gain : Option ScrubIx) :
    ∃ l f, s.refreshPinchOf g gain = { s with pinch := l, freeing := f } := by
  unfold State.refreshPinchOf
  split
  · exact ⟨_, _, rfl⟩
  · exact refreshPinch_eq s _ gain

@[simp] theorem seg_refreshPinchOf (s : State) (g h : SegIx) (gain : Option ScrubIx) :
    (s.refreshPinchOf g gain).seg h = s.seg h := by
  obtain ⟨l, f, e⟩ := refreshPinchOf_eq s g gain; rw [e]; rfl

@[simp] theorem drying_refreshPinchOf (s : State) (g : SegIx) (gain : Option ScrubIx) :
    (s.refreshPinchOf g gain).drying = s.drying := by
  obtain ⟨l, f, e⟩ := refreshPinchOf_eq s g gain; rw [e]

@[simp] theorem mode_refreshPinchOf (s : State) (g : SegIx) (gain : Option ScrubIx) :
    (s.refreshPinchOf g gain).mode = s.mode := by
  obtain ⟨l, f, e⟩ := refreshPinchOf_eq s g gain; rw [e]

@[simp] theorem slots_refreshPinchOf (s : State) (g : SegIx) (gain : Option ScrubIx) :
    (s.refreshPinchOf g gain).slots = s.slots := by
  obtain ⟨l, f, e⟩ := refreshPinchOf_eq s g gain; rw [e]

theorem dryingLaw_refreshPinchOf (s : State) (g : SegIx) (gain : Option ScrubIx) (law : s.dryingLaw) :
    (s.refreshPinchOf g gain).dryingLaw :=
  dryingLaw_same s _ (by simp) (by simp) (by simp) law

theorem dryingLaw_noteFreeing (s : State) (law : s.dryingLaw) : s.noteFreeing.dryingLaw :=
  dryingLaw_same s _ rfl rfl (fun _ => ⟨rfl, rfl, rfl⟩) law

/-- Taking hold of one segment for a fleet slot (R40). -/
theorem dryingLaw_takeFleet (s : State) (k : SlotIx) (e : SegIx × Nat) (hk : isFleet k = true) (hm : s.mode = .service)
    (law : s.dryingLaw) (hw : e.2 ≠ 1 → (s.seg e.1).wet = none) : (s.takeFleet k e).dryingLaw := by
  have key : ∀ u : State, u.mode = s.mode → u.drying = s.drying →
      (∀ h, u.seg h = (s.setSeg e.1 { s.seg e.1 with holder := some k }).seg h) →
      (if e.2 = 1 then u.suspendWet e.1 else u).dryingLaw := by
    intro u um ud us
    have ug : u.seg e.1 = { s.seg e.1 with holder := some k } := by rw [us, seg_setSeg_same]
    have uo : ∀ h, h ≠ e.1 → u.seg h = s.seg h := fun h ne => by
      rw [us, seg_setSeg_other _ _ _ _ (fun z => ne z.symm)]
    have held : (s.seg e.1).wet = none → u.dryingLaw := by
      intro hn
      refine dryingLaw_keep s u e.1 ⟨um, uo, ?_, ?_, fun z => absurd hm z⟩ law ud ?_
      · intro _; rw [ug]; exact hn
      · intro _; rw [ug]; simp [hk]
      · rw [ug]
    split
    · unfold State.suspendWet
      split
      · rename_i hn
        rw [ug] at hn
        exact held hn
      · apply dryingLaw_noteFreeing
        have dg : ∀ h, (u.dropEntry e.1).seg h = u.seg h := fun _ => rfl
        refine dryingLaw_drop s _ e.1 ⟨um, ?_, ?_, ?_, fun z => absurd hm z⟩ law ?_ ?_
        · intro h ne
          rw [seg_setSeg_other _ _ _ _ (fun z => ne z.symm), dg, uo h ne]
        · intro _; rw [seg_setSeg_same]
        · intro _; rw [seg_setSeg_same, dg, ug]; simp [hk]
        · rw [← ud]; rfl
        · rw [seg_setSeg_same]
    · rename_i h1
      exact held (hw h1)
  unfold State.takeFleet
  apply key
  · rw [mode_refreshPinchOf]; rfl
  · rw [drying_refreshPinchOf]; rfl
  · intro h; rw [seg_refreshPinchOf]

theorem dryingLaw_removeClaim (s : State) (k : SlotIx) (g : SegIx) (law : s.dryingLaw) :
    (s.removeClaim k g).dryingLaw := by
  unfold State.removeClaim
  split
  · exact dryingLaw_noteFreeing _ (dryingLaw_setSeg s g _ rfl rfl rfl law)
  · exact law

theorem dryingLaw_takePassenger (s : State) (k : SlotIx) (g : SegIx) (hm : s.mode = .service) (law : s.dryingLaw)
    (hw : (s.seg g).wet = none) (hc : (s.seg g).carried = false) : (s.takePassenger k g).dryingLaw := by
  unfold State.takePassenger
  apply dryingLaw_removeClaim
  refine dryingLaw_keep s _ g ⟨rfl, ?_, ?_, ?_, fun z => absurd hm z⟩ law rfl ?_
  · intro h ne; exact seg_setSeg_other _ _ _ _ (fun z => ne z.symm)
  · intro _; rw [seg_setSeg_same]; exact hw
  · rw [seg_setSeg_same]
    intro z
    change (s.seg g).carried = true at z
    rw [hc] at z; cases z
  · rw [seg_setSeg_same]

/-- Taking hold makes no segment wet (R40). -/
theorem wet_takeFleet (s : State) (k : SlotIx) (e : SegIx × Nat) (h : SegIx) (hw : (s.seg h).wet = none) :
    ((s.takeFleet k e).seg h).wet = none := by
  have q : ((s.setSeg e.1 { s.seg e.1 with holder := some k }).seg h).wet = none := by
    rw [seg_setSeg]; split
    · rename_i z; subst z; exact hw
    · exact hw
  unfold State.takeFleet
  dsimp only
  split
  · unfold State.suspendWet
    split
    · rw [seg_refreshPinchOf]; exact q
    · rw [seg_noteFreeing, seg_setSeg]; split
      · rfl
      · rw [seg_dropEntry, seg_refreshPinchOf]; exact q
  · rw [seg_refreshPinchOf]; exact q

theorem wet_carried_takePassenger (s : State) (k : SlotIx) (g h : SegIx) :
    ((s.takePassenger k g).seg h).wet = (s.seg h).wet ∧ ((s.takePassenger k g).seg h).carried = (s.seg h).carried := by
  have q : ∀ h, ((s.setSeg g { s.seg g with holder := some k }).seg h).wet = (s.seg h).wet
      ∧ ((s.setSeg g { s.seg g with holder := some k }).seg h).carried = (s.seg h).carried := by
    intro h
    rw [seg_setSeg]; split
    · rename_i z; subst z; exact ⟨rfl, rfl⟩
    · exact ⟨rfl, rfl⟩
  unfold State.takePassenger State.removeClaim
  split
  · rw [seg_noteFreeing, seg_setSeg]; split
    · rename_i z; subst z; exact q g
    · exact q h
  · exact q h

/-- Taking hold of a whole fleet route whose entries past the first are dry (R40). -/
theorem dryingLaw_takeFleets (k : SlotIx) (hk : isFleet k = true) (l : List (SegIx × Nat)) (s : State)
    (hm : s.mode = .service) (law : s.dryingLaw) (hw : ∀ e ∈ l, e.2 ≠ 1 → (s.seg e.1).wet = none) :
    (l.foldl (fun s e => s.takeFleet k e) s).dryingLaw := by
  induction l generalizing s with
  | nil => exact law
  | cons e l ih =>
    refine ih _ ?_ (dryingLaw_takeFleet s k e hk hm law (hw e (by simp))) ?_
    · exact (mode_of_outside (outside_takeFleet s k e)).trans hm
    · intro a ha h1
      exact wet_takeFleet s k e a.1 (hw a (by simp [ha]) h1)

/-- Taking hold of a whole passenger route of dry floor that no slot holds (R40). -/
theorem dryingLaw_takePassengers (k : SlotIx) (l : List SegIx) (s : State) (hm : s.mode = .service)
    (law : s.dryingLaw) (hw : ∀ g ∈ l, (s.seg g).wet = none ∧ (s.seg g).carried = false) :
    (l.foldl (fun s g => s.takePassenger k g) s).dryingLaw := by
  induction l generalizing s with
  | nil => exact law
  | cons g l ih =>
    refine ih _ ?_ (dryingLaw_takePassenger s k g hm law (hw g (by simp)).1 (hw g (by simp)).2) ?_
    · exact (mode_of_outside (outside_takePassenger s k g)).trans hm
    · intro a ha
      have q := wet_carried_takePassenger s k g a
      rw [q.1, q.2]
      exact hw a (by simp [ha])

/-- The release request (R41). -/
theorem dryingLaw_release (s : State) (k : SlotIx) (wet : Bool) (g : SegIx) (law : s.dryingLaw) :
    (s.release k wet g).dryingLaw := by
  unfold State.release
  by_cases hh : (s.seg g).holder = some k
  case neg => simp only [hh, if_false]; exact law
  simp only [hh, if_true]
  have hm : s.mode = .service := by
    by_contra e
    have := (law.2.2.2.2.2 e g).2
    rw [hh] at this; cases this
  have hwet : (s.seg g).wet = none := law.2.2.2.1 g (by rw [hh]; rfl)
  -- the holder goes, with carried wet cleared when it was set
  have base : ∀ (c : Bool), (c = true → False) →
      ((s.setSeg g { s.seg g with holder := none, pendingRel := false, carried := c }).dryingLaw) := by
    intro c hc
    refine dryingLaw_keep s _ g ⟨rfl, ?_, ?_, ?_, fun z => absurd hm z⟩ law rfl ?_
    · intro h ne; exact seg_setSeg_other _ _ _ _ (fun z => ne z.symm)
    · intro _; rw [seg_setSeg_same]; exact hwet
    · rw [seg_setSeg_same]; intro z; exact (hc z).elim
    · rw [seg_setSeg_same]
  have key : ∀ (u : State), u.mode = s.mode → u.drying = s.drying →
      (∀ h, u.seg h = (s.setSeg g { s.seg g with holder := none, pendingRel := false }).seg h) →
      (if (u.seg g).carried = true then (u.setSeg g { u.seg g with carried := false }).markWet g
        else if wet = true then u.markWet g else u).dryingLaw := by
    intro u um ud us
    have ug : u.seg g = { s.seg g with holder := none, pendingRel := false } := by rw [us, seg_setSeg_same]
    by_cases hc : (u.seg g).carried = true
    · rw [if_pos hc]
      have lu : (u.setSeg g { u.seg g with carried := false }).dryingLaw := by
        refine dryingLaw_same _ _ ?_ ?_ ?_ (base false (fun z => by cases z))
        · exact um
        · exact ud
        · intro h
          by_cases e : g = h
          · subst e; rw [seg_setSeg_same, seg_setSeg_same, ug]; exact ⟨rfl, rfl, rfl⟩
          · rw [seg_setSeg_other _ _ _ _ e, seg_setSeg_other _ _ _ _ e, us, seg_setSeg_other _ _ _ _ e]
            exact ⟨rfl, rfl, rfl⟩
      refine dryingLaw_markWet _ g lu ?_ ?_ ?_ ?_
      · exact um.trans hm
      · rw [seg_setSeg_same, ug]; exact hwet
      · rw [seg_setSeg_same, ug]
      · rw [seg_setSeg_same]
    · rw [if_neg hc]
      have hcf : (s.seg g).carried = false := by rw [ug] at hc; simpa using hc
      have lu : u.dryingLaw := by
        refine dryingLaw_same _ _ ?_ ?_ ?_ (base false (fun z => by cases z))
        · exact um
        · exact ud
        · intro h
          by_cases e : g = h
          · subst e; rw [seg_setSeg_same, ug]; exact ⟨rfl, rfl, hcf⟩
          · rw [seg_setSeg_other _ _ _ _ e, us, seg_setSeg_other _ _ _ _ e]
            exact ⟨rfl, rfl, rfl⟩
      split
      · refine dryingLaw_markWet _ g lu (um.trans hm) ?_ ?_ ?_
        · rw [ug]; exact hwet
        · rw [ug]
        · rw [ug]; exact hcf
      · exact lu
  apply key
  · split <;> simp
  · split <;> simp
  · intro h; split <;> simp

end Sys2Proof.Machine
end

