-- ==== Sys2Proof/Laws/Evolve.lean ====
section
/-! SUPPORT. How the state may move inside an event at the core, the tracker, the drying unit and the zone monitor: one
relation between states, closed under composition, with one lemma for each operation. The laws of the part follow. -/
namespace Sys2Proof.Machine
open Sys2Proof

/-- How the state may move without a commit, but for the drying list. -/
structure Calm (s t : State) : Prop where
  outside : t.outside = s.outside
  slots : ∀ k, SlotMove (s.slot k) (t.slot k)
  queue : s.queueLaw → t.queueLaw
  staging : s.stagingLaw → t.stagingLaw
  marks : s.marksLaw → t.marksLaw

/-- How the state may move without a commit. -/
structure Evolve (s t : State) : Prop extends Calm s t where
  drying : s.idleLaw → s.dryingLaw → t.dryingLaw

theorem Calm.refl (s : State) : Calm s s := ⟨rfl, fun _ => SlotMove.refl _, id, id, id⟩

theorem Evolve.refl (s : State) : Evolve s s := ⟨Calm.refl s, fun _ => id⟩

theorem Calm.idle {s t : State} (h : Calm s t) (l : s.idleLaw) : t.idleLaw := by
  intro m k
  by_contra e
  exact (h.slots k).live e (l (by rw [← mode_of_outside h.outside]; exact m) k)

theorem Calm.trans {s t u : State} (a : Calm s t) (b : Calm t u) : Calm s u :=
  ⟨b.outside.trans a.outside, fun k => (a.slots k).trans (b.slots k), fun l => b.queue (a.queue l),
   fun l => b.staging (a.staging l), fun l => b.marks (a.marks l)⟩

theorem Evolve.trans {s t u : State} (a : Evolve s t) (b : Evolve t u) : Evolve s u :=
  ⟨a.toCalm.trans b.toCalm, fun i l => b.drying (a.toCalm.idle i) (a.drying i l)⟩

theorem Calm.oneSlot {s t : State} (h : Calm s t) (l : s.oneSlotLaw) : t.oneSlotLaw := by
  have lv : ∀ k, (t.slot k).state.live = true → (s.slot k).state.live = true := by
    intro k q
    simp only [SlotState.live, bne_iff_ne] at q ⊢
    exact (h.slots k).live q
  refine ⟨?_, ?_⟩
  · intro k f q
    rw [(h.slots k).named]
    exact l.1 k f (lv k q)
  · intro j k fj fk qj qk e
    rw [(h.slots j).named, (h.slots k).named] at e
    exact l.2 j k fj fk (lv j qj) (lv k qk) e

theorem Calm.route {s t : State} (h : Calm s t) (l : s.routeLaw) : t.routeLaw :=
  fun k => (h.slots k).short (l k)

/-- A waiting slot leaves the queue as it leaves WAITING; the others stay (R69). -/
theorem queueLaw_left (s t : State) (k : SlotIx) (law : s.queueLaw) (hq : t.queue = s.queue.filter (fun j => j != k))
    (hk : (t.slot k).state ≠ .waiting) (ho : ∀ j, j ≠ k → (t.slot j).state = (s.slot j).state) : t.queueLaw := by
  obtain ⟨l1, l2, l3⟩ := law
  refine ⟨?_, ?_, ?_⟩
  · rw [hq]; exact l1.filter _
  · intro j
    rw [hq, List.mem_filter]
    by_cases e : j = k
    · subst e
      simp only [bne_self_eq_false, Bool.false_eq_true, and_false, false_iff]
      exact hk
    · rw [ho j e, ← l2 j]
      simp [e]
  · rw [hq]
    conv_lhs => rw [l3]
    simp only [List.filter_append, List.filter_filter, Bool.and_comm]

theorem queueLaw_same (s t : State) (law : s.queueLaw) (hq : t.queue = s.queue)
    (hs : ∀ j, ((t.slot j).state = .waiting ↔ (s.slot j).state = .waiting)) : t.queueLaw := by
  obtain ⟨l1, l2, l3⟩ := law
  refine ⟨by rw [hq]; exact l1, ?_, by rw [hq]; exact l3⟩
  intro j
  rw [hq, l2 j, hs j]

/-! ### Updates that leave slots, the queue, the floor and the drying list alone -/

/-- An update of tables that the laws do not speak of, or of marks, flags and notices. -/
theorem Evolve.aside (t u : State) (ho : u.outside = t.outside) (hs : u.slots = t.slots) (hq : u.queue = t.queue)
    (hg : u.segs = t.segs) (hd : u.drying = t.drying) (hn : t.stagingLaw → u.stagingLaw)
    (hm : t.marksLaw → u.marksLaw) : Evolve t u := by
  have es : ∀ k, u.slot k = t.slot k := fun k => by simp only [State.slot, hs]
  have eg : ∀ g, u.seg g = t.seg g := fun g => by simp only [State.seg, hg]
  refine ⟨⟨ho, fun k => ?_, fun l => ?_, hn, hm⟩, fun _ l => ?_⟩
  · rw [es]; exact SlotMove.refl _
  · exact queueLaw_same t u l hq (fun j => by rw [es])
  · exact dryingLaw_same t u (mode_of_outside ho) hd (fun g => by rw [eg]; exact ⟨rfl, rfl, rfl⟩) l

theorem staging_same (t u : State) (h : u.staging = t.staging) (hh : u.held = t.held) (l : t.stagingLaw) :
    u.stagingLaw := by
  unfold State.stagingLaw State.staged at *
  rw [h, hh]; exact l

theorem marks_insert (t u : State) (r : MirrorRec) (h : u.dirty = insertBy MirrorRec.addr r t.dirty) (l : t.marksLaw) :
    u.marksLaw := by
  unfold State.marksLaw at *
  rw [h]; exact pairwise_insertBy _ _ _ l

theorem marks_same (t u : State) (h : u.dirty = t.dirty) (l : t.marksLaw) : u.marksLaw := by
  unfold State.marksLaw at *; rw [h]; exact l

theorem marks_if (t u : State) (b : Bool) (r : MirrorRec)
    (h : u.dirty = if b then insertBy MirrorRec.addr r t.dirty else t.dirty) (l : t.marksLaw) : u.marksLaw := by
  cases b
  · exact marks_same t u (by simpa using h) l
  · exact marks_insert t u r (by simpa using h) l

variable {s t : State}

theorem ev_markDirty (h : Evolve s t) (r : MirrorRec) : Evolve s (t.markDirty r) :=
  h.trans (Evolve.aside _ _ rfl rfl rfl rfl rfl (staging_same _ _ rfl rfl) (marks_insert _ _ r rfl))

theorem ev_setScrub (h : Evolve s t) (x : ScrubIx) (r : Scrubber) : Evolve s (t.setScrub x r) :=
  h.trans (Evolve.aside _ _ rfl rfl rfl rfl rfl (staging_same _ _ rfl rfl) (marks_if _ _ _ _ rfl))

theorem ev_setPinch (h : Evolve s t) (p : PinchIx) (r : Pinch) : Evolve s (t.setPinch p r) :=
  h.trans (Evolve.aside _ _ rfl rfl rfl rfl rfl (staging_same _ _ rfl rfl) (marks_same _ _ rfl))

theorem ev_setZone (h : Evolve s t) (z : ZoneIx) (r : Zone) : Evolve s (t.setZone z r) :=
  h.trans (Evolve.aside _ _ rfl rfl rfl rfl rfl (staging_same _ _ rfl rfl) (marks_same _ _ rfl))

theorem ev_setCell (h : Evolve s t) (c : CellIx) (r : CellCapture) : Evolve s (t.setCell c r) :=
  h.trans (Evolve.aside _ _ rfl rfl rfl rfl rfl (staging_same _ _ rfl rfl) (marks_same _ _ rfl))

theorem ev_noteFreeing (h : Evolve s t) : Evolve s t.noteFreeing :=
  h.trans (Evolve.aside _ _ rfl rfl rfl rfl rfl (staging_same _ _ rfl rfl) (marks_same _ _ rfl))

theorem ev_clearFreeing (h : Evolve s t) : Evolve s t.clearFreeing :=
  h.trans (Evolve.aside _ _ rfl rfl rfl rfl rfl (staging_same _ _ rfl rfl) (marks_same _ _ rfl))

theorem ev_setDsp (h : Evolve s t) (f : DspFlag) : Evolve s (t.setDsp f) :=
  h.trans (Evolve.aside _ _ rfl rfl rfl rfl rfl (staging_same _ _ rfl rfl) (marks_if _ _ _ _ rfl))

theorem ev_setOps (h : Evolve s t) (f : OpsFlag) : Evolve s (t.setOps f) :=
  h.trans (Evolve.aside _ _ rfl rfl rfl rfl rfl (staging_same _ _ rfl rfl) (marks_if _ _ _ _ rfl))

theorem ev_stage (h : Evolve s t) (n : Notice) : Evolve s (t.stage n) := by
  unfold State.stage
  split
  · exact ev_setDsp h _
  · rename_i room
    refine h.trans (Evolve.aside _ _ rfl rfl rfl rfl rfl ?_ (marks_same _ _ rfl))
    intro _
    unfold State.stagingLaw State.staged at *
    change (t.staging ++ [n]).length + _ ≤ 16
    simp only [List.length_append, List.length_cons, List.length_nil]
    change _ + (if t.held.isSome = true then 1 else 0) ≤ 16
    omega

theorem ev_notify (h : Evolve s t) (kind : NoticeKind) (p : List Word) : Evolve s (t.notify kind p) := by
  unfold State.notify
  split
  · exact h
  · exact ev_stage h _

theorem ev_notifySlot (h : Evolve s t) (kind : NoticeKind) (k : SlotIx) (b c : Nat) :
    Evolve s (t.notifySlot kind k b c) := ev_notify h _ _

theorem ev_ite (c : Prop) [Decidable c] {a b : State} (ha : c → Evolve s a) (hb : ¬ c → Evolve s b) :
    Evolve s (if c then a else b) := by
  split
  · exact ha ‹_›
  · exact hb ‹_›

theorem ev_foldl {α : Type} (f : State → α → State) (hf : ∀ t a, Evolve s t → Evolve s (f t a)) (l : List α)
    (h : Evolve s t) : Evolve s (l.foldl f t) := by
  induction l generalizing t with
  | nil => exact h
  | cons a l ih => exact ih (hf t a h)

theorem ev_raising (f : State → State) (hf : ∀ t, Evolve s t → Evolve s (f t)) (h : Evolve s t) :
    Evolve s (t.raising f) := by
  unfold State.raising
  split
  · exact ev_setDsp (hf t h) _
  · exact hf t h

theorem ev_refreshPinchOf (h : Evolve s t) (g : SegIx) (gain : Option ScrubIx) : Evolve s (t.refreshPinchOf g gain) := by
  obtain ⟨l, f, e⟩ := refreshPinchOf_eq t g gain
  rw [e]
  exact h.trans (Evolve.aside _ _ rfl rfl rfl rfl rfl (staging_same _ _ rfl rfl) (marks_same _ _ rfl))

/-! ### The floor -/

/-- An update that leaves the slots and the queue alone. -/
theorem Calm.floor (t u : State) (ho : u.outside = t.outside) (hs : u.slots = t.slots) (hq : u.queue = t.queue)
    (hn : t.stagingLaw → u.stagingLaw) (hm : t.marksLaw → u.marksLaw) : Calm t u := by
  have es : ∀ k, u.slot k = t.slot k := fun k => by simp only [State.slot, hs]
  refine ⟨ho, fun k => ?_, fun l => ?_, hn, hm⟩
  · rw [es]; exact SlotMove.refl _
  · exact queueLaw_same t u l hq (fun j => by rw [es])

theorem cm_setSeg (h : Calm s t) (g : SegIx) (r : Seg) : Calm s (t.setSeg g r) :=
  h.trans (Calm.floor _ _ rfl rfl rfl (staging_same _ _ rfl rfl) (marks_if _ _ _ _ rfl))

theorem cm_setDrying (h : Calm s t) (l : List DryEntry) : Calm s (t.setDrying l) :=
  h.trans (Calm.floor _ _ rfl rfl rfl (staging_same _ _ rfl rfl) (marks_same _ _ rfl))

theorem cm_noteFreeing (h : Calm s t) : Calm s t.noteFreeing :=
  h.trans (Calm.floor _ _ rfl rfl rfl (staging_same _ _ rfl rfl) (marks_same _ _ rfl))

theorem cm_refreshPinchOf (h : Calm s t) (g : SegIx) (gain : Option ScrubIx) : Calm s (t.refreshPinchOf g gain) :=
  h.trans (ev_refreshPinchOf (Evolve.refl t) g gain).toCalm

theorem cm_dropEntry (h : Calm s t) (g : SegIx) : Calm s (t.dropEntry g) := cm_setDrying h _

theorem cm_markWet (h : Calm s t) (g : SegIx) : Calm s (t.markWet g) := cm_setSeg (cm_setDrying h _) g _

theorem cm_suspendWet (h : Calm s t) (g : SegIx) : Calm s (t.suspendWet g) := by
  unfold State.suspendWet
  split
  · exact h
  · exact cm_noteFreeing (cm_setSeg (cm_dropEntry h g) g _)

theorem cm_takeFleet (h : Calm s t) (k : SlotIx) (e : SegIx × Nat) : Calm s (t.takeFleet k e) := by
  unfold State.takeFleet
  have q := cm_refreshPinchOf (cm_setSeg h e.1 { t.seg e.1 with holder := some k }) e.1 (t.slot k).scrubber
  dsimp only
  split
  · exact cm_suspendWet q _
  · exact q

theorem cm_release (h : Calm s t) (k : SlotIx) (wet : Bool) (g : SegIx) : Calm s (t.release k wet g) := by
  unfold State.release
  split
  · have q1 := cm_noteFreeing (cm_setSeg h g { t.seg g with holder := none, pendingRel := false })
    have q2 := cm_refreshPinchOf q1 g none
    dsimp only
    split
    · split
      · exact cm_markWet (cm_setSeg q2 g _) g
      · split
        · exact cm_markWet q2 g
        · exact q2
    · split
      · exact cm_markWet (cm_setSeg q1 g _) g
      · split
        · exact cm_markWet q1 g
        · exact q1
  · exact h

theorem ev_setSeg (h : Evolve s t) (g : SegIx) (r : Seg) (hw : r.wet = (t.seg g).wet)
    (hh : r.holder = (t.seg g).holder) (hc : r.carried = (t.seg g).carried) : Evolve s (t.setSeg g r) :=
  h.trans ⟨cm_setSeg (Calm.refl t) g r, fun _ l => dryingLaw_setSeg t g r hw hh hc l⟩

theorem ev_setOccupant (h : Evolve s t) (x : ScrubIx) (g : SegIx) : Evolve s (t.setOccupant x g) := by
  unfold State.setOccupant
  split
  · exact h
  · refine ev_refreshPinchOf (ev_setSeg h g _ ?_ ?_ ?_) _ _ <;> rfl

theorem ev_clearOccupant (h : Evolve s t) (x : ScrubIx) (g : SegIx) : Evolve s (t.clearOccupant x g) := by
  unfold State.clearOccupant
  split
  · refine ev_refreshPinchOf (ev_noteFreeing (ev_setSeg h g _ ?_ ?_ ?_)) _ _ <;> rfl
  · exact h

theorem ev_removeClaim (h : Evolve s t) (k : SlotIx) (g : SegIx) : Evolve s (t.removeClaim k g) := by
  unfold State.removeClaim
  split
  · refine ev_noteFreeing (ev_setSeg h g _ ?_ ?_ ?_) <;> rfl
  · exact h

theorem ev_addClaim (h : Evolve s t) (k : SlotIx) (g : SegIx) : Evolve s (t.addClaim k g) := by
  refine ev_setSeg h g _ ?_ ?_ ?_ <;> rfl

theorem ev_dropClaims (h : Evolve s t) (k : SlotIx) : Evolve s (t.dropClaims k) :=
  ev_foldl _ (fun _ g e => ev_removeClaim e k g) _ h

theorem ev_pend (h : Evolve s t) (g : SegIx) : Evolve s (t.pend g) := by
  refine ev_setSeg h g _ ?_ ?_ ?_ <;> rfl

theorem ev_markPending (h : Evolve s t) (k : SlotIx) (i : Nat) : Evolve s (t.markPending k i) :=
  ev_foldl _ (fun _ e q => ev_pend q e.1) _ h

theorem ev_setClosure (h : Evolve s t) (g : SegIx) (c : Closure) : Evolve s (t.setClosure g c) := by
  have q : Evolve s (t.setSeg g { t.seg g with closure := c }) := by
    refine ev_setSeg h g _ ?_ ?_ ?_ <;> rfl
  unfold State.setClosure
  dsimp only
  split
  · exact ev_noteFreeing q
  · exact q

theorem ev_release (h : Evolve s t) (k : SlotIx) (wet : Bool) (g : SegIx) : Evolve s (t.release k wet g) :=
  h.trans ⟨cm_release (Calm.refl t) k wet g, fun _ l => dryingLaw_release t k wet g l⟩

theorem ev_releaseWhere (h : Evolve s t) (k : SlotIx) (pick : SegIx × Nat → Bool) : Evolve s (t.releaseWhere k pick) :=
  ev_foldl _ (fun _ e q => ev_release q k _ e.1) _ h

theorem ev_releaseAll (h : Evolve s t) (k : SlotIx) : Evolve s (t.releaseAll k) := ev_releaseWhere h k _

/-! ### Slot records -/

theorem cm_setSlot (h : Calm s t) (k : SlotIx) (r : Slot) (m : SlotMove (t.slot k) r)
    (w : r.state = .waiting ↔ (t.slot k).state = .waiting) : Calm s (t.setSlot k r) := by
  refine h.trans ⟨rfl, fun j => ?_, fun l => ?_, staging_same _ _ rfl rfl, fun l => ?_⟩
  · rw [slot_setSlot]; split
    · rename_i e; subst e; exact m
    · exact SlotMove.refl _
  · refine queueLaw_same t _ l rfl (fun j => ?_)
    rw [slot_setSlot]; split
    · rename_i e; subst e; exact w
    · exact Iff.rfl
  · exact marks_if _ _ _ _ rfl (marks_if t ((({ t with slots := t.slots.set k.val r } : State)).markIf
      (r.statusWord != (t.slot k).statusWord) (.slotStatus k)) _ _ rfl l)

theorem ev_setSlot (h : Evolve s t) (k : SlotIx) (r : Slot) (m : SlotMove (t.slot k) r)
    (w : r.state = .waiting ↔ (t.slot k).state = .waiting) : Evolve s (t.setSlot k r) :=
  h.trans ⟨cm_setSlot (Calm.refl t) k r m w,
    fun _ l => dryingLaw_same t _ rfl rfl (fun _ => ⟨rfl, rfl, rfl⟩) l⟩

/-- A slot record whose state, scrubber, route, end index and revision stay. -/
theorem ev_keepSlot (h : Evolve s t) (k : SlotIx) (r : Slot) (h1 : r.state = (t.slot k).state)
    (h2 : r.scrubber = (t.slot k).scrubber) (h3 : r.route = (t.slot k).route) (h4 : r.endIx = (t.slot k).endIx)
    (h5 : r.revision = (t.slot k).revision) : Evolve s (t.setSlot k r) :=
  ev_setSlot h k r (SlotMove.keep _ _ h1 h2 h3 h4 h5) (by rw [h1])

theorem ev_setLive (h : Evolve s t) (x : Option ScrubIx) (k : Option FleetIx) : Evolve s (t.setLive x k) := by
  unfold State.setLive
  split
  · exact h
  · exact ev_setScrub h _ _

theorem ev_clearLiveOf (h : Evolve s t) (k : SlotIx) : Evolve s (t.clearLiveOf k) := by
  unfold State.clearLiveOf
  split
  · exact ev_setLive h _ _
  · exact h

theorem ev_setChanged (h : Evolve s t) (k : SlotIx) : Evolve s (t.setChanged k) := by
  unfold State.setChanged
  split
  · refine ev_keepSlot h k _ ?_ ?_ ?_ ?_ ?_ <;> rfl
  · exact h

theorem ev_clearChanged (h : Evolve s t) (k : SlotIx) : Evolve s (t.clearChanged k) := by
  refine ev_keepSlot h k _ ?_ ?_ ?_ ?_ ?_ <;> rfl

theorem ev_setResult (h : Evolve s t) (k : SlotIx) (r : Result) (i : Nat) : Evolve s (t.setResult k r i) := by
  refine ev_keepSlot h k _ ?_ ?_ ?_ ?_ ?_ <;> rfl

theorem ev_clearOverdue (h : Evolve s t) (k : SlotIx) : Evolve s (t.clearOverdue k) := by
  refine ev_keepSlot h k _ ?_ ?_ ?_ ?_ ?_ <;> rfl

theorem ev_setOverdue (h : Evolve s t) (k : SlotIx) : Evolve s (t.setOverdue k) := by
  refine ev_keepSlot h k _ ?_ ?_ ?_ ?_ ?_ <;> rfl

theorem ev_markSlotWords (h : Evolve s t) (k : SlotIx) : Evolve s (t.markSlotWords k) :=
  ev_markDirty (ev_markDirty h _) _

/-- The return to IDLE of a slot that is not WAITING. -/
theorem ev_toIdle (h : Evolve s t) (k : SlotIx) (res : Result) (i : Nat) (hw : (t.slot k).state ≠ .waiting) :
    Evolve s (t.toIdle k res i) := by
  have q : Evolve s (t.setSlot k ((t.slot k).toIdle res i)) := by
    refine ev_setSlot h k _ (SlotMove.ended _ _ rfl rfl rfl rfl) ?_
    constructor
    · intro e; cases e
    · intro e; exact absurd e hw
  have q2 := ev_markSlotWords q k
  unfold State.toIdle
  dsimp only
  split
  · exact ev_setChanged q2 k
  · exact q2

/-- The state of a slot that has returned to IDLE. -/
theorem ev_endSlot (h : Evolve s t) (k : SlotIx) (res : Result) (hw : (t.slot k).state ≠ .waiting) :
    Evolve s (t.endSlot k res) := by
  unfold State.endSlot
  exact ev_clearLiveOf (ev_notifySlot (ev_toIdle h k res 0 hw) _ _ _ _) k

/-- A slot leaves the queue and takes a record that is not WAITING. -/
theorem ev_leave (h : Evolve s t) (k : SlotIx) (r : Slot) (m : SlotMove (t.slot k) r) (w : r.state ≠ .waiting) :
    Evolve s ((t.leaveQueue k).setSlot k r) := by
  refine h.trans ⟨⟨rfl, fun j => ?_, fun l => ?_, staging_same _ _ rfl rfl, fun l => ?_⟩, fun _ l => ?_⟩
  · rw [slot_setSlot]; split
    · rename_i e; subst e; exact m
    · exact SlotMove.refl _
  · refine queueLaw_left t _ k l rfl ?_ (fun j e => ?_)
    · rw [slot_setSlot_same]; exact w
    · rw [slot_setSlot_other _ _ _ _ (fun z => e z.symm)]; rfl
  · exact marks_if _ _ _ _ rfl (marks_if t ((({ t with slots := t.slots.set k.val r } : State)).markIf
      (r.statusWord != (t.slot k).statusWord) (.slotStatus k)) _ _ rfl l)
  · exact dryingLaw_same t _ rfl rfl (fun _ => ⟨rfl, rfl, rfl⟩) l

/-- A slot leaves the queue and returns to IDLE. -/
theorem ev_leaveToIdle (h : Evolve s t) (k : SlotIx) (res : Result) (i : Nat) :
    Evolve s ((t.leaveQueue k).toIdle k res i) := by
  have q : Evolve s ((t.leaveQueue k).setSlot k (((t.leaveQueue k).slot k).toIdle res i)) := by
    refine ev_leave h k _ (SlotMove.ended _ _ rfl rfl rfl rfl) ?_
    intro e; cases e
  have q2 := ev_markSlotWords q k
  unfold State.toIdle
  dsimp only
  split
  · exact ev_setChanged q2 k
  · exact q2

theorem ev_leaveEnd (h : Evolve s t) (k : SlotIx) (res : Result) : Evolve s ((t.leaveQueue k).endSlot k res) := by
  unfold State.endSlot
  exact ev_clearLiveOf (ev_notifySlot (ev_leaveToIdle h k res 0) _ _ _ _) k

end Sys2Proof.Machine
end

