-- ==== Sys2Proof/Laws/EvolveSlots.lean ====
section
/-! SUPPORT. The slot operations as moves of the state: grant, activation, shortening, endings and the waiting queue. -/
namespace Sys2Proof.Machine
open Sys2Proof

variable {s t : State}

/-! ### Taking hold -/

theorem cm_takePassenger (h : Calm s t) (k : SlotIx) (g : SegIx) : Calm s (t.takePassenger k g) := by
  unfold State.takePassenger State.removeClaim
  split
  · exact cm_noteFreeing (cm_setSeg (cm_setSeg h g _) g _)
  · exact cm_setSeg h g _

theorem cm_foldl {α : Type} (f : State → α → State) (hf : ∀ t a, Calm s t → Calm s (f t a)) (l : List α)
    (h : Calm s t) : Calm s (l.foldl f t) := by
  induction l generalizing t with
  | nil => exact h
  | cons a l ih => exact ih (hf t a h)

theorem cm_takeHold (h : Calm s t) (k : SlotIx) : Calm s (t.takeHold k) := by
  unfold State.takeHold
  split
  · exact cm_foldl _ (fun _ e q => cm_takeFleet q k e) _ h
  · exact cm_foldl _ (fun _ g q => cm_takePassenger q k g) _ h

theorem slots_takeFleet (s : State) (k : SlotIx) (e : SegIx × Nat) : (s.takeFleet k e).slots = s.slots := by
  unfold State.takeFleet State.suspendWet
  dsimp only
  (repeat' split) <;> simp

theorem slots_takePassenger (s : State) (k : SlotIx) (g : SegIx) : (s.takePassenger k g).slots = s.slots := by
  unfold State.takePassenger State.removeClaim
  split <;> simp

/-- A loop of operations that keep a reading keeps it. -/
theorem foldl_keeps {α β : Type} (p : State → β) (f : State → α → State) (hf : ∀ s a, p (f s a) = p s) (l : List α)
    (s : State) : p (l.foldl f s) = p s := by
  induction l generalizing s with
  | nil => rfl
  | cons a l ih => rw [List.foldl_cons, ih, hf]

theorem slots_takeHold (s : State) (k : SlotIx) : (s.takeHold k).slots = s.slots := by
  unfold State.takeHold
  split
  · exact foldl_keeps State.slots _ (fun s e => slots_takeFleet s k e) _ s
  · exact foldl_keeps State.slots _ (fun s g => slots_takePassenger s k g) _ s

@[simp] theorem slot_takeHold (s : State) (k j : SlotIx) : (s.takeHold k).slot j = s.slot j := by
  simp only [State.slot, slots_takeHold]

/-- What an availability pass without a failure says of each entry (R63). -/
theorem firstFailure_none (test : Nat → SegIx → Option Result) (l : List (SegIx × Nat))
    (h : firstFailure test l = none) : ∀ e ∈ l, test e.2 e.1 = none := by
  induction l with
  | nil => simp
  | cons a l ih =>
    obtain ⟨g, i⟩ := a
    simp only [firstFailure] at h
    intro e he
    cases ht : test i g with
    | some r => rw [ht] at h; simp at h
    | none =>
      rw [ht] at h
      rcases List.mem_cons.mp he with q | q
      · subst q; exact ht
      · exact ih h e q

theorem dry_of_fleetTest (s : State) (x : ScrubIx) (m : AuthMode) (i : Nat) (g : SegIx)
    (h : s.fleetTest x m i g = none) (hi : i ≠ 1) : (s.seg g).wet = none := by
  unfold State.fleetTest at h
  dsimp only at h
  by_cases hc : ((s.seg g).closure.closed && i != 1) = true
  · rw [if_pos hc] at h; cases h
  · rw [if_neg hc] at h
    by_cases hw : ((s.seg g).wet.isSome && i != 1) = true
    · rw [if_pos hw] at h; cases h
    · have : (i != 1) = true := by simpa using hi
      rw [this, Bool.and_true] at hw
      simpa using hw

theorem dry_of_passengerTest (s : State) (g : SegIx) (h : s.passengerTest g = none) :
    (s.seg g).wet = none ∧ (s.seg g).holder = none := by
  unfold State.passengerTest at h
  dsimp only at h
  by_cases hc : (s.seg g).closure.closed = true
  · rw [if_pos hc] at h; cases h
  · rw [if_neg hc] at h
    by_cases hw : (s.seg g).wet.isSome = true
    · rw [if_pos hw] at h; cases h
    · rw [if_neg hw] at h
      by_cases hh : (s.seg g).holder.isSome = true
      · rw [if_pos hh] at h; cases h
      · exact ⟨by simpa using hw, by simpa using hh⟩

/-- Taking hold of a route that has passed its availability pass keeps the law of the drying list. -/
theorem dryingLaw_takeHold (t : State) (k : SlotIx) (hm : t.mode = .service) (law : t.dryingLaw)
    (hx : isFleet k = true → (t.slot k).scrubber.isSome = true) (ha : t.availability k = none) :
    (t.takeHold k).dryingLaw := by
  unfold State.availability at ha
  dsimp only at ha
  unfold State.takeHold
  split
  · rename_i hk
    rw [if_pos hk] at ha
    cases hs : (t.slot k).scrubber with
    | none => rw [hs] at hx; simp [hk] at hx
    | some x =>
      rw [hs] at ha
      dsimp only at ha
      refine dryingLaw_takeFleets k hk _ t hm law ?_
      intro e he h1
      exact dry_of_fleetTest t x _ e.2 e.1 (firstFailure_none _ _ ha e he) h1
  · rename_i hk
    rw [if_neg hk] at ha
    refine dryingLaw_takePassengers k _ t hm law ?_
    intro g hg
    have : ∃ i, (g, i) ∈ (t.slot k).entries := by
      unfold Slot.entries
      obtain ⟨i, hi, e⟩ := List.getElem_of_mem hg
      refine ⟨1 + i, ?_⟩
      rw [List.mem_iff_getElem]
      refine ⟨i, by simpa using hi, ?_⟩
      simp [e]
    obtain ⟨i, hi⟩ := this
    have q := dry_of_passengerTest t g (firstFailure_none _ _ ha (g, i) hi)
    refine ⟨q.1, ?_⟩
    by_contra hc
    have := law.2.2.2.2.1 g (by simpa using hc)
    rw [q.2] at this; simp at this

/-! ### Grant and activation of a waiting slot -/

theorem service_of_waiting (t : State) (k : SlotIx) (hi : t.idleLaw) (hw : (t.slot k).state = .waiting) :
    t.mode = .service := by
  by_contra e
  have := hi e k
  rw [hw] at this; cases this

theorem setSlot_leaveQueue (t : State) (k : SlotIx) (r : Slot) :
    (t.setSlot k r).leaveQueue k = (t.leaveQueue k).setSlot k r := rfl

theorem ev_takeHold (h : Evolve s t) (k : SlotIx) (hw : (t.slot k).state = .waiting)
    (hx : isFleet k = true → (t.slot k).scrubber.isSome = true) (ha : t.availability k = none) :
    Evolve s (t.takeHold k) :=
  h.trans ⟨cm_takeHold (Calm.refl t) k,
    fun i l => dryingLaw_takeHold t k (service_of_waiting t k i hw) l hx ha⟩

theorem ev_grant (h : Evolve s t) (k : SlotIx) (hw : (t.slot k).state = .waiting)
    (hx : isFleet k = true → (t.slot k).scrubber.isSome = true) (ha : t.availability k = none) :
    Evolve s (t.grant k) := by
  have q1 := ev_takeHold h k hw hx ha
  have q2 : Evolve s (((t.takeHold k).setSlot k ((t.takeHold k).slot k).granted).leaveQueue k) := by
    rw [setSlot_leaveQueue]
    refine ev_leave q1 k _ (SlotMove.granted _ _ ?_ ?_ rfl rfl rfl) ?_
    · rw [slot_takeHold]; exact hw
    · intro e; cases e
    · intro e; cases e
  unfold State.grant
  exact ev_notifySlot (ev_markSlotWords (ev_setLive q2 _ _) k) _ _ _ _

theorem ev_activate (h : Evolve s t) (k : SlotIx) (hk : isFleet k = false) (hw : (t.slot k).state = .waiting)
    (ha : t.availability k = none) : Evolve s (t.activate k) := by
  have q1 := ev_takeHold h k hw (by simp [hk]) ha
  have q2 : Evolve s (((t.takeHold k).setSlot k ((t.takeHold k).slot k).activated).leaveQueue k) := by
    rw [setSlot_leaveQueue]
    refine ev_leave q1 k _ (SlotMove.granted _ _ ?_ ?_ rfl rfl rfl) ?_
    · rw [slot_takeHold]; exact hw
    · intro e; cases e
    · intro e; cases e
  unfold State.activate
  exact ev_notifySlot (ev_setOps (ev_markDirty q2 _) _) _ _ _ _

/-! ### The waiting queue -/

theorem ev_endWaiting (h : Evolve s t) (k : SlotIx) (f : Result × Nat) : Evolve s (t.endWaiting k f) := by
  unfold State.endWaiting
  exact ev_notifySlot (ev_clearLiveOf (ev_leaveToIdle h k f.1 f.2) k) _ _ _ _

theorem ev_reevalEntry (h : Evolve s t) (k : SlotIx) : Evolve s (t.reevalEntry k) := by
  unfold State.reevalEntry
  split
  · exact h
  · rename_i hw
    have hw : (t.slot k).state = .waiting := by simpa using hw
    split
    · split
      · exact h
      · rename_i x hx
        split
        · exact ev_endWaiting h k _
        · split
          · rename_i ha
            exact ev_grant h k hw (fun _ => by rw [hx]; rfl) ha
          · split
            · exact ev_setResult h k _ _
            · exact ev_endWaiting h k _
    · rename_i hk
      have hk : isFleet k = false := by simpa using hk
      split
      · rename_i ha
        exact ev_activate h k hk hw ha
      · exact ev_setResult h k _ _

theorem ev_reevaluate (h : Evolve s t) : Evolve s t.reevaluate :=
  ev_foldl _ (fun _ k q => ev_reevalEntry q k) _ h

theorem ev_settle (h : Evolve s t) : Evolve s t.settle := by
  unfold State.settle
  split
  · exact ev_clearFreeing (ev_reevaluate h)
  · exact h

theorem ev_event (f : State → State) (hf : ∀ t, Evolve s t → Evolve s (f t)) (h : Evolve s t) :
    Evolve s (t.event f) := ev_settle (hf _ (ev_clearFreeing h))

/-! ### Shortening -/

theorem ev_shortenedNotice (h : Evolve s t) (k : SlotIx) : Evolve s (t.shortenedNotice k) :=
  ev_notifySlot (ev_markDirty h _) _ _ _ _

theorem slots_release (s : State) (k : SlotIx) (wet : Bool) (g : SegIx) : (s.release k wet g).slots = s.slots := by
  unfold State.release State.markWet
  dsimp only
  (repeat' split) <;> simp

theorem slots_releaseWhere (s : State) (k : SlotIx) (pick : SegIx × Nat → Bool) :
    (s.releaseWhere k pick).slots = s.slots := by
  unfold State.releaseWhere
  generalize (s.slot k).entries.filter pick = l
  generalize s.slot k = r
  induction l generalizing s with
  | nil => rfl
  | cons a l ih => rw [List.foldl_cons, ih, slots_release]

@[simp] theorem slot_releaseWhere (s : State) (k j : SlotIx) (pick : SegIx × Nat → Bool) :
    (s.releaseWhere k pick).slot j = s.slot j := by
  simp only [State.slot, slots_releaseWhere]

@[simp] theorem slot_releaseAll (s : State) (k j : SlotIx) : (s.releaseAll k).slot j = s.slot j :=
  slot_releaseWhere s k j _

theorem slots_markPending (s : State) (k : SlotIx) (i : Nat) : (s.markPending k i).slots = s.slots := by
  unfold State.markPending
  exact foldl_keeps State.slots (fun (u : State) (e : SegIx × Nat) => u.pend e.1) (fun _ _ => rfl) _ s

@[simp] theorem slot_markPending (s : State) (k j : SlotIx) (i : Nat) : (s.markPending k i).slot j = s.slot j := by
  simp only [State.slot, slots_markPending]

theorem ev_shorten (h : Evolve s t) (k : SlotIx) (e : Nat) : Evolve s (t.shorten k e) := by
  unfold State.shorten
  dsimp only
  split
  · exact h
  · rename_i hc
    simp only [Bool.or_eq_true, Bool.not_eq_true', decide_eq_true_eq, not_or, Bool.not_eq_false, not_le] at hc
    obtain ⟨⟨_, hauth⟩, hlt⟩ := hc
    split
    · rename_i hg
      refine ev_shortenedNotice (ev_setSlot (ev_releaseWhere h k _) k _ ?_ ?_) k
      · rw [slot_releaseWhere]
        exact SlotMove.shortened _ _ hauth (by rw [Slot.shortenedGranted]; exact (live_of_authority _ hauth).2) rfl rfl
          hlt rfl
      · rw [slot_releaseWhere]; exact Iff.rfl
    · refine ev_shortenedNotice (ev_setSlot (ev_markPending h k _) k _ ?_ ?_) k
      · rw [slot_markPending]
        refine SlotMove.shortened _ _ hauth ?_ rfl rfl hlt rfl
        intro z; cases z
      · rw [slot_markPending]
        constructor
        · intro z; cases z
        · intro z; exact absurd z (live_of_authority _ hauth).2

theorem ev_shortenHolder (h : Evolve s t) (g : SegIx) (except : Option SlotIx) :
    Evolve s (t.shortenHolder g except) := by
  unfold State.shortenHolder
  split
  · exact h
  · split
    · split
      · split
        · exact ev_shorten h _ _
        · exact h
      · exact h
    · exact h

theorem ev_shortenToProgress (h : Evolve s t) (k : SlotIx) : Evolve s (t.shortenToProgress k) := ev_shorten h _ _

theorem ev_shortenBefore (h : Evolve s t) (k : SlotIx) (want : SegIx → Bool) : Evolve s (t.shortenBefore k want) := by
  unfold State.shortenBefore
  split
  · exact ev_shorten h _ _
  · exact h

theorem ev_preempt (h : Evolve s t) (route : List SegIx) : Evolve s (t.preempt route) := by
  refine ev_foldl _ (fun u k q => ?_) _ h
  split
  · exact ev_shortenBefore q _ _
  · exact q

/-! ### Endings, cancel, handover and timers -/

theorem ev_releaseAndEnd (h : Evolve s t) (k : SlotIx) (res : Result) (hw : (t.slot k).state ≠ .waiting) :
    Evolve s (t.releaseAndEnd k res) :=
  ev_endSlot (ev_releaseAll h k) k res (by rw [slot_releaseAll]; exact hw)

theorem ev_refuseOnly (h : Evolve s t) (k : SlotIx) (r : Result) : Evolve s (t.refuseOnly k r) :=
  ev_notifySlot h _ _ _ _

theorem ev_refuseCommit (h : Evolve s t) (k : SlotIx) (f : Result × Nat) : Evolve s (t.refuseCommit k f) :=
  ev_notifySlot (ev_markDirty (ev_setResult h k _ _) _) _ _ _ _

theorem ev_releasePassenger (h : Evolve s t) (k : SlotIx) (hw : (t.slot k).state ≠ .waiting) :
    Evolve s (t.releasePassenger k) := by
  unfold State.releasePassenger
  exact ev_notifySlot (ev_toIdle (ev_releaseAll h k) k _ _ (by rw [slot_releaseAll]; exact hw)) _ _ _ _

theorem ev_cancelSent (h : Evolve s t) (k : SlotIx) : Evolve s (t.cancelSent k) := by
  unfold State.cancelSent
  dsimp only
  split
  · exact ev_shortenToProgress h k
  · split
    · rename_i ha
      exact ev_releaseAndEnd h k _ (by rw [ha]; decide)
    · exact ev_refuseOnly h k _

/-- Taking claims off the floor and leaving the queue may stand in either order. -/
theorem dropClaims_leaveQueue (t : State) (k : SlotIx) :
    (t.leaveQueue k).dropClaims k = (t.dropClaims k).leaveQueue k := by
  have comm : ∀ (l : List SegIx) (u : State),
      l.foldl (fun s g => s.removeClaim k g) (u.leaveQueue k)
        = (l.foldl (fun s g => s.removeClaim k g) u).leaveQueue k := by
    intro l
    induction l with
    | nil => intro u; rfl
    | cons g l ih =>
      intro u
      simp only [List.foldl_cons]
      rw [← ih]
      congr 1
      unfold State.removeClaim
      by_cases c : k ∈ (u.seg g).claims
      · have c' : k ∈ ((u.leaveQueue k).seg g).claims := c
        rw [if_pos c, if_pos c']; rfl
      · have c' : ¬ k ∈ ((u.leaveQueue k).seg g).claims := c
        rw [if_neg c, if_neg c']
  exact comm _ t

theorem ev_cancelLive (h : Evolve s t) (k : SlotIx) : Evolve s (t.cancelLive k) := by
  unfold State.cancelLive
  split
  · exact ev_refuseOnly h k _
  · dsimp only
    split
    · exact ev_leaveEnd h k _
    · rw [dropClaims_leaveQueue]
      exact ev_leaveEnd (ev_dropClaims h k) k _
  · rename_i hg
    exact ev_releaseAndEnd h k _ (by rw [hg]; decide)
  · rename_i hg
    split
    · exact ev_cancelSent h k
    · exact ev_releasePassenger h k (by rw [hg]; decide)
  · exact ev_cancelSent h k
  · exact ev_cancelSent h k

theorem ev_cancelWrite (h : Evolve s t) (k : SlotIx) (v : Word) : Evolve s (t.cancelWrite k v) :=
  ev_event _ (fun u q => by
    split
    · exact ev_refuseOnly q k _
    · exact ev_cancelLive q k) h

theorem ev_draftWrite (h : Evolve s t) (k : SlotIx) (w : Fin 11) (v : Word) : Evolve s (t.draftWrite k w v) := by
  refine ev_keepSlot h k _ ?_ ?_ ?_ ?_ ?_ <;> rfl

theorem ev_gatewayHandover (h : Evolve s t) (k : SlotIx) : Evolve s (t.gatewayHandover k) := by
  unfold State.gatewayHandover
  split
  · rename_i hg
    refine ev_markDirty (ev_setSlot h k ((t.slot k).delivered (t.after t.confirmTimeout))
      (SlotMove.rename _ _ ?_ ?_ rfl rfl rfl rfl) ?_) _
    · rw [hg]; decide
    · intro z; cases z
    · rw [hg]
      constructor
      · intro z; cases z
      · intro z; cases z
  · exact ev_clearChanged h k

theorem ev_confirmExpiry (h : Evolve s t) (k : SlotIx) : Evolve s (t.confirmExpiry k) := by
  unfold State.confirmExpiry
  split
  · refine ev_notifySlot (ev_setDsp (ev_keepSlot h k _ ?_ ?_ ?_ ?_ ?_) _) _ _ _ _ <;> rfl
  · exact h

theorem ev_shortenExpiry (h : Evolve s t) (k : SlotIx) : Evolve s (t.shortenExpiry k) := by
  unfold State.shortenExpiry
  split
  · have q : Evolve s (t.setSlot k { t.slot k with shortenTimer := none }) := by
      refine ev_keepSlot h k _ ?_ ?_ ?_ ?_ ?_ <;> rfl
    refine ev_notifySlot ?_ _ _ _ _
    split
    · exact q
    · exact ev_setDsp (ev_raising _ (fun _ e => ev_setOverdue e k) q) _
  · exact h

theorem ev_waitExpiry (h : Evolve s t) (k : SlotIx) : Evolve s (t.waitExpiry k) := by
  unfold State.waitExpiry
  split
  · refine ev_event _ (fun u q => ?_) h
    dsimp only
    split
    · exact ev_leaveEnd q k _
    · rw [dropClaims_leaveQueue]
      exact ev_setOps (ev_leaveEnd (ev_dropClaims q k) k _) _
  · exact h

end Sys2Proof.Machine
end

