-- ==== Sys2Proof/Laws/EvolveEvents.lean ====
section
/-! SUPPORT. The events of the tracker, the zone monitor, the drying unit and the closures as moves of the state. -/
namespace Sys2Proof.Machine
open Sys2Proof

variable {s t : State}

/-! ### Reports -/

theorem sentSlot_some (t : State) (x : ScrubIx) (k : SlotIx) (h : t.sentSlot x = some k) :
    (t.slot k).state.sent = true := by
  unfold State.sentSlot at h
  split at h
  · cases h
  · split at h
    · rename_i q; cases h; exact q
    · cases h

theorem not_waiting_of_sent (x : SlotState) (h : x.sent = true) : x ≠ .idle ∧ x ≠ .waiting := by
  cases x <;> simp_all [SlotState.sent]

theorem ev_hear (h : Evolve s t) (x : ScrubIx) (p : Position) : Evolve s (t.hear x p) := by
  unfold State.hear
  dsimp only
  split
  · exact ev_notify (ev_setScrub h _ _) _ _
  · exact h

theorem ev_moveTo (h : Evolve s t) (x : ScrubIx) (p : Position) : Evolve s (t.moveTo x p) := by
  unfold State.moveTo
  exact ev_setScrub (ev_foldl _ (fun _ g q => ev_clearOccupant q x g) _
    (ev_foldl _ (fun _ g q => ev_setOccupant q x g) _ h)) _ _

theorem ev_progressTo (h : Evolve s t) (x : ScrubIx) (p : Position) : Evolve s (t.progressTo x p) := by
  unfold State.progressTo
  split
  · exact h
  · split
    · exact h
    · refine ev_keepSlot h _ _ ?_ ?_ ?_ ?_ ?_ <;> rfl

theorem ev_violation (h : Evolve s t) (x : ScrubIx) (p : Position) (v : List SegIx) :
    Evolve s (t.violation x p v) := by
  unfold State.violation
  split
  · exact h
  · rename_i g l
    dsimp only
    have q1 : Evolve s (if (t.scrub x).mark = true then t else t.setMark x) := by
      split
      · exact h
      · exact ev_raising _ (fun _ e => ev_setScrub e _ _) h
    have q2 : Evolve s (match (t.scrub x).liveSlot.map fleetSlot with
        | none => (if (t.scrub x).mark = true then t else t.setMark x)
        | some k => (if (t.scrub x).mark = true then t else t.setMark x).shortenToProgress k) := by
      split
      · exact q1
      · exact ev_shortenToProgress q1 _
    have q3 := ev_foldl (fun u g => u.shortenHolder g ((t.scrub x).liveSlot.map fleetSlot))
      (fun _ g q => ev_shortenHolder q g _) (g :: l) q2
    exact ev_ite _ (fun _ => q3) (fun _ => ev_notify (ev_setDsp q3 _) _ _)

theorem ev_releaseBehind (h : Evolve s t) (x : ScrubIx) (p : Position) : Evolve s (t.releaseBehind x p) := by
  unfold State.releaseBehind
  split
  · exact h
  · exact ev_releaseWhere h _ _

theorem ev_witness (h : Evolve s t) (x : ScrubIx) (p : Position) (b : Bool) : Evolve s (t.witness x p b) := by
  unfold State.witness
  split
  · exact h
  · refine ev_keepSlot h _ _ ?_ ?_ ?_ ?_ ?_ <;> rfl

theorem ev_confirmedNotice (h : Evolve s t) (k : SlotIx) : Evolve s (t.confirmedNotice k) :=
  ev_notifySlot (ev_markDirty h _) _ _ _ _

theorem ev_toActive (h : Evolve s t) (k : SlotIx) (r : Slot) (h0 : (t.slot k).state.sent = true)
    (h1 : r.state = .active) (h2 : r.scrubber = (t.slot k).scrubber) (h3 : r.route = (t.slot k).route)
    (h4 : r.endIx = (t.slot k).endIx) (h5 : r.revision = (t.slot k).revision) : Evolve s (t.setSlot k r) := by
  have n := not_waiting_of_sent _ h0
  refine ev_setSlot h k r (SlotMove.rename _ _ n.1 (by rw [h1]; decide) h2 h3 h4 h5) ?_
  constructor
  · intro e; rw [h1] at e; cases e
  · intro e; exact absurd e n.2

theorem ev_confirm (h : Evolve s t) (k : SlotIx) (h0 : (t.slot k).state.sent = true) : Evolve s (t.confirm k) := by
  refine ev_confirmedNotice (ev_toActive h k _ h0 ?_ ?_ ?_ ?_ ?_) k <;> rfl

theorem ev_confirmShortening (h : Evolve s t) (k : SlotIx) (h0 : (t.slot k).state.sent = true) :
    Evolve s (t.confirmShortening k) := by
  unfold State.confirmShortening
  dsimp only
  refine ev_confirmedNotice (ev_toActive (ev_releaseWhere h k _) k _ ?_ ?_ ?_ ?_ ?_ ?_) k
  · rw [slot_releaseWhere]; exact h0
  all_goals rfl

theorem state_clearOverdue (u : State) (k j : SlotIx) : ((u.clearOverdue k).slot j).state = (u.slot j).state := by
  unfold State.clearOverdue
  rw [slot_setSlot]
  split
  · rename_i e; subst e; rfl
  · rfl

theorem ev_giveUp (h : Evolve s t) (k : SlotIx) (res : Result) (h0 : (t.slot k).state ≠ .waiting) :
    Evolve s (t.giveUp k res) := by
  unfold State.giveUp
  refine ev_endSlot (ev_clearOverdue (ev_releaseAll h k) k) k res ?_
  rw [state_clearOverdue, slot_releaseAll]; exact h0

theorem ev_confirmBeyond (h : Evolve s t) (k : SlotIx) (p : Position) (h0 : (t.slot k).state ≠ .waiting) :
    Evolve s (t.confirmBeyond k p) := by
  unfold State.confirmBeyond
  dsimp only
  refine ev_endSlot (ev_confirmedNotice (ev_clearOverdue (ev_releaseAll (ev_releaseWhere h k _) k) k) k) k _ ?_
  have e : ∀ (u : State), ((u.confirmedNotice k).slot k) = u.slot k := by
    intro u
    unfold State.confirmedNotice State.notifySlot State.notify State.stage
    (repeat' split) <;> rfl
  rw [e, state_clearOverdue, slot_releaseAll, slot_releaseWhere]; exact h0

theorem ev_slotField (h : Evolve s t) (x : ScrubIx) (p : Position) (r : Report) (b : Bool) :
    Evolve s (t.slotField x p r b) := by
  unfold State.slotField
  split
  · exact h
  · rename_i k hk
    have n := sentSlot_some t x k hk
    have w := (not_waiting_of_sent _ n).2
    split
    · exact ev_giveUp h k _ w
    · split
      · exact h
      · split
        · exact ev_confirm h k n
        · split
          · exact ev_confirmBeyond h k p w
          · exact ev_confirmShortening h k n
        all_goals exact h

theorem ev_complete (h : Evolve s t) (x : ScrubIx) (p : Position) (f : ReportFlags) : Evolve s (t.complete x p f) := by
  unfold State.complete
  split
  · exact h
  · rename_i k hk
    split
    · exact ev_releaseAndEnd h k _ (not_waiting_of_sent _ (sentSlot_some t x k hk)).2
    · exact h

theorem ev_storeReport (h : Evolve s t) (x : ScrubIx) (r : Report) : Evolve s (t.storeReport x r) :=
  ev_markDirty (ev_setScrub h x _) _

theorem ev_processReport (h : Evolve s t) (x : ScrubIx) (p : Position) (r : Report) :
    Evolve s (t.processReport x p r) := by
  unfold State.processReport
  exact ev_storeReport (ev_complete (ev_slotField (ev_witness (ev_releaseBehind (ev_violation (ev_progressTo
    (ev_moveTo (ev_hear h x p) x p) x p) x p _) x p) x p _) x p r _) x p _) x r

theorem ev_invalidReport (h : Evolve s t) (c : CellIx) (r : Report) : Evolve s (t.invalidReport c r) :=
  ev_notify (ev_setDsp h _) _ _

theorem ev_cellWrite (h : Evolve s t) (c : CellIx) (w : Fin 3) (v : Word) : Evolve s (t.cellWrite c w v) :=
  ev_setCell h c _

theorem ev_lostExpiry (h : Evolve s t) (x : ScrubIx) : Evolve s (t.lostExpiry x) := by
  unfold State.lostExpiry
  dsimp only
  split
  · exact ev_notify (ev_setDsp (ev_markDirty (ev_setScrub h x _) _) _) _ _
  · exact h

/-! ### Scrubber commands -/

theorem ev_withdrawSlot (h : Evolve s t) (x : ScrubIx) : Evolve s (t.withdrawSlot x) := by
  unfold State.withdrawSlot
  split
  · exact h
  · split
    · rename_i j _ ha
      exact ev_giveUp h _ _ (live_of_authority _ ha).2
    · exact ev_leaveEnd h _ _

theorem ev_park (h : Evolve s t) (x : ScrubIx) (g : Option SegIx) : Evolve s (t.park x g) := by
  unfold State.park
  split
  · exact h
  · exact ev_shortenHolder (ev_setOccupant h x _) _ _

theorem ev_withdraw (h : Evolve s t) (x : ScrubIx) (g : Option SegIx) : Evolve s (t.withdraw x g) :=
  ev_event _ (fun _ q => ev_markDirty (ev_setScrub (ev_park (ev_foldl _ (fun _ f e => ev_clearOccupant e x f) _
    (ev_withdrawSlot q x)) x g) x _) _) h

theorem ev_readmit (h : Evolve s t) (x : ScrubIx) : Evolve s (t.readmit x) := ev_markDirty (ev_setScrub h x _) _

theorem ev_liftMark (h : Evolve s t) (x : ScrubIx) : Evolve s (t.liftMark x) := ev_markDirty (ev_setScrub h x _) _

/-! ### Zones -/

theorem ev_zoneNotice (h : Evolve s t) (kind : NoticeKind) (z : ZoneIx) : Evolve s (t.zoneNotice kind z) := by
  unfold State.zoneNotice
  split
  · exact ev_notify h _ _
  · exact h

theorem ev_dropHolding (h : Evolve s t) (z : ZoneIx) (k : SlotIx) : Evolve s (t.dropHolding z k) := by
  unfold State.dropHolding
  split
  · dsimp only
    split
    · refine ev_setChanged (ev_keepSlot h k _ ?_ ?_ ?_ ?_ ?_) k <;> rfl
    · refine ev_keepSlot h k _ ?_ ?_ ?_ ?_ ?_ <;> rfl
  · exact h

theorem ev_addHolding (h : Evolve s t) (z : ZoneIx) (k : SlotIx) : Evolve s (t.addHolding z k) := by
  unfold State.addHolding
  dsimp only
  split
  · refine ev_setChanged (ev_keepSlot h k _ ?_ ?_ ?_ ?_ ?_) k <;> rfl
  · refine ev_keepSlot h k _ ?_ ?_ ?_ ?_ ?_ <;> rfl

theorem ev_reachQuiet (h : Evolve s t) (z : ZoneIx) : Evolve s (t.reachQuiet z) := by
  unfold State.reachQuiet
  exact ev_noteFreeing (ev_zoneNotice (ev_foldl _ (fun _ _ q => ev_dropHolding q z _) _ (ev_setZone h z _)) _ z)

theorem ev_enterSettling (h : Evolve s t) (z : ZoneIx) : Evolve s (t.enterSettling z) := by
  unfold State.enterSettling
  dsimp only
  split
  · exact ev_reachQuiet (ev_setZone h z _) z
  · exact ev_setZone h z _

theorem ev_reseed (h : Evolve s t) (z : ZoneIx) : Evolve s (t.reseed z) :=
  ev_zoneNotice (ev_enterSettling (ev_setZone h z _) z) _ z

theorem ev_presentSlot (h : Evolve s t) (z : ZoneIx) (k : SlotIx) : Evolve s (t.presentSlot z k) := by
  unfold State.presentSlot
  dsimp only
  split
  · exact ev_ite _ (fun _ => ev_addHolding h z k) (fun _ => ev_shortenBefore h k _)
  · exact h

theorem ev_enterPresent (h : Evolve s t) (z : ZoneIx) : Evolve s (t.enterPresent z) := by
  unfold State.enterPresent
  exact ev_zoneNotice (ev_foldl _ (fun _ _ q => ev_presentSlot q z _) _ (ev_setZone h z _)) _ z

theorem ev_endEntry (h : Evolve s t) (z : ZoneIx) : Evolve s (t.endEntry z) := by
  unfold State.endEntry
  dsimp only
  split
  · exact ev_setZone h z _
  · exact ev_reachQuiet (ev_setZone h z _) z

theorem ev_judgeZone (h : Evolve s t) (z : ZoneIx) (d : Int) : Evolve s (t.judgeZone z d) := by
  have p := ev_enterPresent h z
  have q : ∀ r, Evolve s (t.setZone z r) := fun r => ev_setZone h z r
  unfold State.judgeZone
  dsimp only
  split
  · exact ev_ite _ (fun _ => h) (fun _ => ev_ite _ (fun _ => p) (fun _ => q _))
  · exact ev_ite _ (fun _ => h) (fun _ => ev_ite _ (fun _ => p) (fun _ => q _))
  · exact ev_ite _ (fun _ => ev_endEntry h z) (fun _ => ev_ite _ (fun _ => p) (fun _ => q _))
  · exact ev_ite _ (fun _ => h) (fun _ => ev_ite _ (fun _ => ev_enterSettling h z) (fun _ => q _))
  · exact ev_ite _ (fun _ => q _) (fun _ => ev_ite _ (fun _ => ev_enterSettling (q _) z) (fun _ => q _))
  · exact h
  · exact h

theorem ev_takeSample (h : Evolve s t) (z : ZoneIx) (fig : Nat) : Evolve s (t.takeSample z fig) := by
  unfold State.takeSample State.workSample
  dsimp only
  split
  · exact ev_enterSettling (ev_setZone h z _) z
  · exact ev_enterSettling (ev_setZone h z _) z
  all_goals exact ev_judgeZone (ev_setZone h z _) z _

theorem ev_zoneSample (h : Evolve s t) (z : ZoneIx) (fig : Nat) : Evolve s (t.zoneSample z fig) := by
  unfold State.zoneSample
  split
  · exact ev_event _ (fun _ q => ev_setZone (ev_takeSample q z fig) z _) h
  · exact h

theorem ev_moisture (h : Evolve s t) (z : ZoneIx) (fig : Nat) : Evolve s (t.moisture z fig) := by
  unfold State.moisture
  split
  · exact ev_setZone h z _
  · exact h

theorem ev_quietExpiry (h : Evolve s t) (z : ZoneIx) : Evolve s (t.quietExpiry z) := by
  unfold State.quietExpiry
  split
  · refine ev_event _ (fun u q => ?_) h
    unfold State.quietEnds
    dsimp only
    split
    · exact ev_reachQuiet (ev_setZone q z _) z
    all_goals exact ev_setZone q z _
  · exact h

theorem ev_staleExpiry (h : Evolve s t) (z : ZoneIx) : Evolve s (t.staleExpiry z) := by
  unfold State.staleExpiry
  split
  · exact ev_zoneNotice (ev_setDsp (ev_setZone h z _) _) _ z
  · exact h

theorem ev_stuckExpiry (h : Evolve s t) (z : ZoneIx) : Evolve s (t.stuckExpiry z) := by
  unfold State.stuckExpiry
  split
  · exact ev_event _ (fun _ q => ev_reseed q z) h
  · exact h

theorem ev_haltExpiry (h : Evolve s t) (z : ZoneIx) : Evolve s (t.haltExpiry z) := by
  unfold State.haltExpiry
  split
  · exact ev_event _ (fun _ q => ev_reseed q z) h
  · exact h

/-! ### Drying -/

/-- An entry of the list stands for wet floor that nobody holds, in SERVICE. -/
theorem wet_of_entry (t : State) (e : DryEntry) (he : e ∈ t.drying) (law : t.dryingLaw) :
    (t.seg e.seg).wet.isSome = true ∧ (t.seg e.seg).holder = none ∧ t.mode = .service
      ∧ (t.seg e.seg).carried = false := by
  obtain ⟨_, _, l3, l4, l5, l6⟩ := law
  have hw : (t.seg e.seg).wet.isSome = true := by
    have a := l3 e.seg
    unfold State.wetAgrees at a
    cases h : (t.seg e.seg).wet with
    | none => rw [h] at a; exact absurd rfl (a e he)
    | some w => rfl
  have hh : (t.seg e.seg).holder = none := by
    by_contra c
    have := l4 e.seg (by simpa [Option.isSome_iff_ne_none] using c)
    rw [this] at hw; cases hw
  refine ⟨hw, hh, ?_, ?_⟩
  · by_contra c
    have := (l6 c e.seg).1
    rw [this] at hw; cases hw
  · by_contra c
    have := l5 e.seg (by simpa using c)
    rw [hh] at this; cases this

theorem ev_drySeg (h : Evolve s t) (e : DryEntry) (he : e ∈ t.drying) (r : Seg) (hw : r.wet = none)
    (hc : r.carried = (t.seg e.seg).carried) :
    Evolve s ((t.dropEntry e.seg).setSeg e.seg r) := by
  refine h.trans ⟨cm_setSeg (cm_dropEntry (Calm.refl t) _) _ _, fun _ law => ?_⟩
  have w := wet_of_entry t e he law
  refine dryingLaw_drop t _ e.seg ⟨rfl, ?_, ?_, ?_, ?_⟩ law rfl ?_
  · intro g ne; exact seg_setSeg_other _ _ _ _ (fun q => ne q.symm)
  · intro _; rw [seg_setSeg_same]; exact hw
  · rw [seg_setSeg_same, hc, w.2.2.2]; intro q; cases q
  · intro q; exact absurd w.2.2.1 q
  · rw [seg_setSeg_same]; exact hw

theorem ev_dry (h : Evolve s t) (e : DryEntry) (he : e ∈ t.drying) : Evolve s (t.dry e) := by
  unfold State.dry
  refine ev_noteFreeing (ev_notify (ev_drySeg h e he _ ?_ ?_) _ _) <;> rfl

theorem ev_dryOverdue (h : Evolve s t) (e : DryEntry) (z : ZoneIx) (he : e ∈ t.drying) :
    Evolve s (t.dryOverdue e z) := by
  unfold State.dryOverdue
  refine ev_notify (ev_setDsp (ev_drySeg h e he _ ?_ ?_) _) _ _ <;> rfl

theorem ev_extend (h : Evolve s t) (e : DryEntry) (z : ZoneIx) (he : e ∈ t.drying) : Evolve s (t.extend e z) := by
  unfold State.extend
  dsimp only
  refine ev_notify (h.trans ⟨cm_setSeg (cm_setDrying (cm_dropEntry (Calm.refl t) _) _) _ _, fun _ law => ?_⟩) _ _
  have w := wet_of_entry t e he law
  refine dryingLaw_put t _ e.seg e.extended ⟨rfl, ?_, ?_, ?_, ?_⟩ law rfl rfl ?_
  · intro g ne; exact seg_setSeg_other _ _ _ _ (fun q => ne q.symm)
  · rw [seg_setSeg_same]
    intro q
    have : (t.seg e.seg).holder.isSome = true := q
    rw [w.2.1] at this; cases this
  · rw [seg_setSeg_same]
    intro q
    have : (t.seg e.seg).carried = true := q
    rw [w.2.2.2] at this; cases this
  · intro q; exact absurd w.2.2.1 q
  · rw [seg_setSeg_same]

theorem ev_expireEntry (h : Evolve s t) (e : DryEntry) (he : e ∈ t.drying) : Evolve s (t.expireEntry e) := by
  unfold State.expireEntry
  (repeat' split) <;>
    first
    | exact ev_dry h e he
    | exact ev_extend h e _ he
    | exact ev_dryOverdue h e _ he

theorem ev_dryingExpiry (h : Evolve s t) (g : SegIx) : Evolve s (t.dryingExpiry g) := by
  unfold State.dryingExpiry
  split
  · exact h
  · rename_i e he
    exact ev_settle (ev_expireEntry (ev_clearFreeing h) e (List.mem_of_find?_eq_some he))

/-! ### Closures -/

theorem ev_closeFloor (h : Evolve s t) (i : Issuer) (g : SegIx) : Evolve s (t.closeFloor i g) := by
  unfold State.closeFloor
  split
  · exact h
  · have q := ev_shortenHolder (ev_setClosure h g ((t.seg g).closure.withIssuer i)) g none
    dsimp only
    split
    · exact q
    · split
      · exact q
      · exact ev_shortenToProgress q _

theorem ev_closeSegment (h : Evolve s t) (i : Issuer) (g : SegIx) : Evolve s (t.closeSegment i g) := by
  unfold State.closeSegment
  split
  · exact h
  · exact ev_event _ (fun _ q => ev_notify (ev_closeFloor q i g) _ _) h

theorem ev_reopenFloor (h : Evolve s t) (i : Issuer) (g : SegIx) : Evolve s (t.reopenFloor i g) := by
  unfold State.reopenFloor
  split
  · exact ev_setClosure h g _
  · exact h

theorem ev_reopenSegment (h : Evolve s t) (i : Issuer) (g : SegIx) : Evolve s (t.reopenSegment i g) := by
  unfold State.reopenSegment
  split
  · exact ev_event _ (fun _ q => ev_notify (ev_reopenFloor q i g) _ _) h
  · exact h

theorem ev_closeZone (h : Evolve s t) (z : ZoneIx) : Evolve s (t.closeZone z) :=
  ev_event _ (fun _ q => ev_notify (ev_foldl _ (fun _ g e => ev_closeFloor e .operations g) _ q) _ _) h

theorem ev_reopenZone (h : Evolve s t) (z : ZoneIx) : Evolve s (t.reopenZone z) :=
  ev_event _ (fun _ q => ev_notify (ev_foldl _ (fun _ g e => ev_reopenFloor e .operations g) _ q) _ _) h

end Sys2Proof.Machine
end

