-- ==== Sys2Proof/Laws/Marks.lean ====
section
/-! SUPPORT. What the operations do to dirty marks, flags and staged notices, in the words of the statements (R35, R163,
R168). -/
namespace Sys2Proof.Machine
open Sys2Proof

/-! ### Dirty marks -/

/-- No two mirror records begin at one address (R34). -/
theorem addr_injective (r t : MirrorRec) (h : r.addr = t.addr) : r = t := by
  have hc : ∀ a b : CtlWord, a.addr = b.addr → a = b := by
    intro a b e
    cases a <;> cases b <;> simp only [CtlWord.addr] at e <;> first | rfl | omega | skip
    rename_i i j
    have : i = j := Fin.ext (by omega)
    rw [this]
  have bound : ∀ a : CtlWord, a.addr < 0x40 := by
    intro a
    cases a <;> simp only [CtlWord.addr] <;> omega
  cases r <;> cases t <;> simp only [MirrorRec.addr] at h
  case control.control a b => rw [hc a b h]
  all_goals first
    | (exfalso; omega)
    | (rename_i a b; have := bound a; omega)
    | (rename_i a b; have := bound b; omega)
    | (rename_i a b; have : a = b := Fin.ext (by omega); rw [this])

theorem mem_insertBy {α : Type} (key : α → Nat) (inj : ∀ a b, key a = key b → a = b) (x : α) (l : List α) (y : α) :
    y ∈ insertBy key x l ↔ y = x ∨ y ∈ l := by
  induction l with
  | nil => simp [insertBy]
  | cons a l ih =>
    unfold insertBy
    split
    · simp
    · split
      · rename_i e
        have := inj x a e
        subst this
        simp
      · simp only [List.mem_cons, ih]
        constructor
        · rintro (e | e | e)
          · exact Or.inr (Or.inl e)
          · exact Or.inl e
          · exact Or.inr (Or.inr e)
        · rintro (e | e | e)
          · exact Or.inr (Or.inl e)
          · exact Or.inl e
          · exact Or.inr (Or.inr e)

theorem mem_dirty_insert (x : MirrorRec) (l : List MirrorRec) (y : MirrorRec) :
    y ∈ insertBy MirrorRec.addr x l ↔ y = x ∨ y ∈ l := mem_insertBy _ addr_injective x l y

theorem mem_dirty_markDirty (s : State) (x y : MirrorRec) : y ∈ (s.markDirty x).dirty ↔ y = x ∨ y ∈ s.dirty :=
  mem_dirty_insert x s.dirty y

theorem mem_dirty_markIf (s : State) (b : Bool) (x y : MirrorRec) :
    y ∈ (s.markIf b x).dirty ↔ (b = true ∧ y = x) ∨ y ∈ s.dirty := by
  cases b
  · simp [State.markIf]
  · simp [State.markIf, mem_dirty_insert]

theorem mem_dirty_setSlot (s : State) (k : SlotIx) (r : Slot) (y : MirrorRec) :
    y ∈ (s.setSlot k r).dirty ↔ (r.statusWord ≠ (s.slot k).statusWord ∧ y = .slotStatus k)
      ∨ (r.progressWord ≠ (s.slot k).progressWord ∧ y = .slotProgress k) ∨ y ∈ s.dirty := by
  unfold State.setSlot
  rw [mem_dirty_markIf, mem_dirty_markIf]
  simp only [bne_iff_ne, ne_eq]
  constructor
  · rintro (e | e | e)
    · exact Or.inr (Or.inl e)
    · exact Or.inl e
    · exact Or.inr (Or.inr e)
  · rintro (e | e | e)
    · exact Or.inr (Or.inl e)
    · exact Or.inl e
    · exact Or.inr (Or.inr e)

theorem mem_dirty_setSeg (s : State) (g : SegIx) (r : Seg) (y : MirrorRec) :
    y ∈ (s.setSeg g r).dirty ↔
      (segViewWords none r ≠ segViewWords none (s.seg g) ∧ y = segRecord g) ∨ y ∈ s.dirty := by
  unfold State.setSeg
  rw [mem_dirty_markIf]
  simp only [bne_iff_ne, ne_eq]

theorem mem_dirty_setScrub (s : State) (x : ScrubIx) (r : Scrubber) (y : MirrorRec) :
    y ∈ (s.setScrub x r).dirty ↔ (r.viewWords ≠ (s.scrub x).viewWords ∧ y = .scrubView x) ∨ y ∈ s.dirty := by
  unfold State.setScrub
  rw [mem_dirty_markIf]
  simp only [bne_iff_ne, ne_eq]

theorem marks_refl (s : State) : s.marks s [] := by
  intro r; simp

theorem marks_dirty_same (s t : State) (hd : t.dirty = s.dirty) (hf : t.dspFlags = s.dspFlags)
    (ho : t.opsFlags = s.opsFlags) : s.marks t [] := by
  intro r; simp [hd, hf, ho]

theorem marks_markDirty {s t : State} {l : List MirrorRec} (h : s.marks t l) (x : MirrorRec) :
    s.marks (t.markDirty x) (x :: l) := by
  intro r
  have e1 : (t.markDirty x).dspFlags = t.dspFlags := rfl
  have e2 : (t.markDirty x).opsFlags = t.opsFlags := rfl
  rw [mem_dirty_markDirty, h r, e1, e2, List.mem_cons]
  constructor
  · rintro (e | e | e | e)
    · exact Or.inr (Or.inl (Or.inl e))
    · exact Or.inl e
    · exact Or.inr (Or.inl (Or.inr e))
    · exact Or.inr (Or.inr e)
  · rintro (e | (e | e) | e)
    · exact Or.inr (Or.inl e)
    · exact Or.inl e
    · exact Or.inr (Or.inr (Or.inl e))
    · exact Or.inr (Or.inr (Or.inr e))

/-! ### Flags (R163) -/

theorem place_injective (f g : DspFlag) (h : f.place = g.place) : f = g := by
  cases f <;> cases g <;> first | rfl | cases h

theorem place_lt (f : DspFlag) : f.place < 16 := by cases f <;> decide

theorem opsPlace_injective (f g : OpsFlag) (h : f.place = g.place) : f = g := by
  cases f <;> cases g <;> first | rfl | cases h

theorem opsPlace_lt (f : OpsFlag) : f.place < 5 := by cases f <;> decide

@[simp] theorem dsp_setDsp (s : State) (f g : DspFlag) : (s.setDsp f).dsp g = (s.dsp g || decide (g = f)) := by
  have h : (s.setDsp f).dspFlags = s.dspFlags ||| BitVec.twoPow 16 f.place := rfl
  unfold State.dsp
  rw [h, BitVec.getLsbD_or, BitVec.getLsbD_twoPow]
  congr 1
  have := place_lt f
  by_cases e : g = f
  · subst e; simp [this]
  · have : f.place ≠ g.place := fun q => e (place_injective _ _ q.symm)
    simp [e, this]

@[simp] theorem ops_setOps (s : State) (f g : OpsFlag) : (s.setOps f).ops g = (s.ops g || decide (g = f)) := by
  have h : (s.setOps f).opsFlags = s.opsFlags ||| BitVec.twoPow 5 f.place := rfl
  unfold State.ops
  rw [h, BitVec.getLsbD_or, BitVec.getLsbD_twoPow]
  congr 1
  have := opsPlace_lt f
  by_cases e : g = f
  · subst e; simp [this]
  · have : f.place ≠ g.place := fun q => e (opsPlace_injective _ _ q.symm)
    simp [e, this]

theorem dsp_eq_of_flags {s t : State} (h : t.dspFlags = s.dspFlags) (f : DspFlag) : t.dsp f = s.dsp f := by
  unfold State.dsp; rw [h]

/-- A dirty set that grows with a setting event stays described by the marks. -/
theorem marks_setDsp {s t : State} {l : List MirrorRec} (h : s.marks t l) (f : DspFlag)
    (mono : t.dspFlags = s.dspFlags ∨ ∃ p, t.dspFlags = s.dspFlags ||| p) : s.marks (t.setDsp f) l := by
  intro r
  have e1 : (t.setDsp f).dspFlags = t.dspFlags ||| BitVec.twoPow 16 f.place := rfl
  have e2 : (t.setDsp f).opsFlags = t.opsFlags := rfl
  have e3 : r ∈ (t.setDsp f).dirty ↔ (t.dspFlags ||| BitVec.twoPow 16 f.place ≠ t.dspFlags ∧ r = .control .dspStatus)
      ∨ r ∈ t.dirty := by
    unfold State.setDsp State.putDsp
    rw [mem_dirty_markIf]
    simp only [bne_iff_ne, ne_eq]
  have absorb : ∀ a b c : BitVec 16, (a ||| b) ||| c = a → a ||| b = a := by
    intro a b c e
    ext i hi
    have := congrArg (fun w => w.getLsbD i) e
    simp only [BitVec.getLsbD_or] at this
    simp only [BitVec.getElem_or]
    rw [BitVec.getLsbD_eq_getElem hi, BitVec.getLsbD_eq_getElem hi] at this
    cases h1 : a[i] <;> cases h2 : b[i] <;> simp_all
  rw [e1, e2, e3, h r]
  constructor
  · rintro (⟨c, e⟩ | e | e | ⟨e, c⟩ | e)
    · by_cases q : t.dspFlags ||| BitVec.twoPow 16 f.place = s.dspFlags
      · exfalso
        rcases mono with m | ⟨p, m⟩
        · rw [m] at c q; exact c q
        · rw [m] at q c
          have := absorb _ _ _ q
          rw [this] at c q
          exact c q
      · exact Or.inr (Or.inr (Or.inl ⟨e, q⟩))
    · exact Or.inl e
    · exact Or.inr (Or.inl e)
    · refine Or.inr (Or.inr (Or.inl ⟨e, fun q => c ?_⟩))
      rcases mono with m | ⟨p, m⟩
      · exact m
      · rw [m] at q ⊢
        exact absorb _ _ _ q
    · exact Or.inr (Or.inr (Or.inr e))
  · rintro (e | e | ⟨e, c⟩ | e)
    · exact Or.inr (Or.inl e)
    · exact Or.inr (Or.inr (Or.inl e))
    · by_cases q : t.dspFlags ||| BitVec.twoPow 16 f.place = t.dspFlags
      · exact Or.inr (Or.inr (Or.inr (Or.inl ⟨e, by rw [q] at c; exact c⟩)))
      · exact Or.inl ⟨q, e⟩
    · exact Or.inr (Or.inr (Or.inr (Or.inr e)))

/-! ### Notices (R168) -/

theorem notices_start (s t : State) (fl : List DspFlag) (h1 : t.staging = s.staging)
    (h2 : ∀ f, t.dsp f = (s.dsp f || decide (f ∈ fl))) : s.notices t [] fl := by
  refine ⟨by simp [State.sendable, h1], fun f => ?_⟩
  rw [h2]; simp [State.sendable]

theorem notices_setDsp {s u : State} {l : List (NoticeKind × List Word)} {fl : List DspFlag} (h : s.notices u l fl)
    (f : DspFlag) : s.notices (u.setDsp f) l (f :: fl) := by
  refine ⟨h.1, fun g => ?_⟩
  rw [dsp_setDsp, h.2 g]
  by_cases e : g = f
  · subst e; simp
  · simp [e]

theorem notices_notify {s u : State} {l : List (NoticeKind × List Word)} {fl : List DspFlag} (h : s.notices u l fl)
    (ht : u.tuning = s.tuning) (hc : u.clock = s.clock) (hh : u.held = s.held) (kind : NoticeKind) (p : List Word) :
    s.notices (u.notify kind p) (l ++ [(kind, p)]) fl := by
  have hs : u.suppressed kind = s.suppressed kind := by unfold State.suppressed; rw [ht]
  unfold State.notify
  rw [hs]
  by_cases q : s.suppressed kind = true
  · rw [if_pos q]
    have e : s.sendable (l ++ [(kind, p)]) = s.sendable l := by simp [State.sendable, q]
    unfold State.notices
    rw [e]; exact h
  · rw [if_neg q]
    have q : s.suppressed kind = false := by simpa using q
    have e : s.sendable (l ++ [(kind, p)]) = s.sendable l ++ [(kind, p)] := by simp [State.sendable, q]
    obtain ⟨h1, h2⟩ := h
    have len : u.staged = s.staging.length + min (16 - s.staged) (s.sendable l).length
        + (if s.held.isSome then 1 else 0) := by
      unfold State.staged
      rw [h1, hh]
      simp [State.staged]
    have base : s.staged = s.staging.length + (if s.held.isSome then 1 else 0) := rfl
    unfold State.stage
    by_cases full : 16 ≤ u.staged
    · rw [if_pos full]
      have room : 16 - s.staged ≤ (s.sendable l).length := by omega
      refine ⟨?_, fun f => ?_⟩
      · change u.staging = _
        rw [h1, e, List.take_append_of_le_length room]
      · rw [dsp_setDsp, h2 f, e]
        have r2 : 16 - s.staged < (s.sendable l ++ [(kind, p)]).length := by simp; omega
        simp only [r2, decide_true, Bool.and_true]
        by_cases z : f = .noticeLost
        · subst z; simp
        · have z' : (f == DspFlag.noticeLost) = false := by simpa using z
          rw [z']; simp [z]
    · rw [if_neg full]
      have room : (s.sendable l).length < 16 - s.staged := by omega
      refine ⟨?_, fun f => ?_⟩
      · change u.staging ++ [_] = _
        have k1 : (s.sendable l ++ [(kind, p)]).take (16 - s.staged) = s.sendable l ++ [(kind, p)] :=
          List.take_of_length_le (by rw [List.length_append]; simp only [List.length_cons, List.length_nil]; omega)
        have k2 : (s.sendable l).take (16 - s.staged) = s.sendable l := List.take_of_length_le (by omega)
        rw [h1, e, k1, k2, hc]
        simp
      · have e1 : (u.setStaging (u.staging ++ [{ kind := kind, clock := u.clock, payload := p }])).dsp f = u.dsp f := rfl
        rw [e1, h2 f, e]
        have r1 : ¬ 16 - s.staged < (s.sendable l).length := by omega
        have r2 : ¬ 16 - s.staged < (s.sendable l ++ [(kind, p)]).length := by simp; omega
        simp only [r1, r2]

end Sys2Proof.Machine
end

