-- ==== Sys2Proof/Laws/Watched.lean ====
section
/-! SUPPORT. What a write of one word and the memory part of a watched write leave (R24, R25, R33), in the words of the
statements. -/
namespace Sys2Proof.Machine
open Sys2Proof

/-- A word write is a write of that word alone. -/
theorem wrote_writeWord (s : State) (a : BitVec 18) (w : Word) (h : memWf s.mem = true) :
    s.wrote (s.writeWord a w) a w :=
  ⟨readWord_writeWord_same s a w h, by simp [wordBad_writeWord], fun b ne =>
    ⟨readWord_writeWord_other s a b w h ne, by simp [wordBad_writeWord, ne]⟩⟩

/-- The turn of an access in the statements' words is the model's. -/
theorem turn_eq (s u : State) : s.turn u = u.atTurn s.portReady := rfl

/-- The turn of an access keeps the canonical form of plan memory. -/
theorem memWf_turn (s u : State) (h : memWf u.mem = true) : memWf (s.turn u).mem = true := by
  unfold State.turn
  split
  · exact h
  · exact memWf_awaitPort u h

/-- The memory part of a watched write, whatever the owner has left at its event. -/
theorem tookWord_storeWatched (s u : State) (a : BitVec 18) (v : Word) (h : memWf u.mem = true) :
    s.tookWord u ((u.atTurn s.portReady).storeWatched a v) a v := by
  rw [← turn_eq]
  exact ⟨rfl, wrote_writeWord (s.turn u) a v (memWf_turn s u h)⟩

end Sys2Proof.Machine
end

