-- ==== Sys2Proof/Tests/Slice0.lean ====
section
/-! SUPPORT. Tests: ill-formed commands, one small run of each family, and states that meet the hypotheses of the
statements. -/
namespace Sys2Proof.Tests
open Sys2Proof Sys2Proof.Machine
set_option Elab.async false

/-! ### Ill-formed commands are refused by the check -/

def word0 : BusWord := goodWord 0

/-- A burst of nine words. -/
def nineWords : Access := { goodRead .dispatch 0 with transfer := .write word0 (List.replicate 8 word0) }

theorem test_wf_refuses_a_read_of_nine_words : (Transfer.read 8).wf = false := by decide
theorem test_wf_refuses_a_write_of_nine_words : (Transfer.write word0 (List.replicate 8 word0)).wf = false := by decide
theorem test_wf_refuses_the_access_of_nine_words : nineWords.wf = false := by decide
theorem test_wf_refuses_the_row_of_nine_words : (Instr.planBusAccess nineWords []).wf = false := by decide
theorem test_wf_refuses_a_passage_grant_of_nine_words : (PortCut.passage 9).wf = false := by decide
theorem test_wf_refuses_a_mirror_grant_of_nine_words : (PortCut.mirror 9).wf = false := by decide
theorem test_wf_refuses_a_notice_grant_of_nine_words : (PortCut.notice 9).wf = false := by decide
theorem test_wf_refuses_a_passage_grant_without_an_access :
    ({ access := none, port := .passage 1 } : InFlight).wf = false := by decide
theorem test_wf_refuses_an_ill_formed_access_in_flight :
    (Instr.power { access := some nineWords, port := .free }).wf = false
      ∧ (Instr.line { access := some nineWords, port := .free }).wf = false := by decide
theorem test_wf_refuses_a_store_above_8_KiB : storeWf (List.replicate 8193 0) = false := by decide +kernel
theorem test_wf_refuses_the_rows_of_that_store :
    (Instr.headerRead (List.replicate 8193 0)).wf = false
      ∧ (Instr.siteLoadComplete (List.replicate 8193 0)).wf = false := by decide +kernel
theorem test_wf_refuses_a_known_code_as_unknown :
    (Instr.unknownCode .dispatch 11 { a := 0, b := 0, tag := 0 }).wf = false
      ∧ (Instr.unknownCode .operations 7 { a := 0, b := 0, tag := 0 }).wf = false := by decide
theorem test_wf_refuses_a_reload_that_cuts_a_passage_grant :
    (Instr.reloadSite { a := 0, b := 0, tag := 0 } (.passage 0)).wf = false
      ∧ (Instr.reloadSite { a := 0, b := 0, tag := 0 } (.mirror 9)).wf = false := by decide

/-! ### A small site in SERVICE -/

/-- What the tests take from the state that a command leaves. -/
def left {α : Type} (c : Instr) (s : State) (f : State → α) : Option α :=
  match exec c s with
  | .next t => some (f t)
  | .fault _ => none
  | .refused _ => none

def profileA : Profile :=
  { filterShift := 0, baselineShift := 4, fastShift := 2, fastBound := 40, presence := 20, halt := 60, hysteresis := 64,
    debounceIn := 2, debounceOut := 2, quietTime := 10, stuckTimeout := 1, dryThreshold := 500, notices := true }

def profileB : Profile := { profileA with debounceIn := 1, debounceOut := 1, quietTime := 0 }

/-- Three segments in a row, the first two in zone 1, the third in zone 2; the second is of pinch group 1. -/
def labSite : Site :=
  { defaultClass := 0, enrolled := 3, dspPolarity := .activeLowOpenDrain, gwyPolarity := .activeLowOpenDrain,
    opsPolarity := .activeHighDriven,
    timings := { report := 30, confirm := 50, shorten := 40, fleetWait := 30, passengerWait := 90 },
    classes := Vector.replicate 8 { drying := 2, wetScrub := true, moistureCheck := true, restartWet := true },
    profiles := #v[profileA, profileB, profileA, profileA], zones := [0, 1],
    segs := [{ zone := some 0, cls := none, pinch := none, nbrs := [1] },
             { zone := some 0, cls := some 1, pinch := some 0, nbrs := [0, 2] },
             { zone := some 1, cls := none, pinch := none, nbrs := [1] }] }

/-- The draft of scrubber 1 over segments 1, 2 and 3 in SCRUB. -/
def labDraft : Draft := { scrubber := 1, mode := 2, length := 3, route := #v[1, 2, 3, 0, 0, 0, 0, 0, 0, 0] }

/-- SERVICE: scrubber 1 HEARD on segment 1, every zone QUIET, nothing dirty, nothing staged. -/
def lab : State :=
  { mode := .service, load := .idle, site := some labSite, dirty := [], staging := [], clock := 1000, ackRestart := true,
    segs := (Vector.replicate 255 {}).set 0 { occupant := some 0 },
    scrubbers := (Vector.replicate 16 {}).set 0
      { state := .heard, current := some 0, timer := some 1000, flags := { stopped := true } },
    zones := Vector.replicate 32 { state := .quiet },
    slots := ((Vector.replicate 24 {}).set 0 { draft := labDraft }).set 20 { draft := labDraft } }

def withSlot (k : SlotIx) (r : Slot) (s : State) : State := { s with slots := s.slots.set k.val r }
def withScrub (x : ScrubIx) (r : Scrubber) (s : State) : State := { s with scrubbers := s.scrubbers.set x.val r }
def withSeg (g : SegIx) (r : Seg) (s : State) : State := { s with segs := s.segs.set g.val r }
def withZone (z : ZoneIx) (r : Zone) (s : State) : State := { s with zones := s.zones.set z.val r }
def withCell (c : CellIx) (r : CellCapture) (s : State) : State := { s with cells := s.cells.set c.val r }

/-- Slot 1 holding segments 1 to 3 in a state, its scrubber 1 on segment 1. -/
def heldSlot (st : SlotState) : Slot :=
  { state := st, draft := labDraft, scrubber := some 0, mode := .scrub, route := [0, 1, 2],
    evidence := [.none, .none, .none], endIx := 3, progress := 1, revision := 5 }

def holding (st : SlotState) : State :=
  withSlot 0 (heldSlot st) (withScrub 0
    { state := .heard, current := some 0, liveSlot := some 0, flags := { stopped := true } }
    (withSeg 0 { holder := some 0, occupant := some 0 } (withSeg 1 { holder := some 0 }
      (withSeg 2 { holder := some 0 } lab))))

/-- A slot waiting over the same route, its deadline reached. -/
def waitingSlot : Slot :=
  { state := .waiting, draft := labDraft, scrubber := some 0, mode := .scrub, route := [0, 1, 2], result := .held,
    failIx := 2, deadline := some 1000 }

def waitingFleet : State :=
  withSlot 0 waitingSlot (withScrub 0 { state := .heard, current := some 0, liveSlot := some 0 }
    { lab with queue := [0] })

def waitingPassenger : State :=
  withSlot 20 { waitingSlot with scrubber := none, mode := .transit } (withSeg 0 { occupant := some 0, claims := [20] }
    (withSeg 1 { claims := [20] } (withSeg 2 { claims := [20] } { lab with queue := [20] })))

def op (a b tag : Byte) : CmdFields := { a := a, b := b, tag := tag }

/-! ### One small run of each family -/

theorem test_an_empty_queue_idles : step State.reset = .next State.reset := by rfl

theorem test_step_takes_the_front :
    step { State.reset with pending := [.interlockClockTick, .flushEnd] }
      = .next { State.reset with pending := [.flushEnd], clock := 1 } := by rfl

theorem test_no_word_spells_a_command : decodeTableWord 32 0 = none := by rfl

/-- An image of one segment, no zone and eight equal classes, with its check value. -/
def image : List Byte :=
  ([0x54, 0x47, 0x53, 0x49, 1, 1, 0, 0, 0, 124, 0, 7, 0, 0] ++ List.replicate 10 0xFF
    ++ (List.replicate 8 [6, 1]).flatten
    ++ (List.replicate 4 [3, 4, 2, 0, 40, 0, 20, 0, 60, 64, 2, 2, 10, 30, 1, 0, 1, 0]).flatten
    ++ [0, 15, 0, 0, 0, 0, 0, 0, 0, 0, 7, 229] : List Nat).map (BitVec.ofNat 8)

/-- The reset state with the header of that image kept. -/
def headerKept : State := { State.reset with load := .body (image.take 24) }

theorem test_header_in : left (.headerRead image) State.reset (·.load) = some (.body (image.take 24)) := by
  decide +kernel
set_option maxRecDepth 100000 in
theorem test_image_in :
    left (.siteLoadComplete (image.drop 24)) headerKept (fun t => (t.mode, t.n, t.z, (t.scrub 2).state, (t.scrub 3).state))
      = some (.initialising, 1, 0, .unheard, .absent) := by decide +kernel
theorem test_silent_store : left (.headerRead []) State.reset (fun t => (t.mode, t.siteFault))
    = some (.noSite, { reason := .signature, item := 0 }) := by decide +kernel
theorem test_power : left (.power { access := none, port := .free }) lab (fun t => (t.mode, t.cause, t.clock))
    = some (.loading, .power, 0) := by decide +kernel
theorem test_line : left (.line { access := none, port := .free }) lab (fun t => (t.cause, t.lineHeld))
    = some (.line, true) := by decide +kernel
theorem test_release : left .resetRelease { lab with lineHeld := true } (·.lineHeld) = some false := by decide +kernel
theorem test_flush_end : left .flushEnd { lab with mode := .initialising } (·.mode) = some .recovery := by
  decide +kernel
theorem test_tick : left .interlockClockTick { lab with clock := 0xFFFFFFFF } (·.clock) = some 0 := by decide +kernel

theorem test_general_write_then_read :
    left (.planBusAccess (goodRead .gateway 0x10000) [])
      (lab.busAccess (goodWrite .dispatch 0x10000 0xA5B6C7D8)) (·.answer)
      = some (some (.done 1 [goodWord 0xA5B6C7D8])) := by decide +kernel
theorem test_upset_byte_is_refused :
    left (.planBusAccess (goodRead .gateway 0x10000) [0x40001]) lab (fun t => (t.answer, t.dsp .memoryParity))
      = some (some .refused, true) := by decide +kernel
theorem test_cell_write : left (.reportCellWrite 3 1 0x0201) lab (fun t => (t.cell 3).word1) = some (some 0x0201) := by
  decide +kernel
theorem test_draft_write : left (.slotDraftWrite 1 0 0x040203) lab (fun t => (t.slot 1).draft.mode) = some 2 := by
  decide +kernel
theorem test_commit_grants :
    left (.commit 0) lab (fun t => ((t.slot 0).state, (t.slot 0).revision, (t.seg 2).holder, (t.scrub 0).liveSlot))
      = some (.granted, 1, some 0, some 0) := by decide +kernel
theorem test_commit_wait_waits :
    left (.commitWait 0) (withSeg 2 { wet := some { expiry := 2000, count := 0 } } lab)
      (fun t => ((t.slot 0).state, (t.slot 0).result, (t.slot 0).failIx, t.queue)) = some (.waiting, .wet, 3, [0]) := by
  decide +kernel
theorem test_passenger_commit_waits_on_the_scrubber :
    left (.commit 20) lab (fun t => ((t.slot 20).state, (t.slot 20).result, (t.seg 1).claims))
      = some (.waiting, .occupied, [20]) := by decide +kernel
theorem test_cancel_granted :
    left (.cancel 0 1) (holding .granted) (fun t => ((t.slot 0).result, (t.seg 0).wet.isSome, (t.seg 1).wet.isSome))
      = some (.cancelled, true, false) := by decide +kernel
theorem test_handover_delivers :
    left (.handoverRead 0) (holding .granted) (fun t => ((t.slot 0).state, (t.slot 0).confirmTimer))
      = some (.delivered, some 1050) := by decide +kernel
theorem test_report_confirms :
    left (.report 0 2) (withCell 0 { word0 := some 1, word1 := some 1, word2 := some 0x0501 } (holding .delivered))
      (fun t => ((t.slot 0).state, (t.scrub 0).timer)) = some (.active, some 1030) := by decide +kernel
theorem test_report_off_the_route_is_a_violation :
    left (.report 0 2) (withCell 0 { word0 := some 1, word1 := some 2 } lab)
      (fun t => ((t.scrub 0).mark, t.stopAll, t.dsp .violation)) = some (true, true, true) := by decide +kernel
theorem test_confirm_overdue :
    left (.confirmOverdue 0) (withSlot 0 { heldSlot .delivered with confirmTimer := some 1000 } lab)
      (fun t => (t.dsp .confirmOverdue, (t.slot 0).confirmTimer)) = some (true, none) := by decide +kernel
theorem test_shorten_overdue :
    left (.shortenOverdue 0) (withSlot 0 { heldSlot .shortening with shortenTimer := some 1000 } lab)
      (fun t => (t.stopAll, t.dsp .stopAll, (t.slot 0).overdue)) = some (true, true, true) := by decide +kernel
theorem test_wait_expired : left (.waitExpired 0) waitingFleet (fun t => ((t.slot 0).result, t.queue))
    = some (.waitExpired, []) := by decide +kernel
theorem test_scrubber_lost : left (.scrubberLost 0) lab (fun t => ((t.scrub 0).state, t.dsp .scrubberLost))
    = some (.lost, true) := by decide +kernel
theorem test_drying_ends :
    left (.dryingExpiry 2) (withSeg 2 { wet := some { expiry := 1000, count := 0 } }
        { lab with drying := [{ seg := 2, expiry := 1000, count := 0, cls := 0, check := false }] })
      (fun t => ((t.seg 2).wet, t.drying)) = some (none, []) := by decide +kernel
theorem test_sample_seeds :
    left (.sample 0 30) (withZone 0 {} lab) (fun t => ((t.zone 0).state, (t.zone 0).baseline, (t.zone 0).quietTimer))
      = some (.settling, 30, some 1100) := by decide +kernel
theorem test_sample_enters : left (.sample 1 21) lab (fun t => (t.zone 1).state) = some .present := by decide +kernel
theorem test_moisture_is_capped : left (.moistureFigureWrite 0 2000) lab (fun t => (t.zone 0).moisture)
    = some 1000 := by decide +kernel
theorem test_quiet_timer :
    left (.quietTimerExpiry 0) (withZone 0 { state := .settling, quietTimer := some 1000 } lab)
      (fun t => (t.zone 0).state) = some .quiet := by decide +kernel
theorem test_zone_stale :
    left (.zoneStale 0) (withZone 0 { state := .quiet, sampleTimer := some 1000 } lab)
      (fun t => ((t.zone 0).state, t.dsp .zoneStale)) = some (.stale, true) := by decide +kernel
theorem test_stuck_timer_reseeds :
    left (.stuckTimerExpiry 0) (withZone 0 { state := .present, filtered := 70, stuckTimer := some 1000 } lab)
      (fun t => ((t.zone 0).state, (t.zone 0).baseline)) = some (.settling, 70) := by decide +kernel
theorem test_halt_timer_reseeds :
    left (.haltTimerExpiry 0) (withZone 0 { state := .quiet, filtered := 70, haltTimer := some 1000 } lab)
      (fun t => ((t.zone 0).state, (t.zone 0).baseline)) = some (.settling, 70) := by decide +kernel

theorem test_unknown_code :
    left (.unknownCode .operations 4 (op 1 2 9)) lab (fun t => (t.opsResult, t.ops .commandRefused))
      = some ({ code := 4, tag := 9, outcome := .unknownCode }, true) := by decide +kernel
theorem test_ack_restart_enters_service :
    left (.ackRestart (op 0 0 9))
        (withScrub 1 { state := .withdrawn } { lab with mode := .recovery, ackRestart := false })
      (fun t => (t.mode, t.stopAll, (t.seg 2).wet.isSome)) = some (.service, false, true) := by decide +kernel
theorem test_withdraw :
    left (.withdraw (op 1 3 9)) lab (fun t => ((t.scrub 0).state, (t.scrub 0).parked, (t.seg 2).occupant, (t.seg 0).occupant))
      = some (.withdrawn, some 2, some 0, none) := by decide +kernel
theorem test_readmit :
    left (.readmit (op 1 0 9)) (withScrub 0 { state := .withdrawn } lab) (fun t => (t.scrub 0).state)
      = some .unheard := by decide +kernel
theorem test_clear_violation :
    left (.clearViolation (op 1 0 9)) (withScrub 0 { state := .heard, mark := true, flags := { stopped := true } } lab)
      (fun t => (t.scrub 0).mark) = some false := by decide +kernel
theorem test_close_segment :
    left (.closeSegment .operations (op 3 0 9)) (holding .active)
      (fun t => ((t.seg 2).closure.operations, (t.slot 0).endIx, (t.slot 0).state, (t.slot 0).pendingSet))
      = some (true, 2, .shortening, [3]) := by decide +kernel
theorem test_reopen_segment :
    left (.reopenSegment .dispatch (op 3 0 9)) (withSeg 2 { closure := { drying := true } } lab)
      (fun t => (t.seg 2).closure) = some {} := by decide +kernel
theorem test_close_zone :
    left (.closeZone (op 1 0 9)) lab (fun t => ((t.seg 0).closure.operations, (t.seg 1).closure.operations,
      (t.seg 2).closure.operations)) = some (true, true, false) := by decide +kernel
theorem test_reopen_zone :
    left (.reopenZone (op 2 0 9)) (withSeg 2 { closure := { dispatch := true } } lab) (fun t => (t.seg 2).closure)
      = some {} := by decide +kernel
theorem test_reseed_zone :
    left (.reseedZone .operations (op 2 0 9)) (withZone 1 { state := .present, filtered := 50 } lab)
      (fun t => ((t.zone 1).state, (t.zone 1).baseline)) = some (.quiet, 50) := by decide +kernel
theorem test_reset_notices :
    left (.resetNotices (op 0 0 9)) { lab with writeIx := 9, readIx := 5 }
      (fun t => (t.fill, t.staging.map (·.kind))) = some (0, [.noticesReset]) := by decide +kernel
theorem test_reload_site : left (.reloadSite (op 0 0 9) .free) lab (fun t => (t.mode, t.cause, t.dspResult.outcome))
    = some (.loading, .reload, .none) := by decide +kernel
theorem test_tuning_write :
    left (.tuningWrite 0 77) lab (·.reportTimeout) = some 77
      ∧ left (.tuningWrite 0 4) lab (·.reportTimeout) = some 30 := by decide +kernel
theorem test_attention_mask_write :
    left (.attentionMaskWrite .operations 0x3F) lab (fun t => (t.opsMask, t.opsAtn)) = some (0x1F, .high) := by
  decide +kernel
theorem test_gateway_attention_mask_write :
    left (.gatewayAttentionMaskWrite 0xFFF00001) (withSlot 0 { changed := true } lab) (fun t => (t.gwyMask, t.gwyAtn))
      = some (1, .low) := by decide +kernel
theorem test_clear_write_keeps_a_latched_flag :
    left (.clearWrite .dispatch 0xFFFF) { lab with mode := .recovery, dspFlags := 0x1003 } (·.dspFlags)
      = some 2 := by decide +kernel
theorem test_read_index_write :
    left (.noticeReadIndexWrite 7) { lab with writeIx := 7 } (·.fill) = some 0
      ∧ left (.noticeReadIndexWrite 8) { lab with writeIx := 7 } (·.answer) = some (some .refused) := by decide +kernel
theorem test_notice_words :
    left .noticePublish
        (State.noticeAdmission { lab with staging := [restartNotice .power], writeIx := 1023, readIx := 1023 })
      (fun t => (t.readWord 0xBFF, t.readWord 0x800, t.readWord 0x801, t.writeIx)) = some (0x3550, 0, 1, 2) := by
  decide +kernel
/-- The notice writer's grant of the port for a notice at the ring's start, to be published or not. -/
def granting (publish : Bool) : State :=
  { lab with
    held := if publish then some (restartNotice .power) else none, lastServed := .notice,
    noticeGrant := some { notice := restartNotice .power, start := 0, publish := publish } }

theorem test_notice_publish :
    left .noticePublish (granting true) (fun t => (t.writeIx, t.dsp .noticesPending, t.noticeGrant))
      = some (3, true, none) := by decide +kernel
theorem test_an_access_waits_for_the_notice_grant :
    left (.planBusAccess (goodRead .gateway 0x10000) []) (granting true) (fun t => (t.writeIx, t.lastServed))
      = some (3, .passage) := by decide +kernel
theorem test_a_report_is_judged_before_the_grant_ahead_ends :
    left (.report 0 0) { granting true with staging := List.replicate 15 (restartNotice .line) }
      (fun t => (t.dsp .noticeLost, t.staging.length, t.held, t.writeIx)) = some (true, 15, none, 3) := by decide +kernel
theorem test_the_mirror_writer_yields_to_a_held_notice :
    left .mirrorRecordWrite { granting true with noticeGrant := none, lastServed := .mirror, dirty := [.control .dspMask] }
      (·.dirty) = some [.control .dspMask] := by decide +kernel
theorem test_mirror_record_write :
    left .mirrorRecordWrite { lab with dirty := [.control .dspMask, .segView 1], lastWritten := 0x12 }
      (fun t => (t.dirty, t.readWord 0x402)) = some ([.control .dspMask], 0x20) := by decide +kernel

/-! ### States that meet the hypotheses of the statements, each clause at a value of its own -/

set_option synthInstance.maxSize 100000
set_option synthInstance.maxHeartbeats 2000000

/-- The wet fields and the drying list agree, in a form that evaluates. -/
theorem wetAgrees_iff (s : State) (g : SegIx) :
    s.wetAgrees g ↔ ((s.seg g).wet = none → ∀ e ∈ s.drying, e.seg ≠ g)
      ∧ ∀ w ∈ (s.seg g).wet, ∃ e ∈ s.drying, e.seg = g ∧ e.expiry = w.expiry ∧ e.count = w.count := by
  unfold State.wetAgrees
  cases (s.seg g).wet <;> simp

/-- An access with other data, direction or parity. -/
def burst (t : Tag) (a : BitVec 18) (x : Transfer) : Access := { goodRead t a with transfer := x }

def badWord : BusWord := { word0 with parity := ~~~word0.parity }

/-- One clean record short of the whole mirror. -/
def cutLab : State := { lab with dirty := [.segView 1] }

theorem meets_StepTakesTheFrontCommand :
    { lab with pending := [.flushEnd] }.pending = .flushEnd :: [] ∧ lab.pending = [] := by decide +kernel

theorem cut_lab_has_written_one_word :
    (cutLab.cutWords { access := some (goodRead .dispatch 0), port := .mirror 1 }).map Prod.fst = [0x402] := by
  decide +kernel

theorem meets_PowerAndLineRestart :
    (({ access := some (goodRead .dispatch 0), port := .mirror 1 } : InFlight).wf = true ∧ cutLab.memoryLaw)
    ∧ (∀ p ∈ cutLab.cutWords { access := some (goodRead .dispatch 0), port := .mirror 1 }, p.1 ≠ 0)
    ∧ ({ access := none, port := .free } : InFlight).port = .free := by
  refine ⟨by delta State.memoryLaw; decide +kernel, fun p h e => ?_, rfl⟩
  have := List.mem_map_of_mem (f := Prod.fst) h
  rw [cut_lab_has_written_one_word, e] at this
  exact absurd this (by decide)

theorem meets_LoadBegins_line :
    { lab with lineHeld := true }.lineHeld = true
      ∧ ({ lab with mode := .initialising }.mode = .initialising ∧ { lab with mode := .initialising }.dirty = [])
      ∧ lab.mode ≠ .initialising
      ∧ { cutLab with mode := .initialising }.dirty ≠ [] := by decide +kernel

theorem meets_LoadBegins_header :
    State.reset.mode = .loading ∧ State.reset.load = .header ∧ State.reset.lineHeld = false
      ∧ byteOf (image.set 3 0) 3 ≠ 0x49 ∧ byteOf (image.set 4 2) 4 ≠ 1 ∧ byteOf (image.set 5 0) 5 = 0
      ∧ 32 < byteOf (image.set 6 33) 6
      ∧ 256 * byteOf (image.set 9 0) 8 + byteOf (image.set 9 0) 9
          ≠ 114 + byteOf (image.set 9 0) 6 + 10 * byteOf (image.set 9 0) 5
      ∧ 256 * byteOf image 8 + byteOf image 9 = 114 + byteOf image 6 + 10 * byteOf image 5 := by decide +kernel

set_option maxRecDepth 1000000 in
theorem meets_SiteLoadEnds_refused :
    headerKept.mode = .loading ∧ headerKept.lineHeld = false ∧ headerKept.load = .body (image.take 24)
      ∧ imageFault (image.take 24 ++ takeBytes [] (114 + imageZ (image.take 24) + 10 * imageN (image.take 24) - 24))
          = some { reason := .checkValue, item := 0 } := by
  decide +kernel

set_option maxRecDepth 1000000 in
theorem meets_SiteLoadEnds_installed :
    imageFault (image.take 24
        ++ takeBytes (image.drop 24) (114 + imageZ (image.take 24) + 10 * imageN (image.take 24) - 24)) = none := by
  decide +kernel

/-- An image with its check value set right. -/
def sealed (b : List Byte) : List Byte :=
  b.take (imageLen b - 2)
    ++ [(crcOf (b.take (imageLen b - 2))).extractLsb' 8 8, (crcOf (b.take (imageLen b - 2))).extractLsb' 0 8]

/-- The image with other entries: profiles of the zones, and segments. -/
def imageOf (zs : List Nat) (gs : List (List Nat)) : List Byte :=
  sealed (((image.take 112).set 5 (BitVec.ofNat 8 gs.length)).set 6 (BitVec.ofNat 8 zs.length)
    ++ (zs ++ gs.flatten ++ [0, 0]).map (BitVec.ofNat 8))

/-- The parts of the image before its segments pass their checks. -/
abbrev headRight (b : List Byte) : Prop :=
  crcRight b ∧ byteOf b 7 ≤ 7 ∧ (∀ i, i < 5 → timingRight b i) ∧ (∀ i, i < 8 → classRight b i)
    ∧ (∀ i, i < 4 → profileRight b i) ∧ ∀ i, i < byteOf b 6 → zoneRight b i

set_option maxRecDepth 1000000 in
theorem meets_SiteLoadEnds_head :
    ¬ crcRight (image.set 10 1) ∧ (crcRight (sealed (image.set 7 8)) ∧ 7 < byteOf (sealed (image.set 7 8)) 7)
      ∧ (let b := sealed ((image.set 14 0).set 15 4)
         crcRight b ∧ byteOf b 7 ≤ 7 ∧ ¬ timingRight b 0)
      ∧ (let b := sealed ((image.set 22 1).set 23 0)
         crcRight b ∧ (∀ j, j < 4 → timingRight b j) ∧ ¬ timingRight b 4)
      ∧ (let b := sealed (image.set 38 181)
         crcRight b ∧ (∀ j, j < 7 → classRight b j) ∧ ¬ classRight b 7)
      ∧ (let b := sealed (image.set 105 16)
         crcRight b ∧ (∀ j, j < 3 → profileRight b j) ∧ ¬ profileRight b 3)
      ∧ (let b := imageOf [4, 5] [[0, 15, 0, 0, 0, 0, 0, 0, 0, 0]]
         crcRight b ∧ zoneRight b 0 ∧ ¬ zoneRight b 1) := by
  delta crcRight timingRight classRight profileRight zoneRight; decide +kernel

set_option maxRecDepth 1000000 in
theorem meets_SiteLoadEnds_segments :
    (let b := imageOf [4] [[2, 15, 0, 0, 0, 0, 0, 0, 0, 0]]
     headRight b ∧ ¬ segmentRight b 0 ∧ byteOf b 6 < segByte b 0 0)
      ∧ (let b := imageOf [] [[0, 8, 0, 0, 0, 0, 0, 0, 0, 0]]
         headRight b ∧ ¬ segmentRight b 0 ∧ 7 < segByte b 0 1 ∧ segByte b 0 1 ≠ 15)
      ∧ (let b := imageOf [] [[0, 7, 17, 0, 0, 0, 0, 0, 0, 0]]
         headRight b ∧ ¬ segmentRight b 0 ∧ 16 < segByte b 0 2)
      ∧ (let b := imageOf [] [[0, 7, 16, 7, 0, 0, 0, 0, 0, 0]]
         headRight b ∧ ¬ segmentRight b 0 ∧ 6 < segByte b 0 3)
      ∧ (let b := imageOf [] [[0, 7, 16, 1, 2, 0, 0, 0, 0, 0]]
         headRight b ∧ ¬ segmentRight b 0 ∧ byteOf b 5 < segByte b 0 4)
      ∧ (let b := imageOf [] [[0, 7, 16, 1, 2, 0, 0, 0, 0, 0], [0, 7, 0, 2, 1, 2, 0, 0, 0, 0]]
         headRight b ∧ segmentRight b 0 ∧ ¬ segmentRight b 1 ∧ neighbourRight b 1 0 ∧ segByte b 1 5 = 1 + 1)
      ∧ (let b := imageOf [] [[0, 7, 16, 2, 2, 2, 0, 0, 0, 0], [0, 7, 0, 1, 1, 0, 0, 0, 0, 0]]
         headRight b ∧ ¬ segmentRight b 0 ∧ neighbourRight b 0 0 ∧ segByte b 0 4 = segByte b 0 5)
      ∧ (let b := imageOf [] [[0, 7, 16, 1, 2, 0, 0, 0, 0, 0], [0, 7, 0, 0, 1, 0, 0, 0, 0, 0]]
         headRight b ∧ segmentRight b 0 ∧ segmentRight b 1 ∧ segByte b 0 3 = 1 ∧ segByte b 0 4 = 2 ∧ segByte b 1 3 = 0)
      ∧ (let b := imageOf [1] [[1, 7, 16, 1, 2, 0, 0, 0, 0, 0], [0, 15, 0, 1, 1, 0, 0, 0, 0, 0]]
         headRight b ∧ segmentRight b 0 ∧ segmentRight b 1
          ∧ segByte b (segByte b 0 4 - 1) 4 = 0 + 1 ∧ segByte b (segByte b 1 4 - 1) 4 = 1 + 1) := by
  delta headRight crcRight timingRight classRight profileRight zoneRight segmentRight neighbourRight; decide +kernel

theorem meets_TurnedAwayAccesses_notReady :
    State.reset.mode = .loading ∧ { lab with mode := .initialising }.mode = .initialising
      ∧ (Instr.planBusAccess (goodRead .dispatch 0) [0x40001]).busRow = true
      ∧ (Instr.noticeReadIndexWrite 0).busRow = true := by decide +kernel

/-- An image of two segments and a zone, whose first two timing values are 60 and the marker. -/
def timedImage : List Byte :=
  sealed ((imageOf [4] [[1, 7, 16, 1, 2, 0, 0, 0, 0, 0], [0, 15, 0, 1, 1, 0, 0, 0, 0, 0]]).set 14 0 |>.set 15 60)

set_option maxRecDepth 1000000 in
theorem meets_SiteModelFields :
    imageFault image = none ∧ imageFault timedImage = none
      ∧ (siteOf timedImage).timings.report = 60 ∧ (siteOf timedImage).timings.confirm = 50
      ∧ (siteOf timedImage).zones[0]? = some 3
      ∧ ((siteOf timedImage).segs[0]?).isSome = true ∧ ((siteOf timedImage).segs[1]?).isSome = true := by
  decide +kernel

theorem meets_SiteModelFields_force :
    State.reset.site = none ∧ lab.site = some labSite
      ∧ labSite.segs[(2 : SegIx).val]? = some { zone := some 1, cls := none, pinch := none, nbrs := [1] }
      ∧ labSite.zones[(1 : ZoneIx).val]? = some 1 ∧ lab.tuning[5] = 0
      ∧ ({ lab with tuning := (Vector.replicate 8 0).set 5 8 }.tuning[5]).toNat = (7 : ClassIx).val + 1
      ∧ { lab with tuning := (Vector.replicate 8 0).set 0 5 }.tuning[0] ≠ 0 := by decide +kernel

theorem meets_RecordWords :
    MirrorRec.control .refused ∈ allRecords ∧ lab.n < (255 : Fin 256).val ∧ lab.n < (4 : Fin 256).val
      ∧ (3 : Fin 256).val = (2 : SegIx).val + 1 ∧ (3 : Fin 256).val ≤ lab.n ∧ (lab.seg 2).wet = none
      ∧ ((withSeg 2 { wet := some { expiry := 7, count := 0 } } lab).seg 2).wet = some { expiry := 7, count := 0 } := by
  decide +kernel

theorem meets_TurnedAwayAccesses :
    lab.attends = true ∧ (goodRead .three 0).tag = .three
      ∧ addrParityOk (goodWrite .gateway 0 0) = true ∧ lab.allows (goodWrite .gateway 0 0) = false
      ∧ { lab with mode := .noSite }.attends = true
      ∧ { lab with mode := .noSite }.allows (goodWrite .operations (controlAddr .opsCommand) 0) = false
      ∧ (addrParityOk { goodRead .gateway 0xBFF with addrParity := !(goodRead .gateway 0xBFF).addrParity } = false
        ∧ isGeneral 0xBFF = false)
      ∧ (lab.allows (burst .gateway (cellAddr 0 0) (.write badWord [])) = true ∧ isGeneral (cellAddr 0 0) = false
        ∧ wordParityOk badWord = false) := by decide +kernel

theorem meets_WriteRights :
    lab.mode = .service ∧ placeOf 0x3FFFF = .general ∧ writePermitted lab .gateway .general 0
      ∧ ¬ writePermitted lab .three .general 0
      ∧ placeOf 0x19 = .control .readIx ∧ writePermitted { lab with writeIx := 1023 } .dispatch (.control .readIx) 1023
      ∧ ¬ writePermitted { lab with writeIx := 1023 } .dispatch (.control .readIx) 1024
      ∧ placeOf 0x20A = .slot 0 10 ∧ writePermitted lab .dispatch (.slot 0 10) 0
      ∧ ¬ writePermitted (holding .active) .dispatch (.slot 0 10) 0
      ∧ { lab with mode := .noSite }.mode = .noSite ∧ placeOf 4 = .control .dspCommand
      ∧ writePermitted { lab with mode := .noSite } .dispatch (.control .dspCommand) 0
      ∧ ¬ writePermitted { lab with mode := .noSite } .gateway (.control .dspCommand) 0
      ∧ placeOf 0x3F ≠ .general ∧ placeOf 0x3F ≠ .control .dspCommand := by
  simp only [writePermitted]; decide +kernel

/-- A sound word and one of bad parity, at the end of the address space. -/
def wrapWrite : Access := burst .gateway 0x3FFFF (.write word0 [badWord])

theorem meets_GeneralWrite :
    lab.memoryLaw ∧ lab.attends = true ∧ wrapWrite.tag ≠ .three ∧ wordParityOk badWord = false
      ∧ (burst .gateway 0x10000 (.write word0 [badWord])).wf = true
      ∧ wholeGeneral (burst .gateway 0x10000 (.write word0 [badWord])) = true ∧ wholeGeneral wrapWrite = false
      ∧ (word0 :: [badWord])[1]? = some badWord
      ∧ (0x10002 : BitVec 18) ∉ coveredAddrs (burst .gateway 0x10000 (.write word0 [badWord]))
      ∧ addrParityOk { goodRead .gateway 0x10000 with addrParity := !(goodRead .gateway 0x10000).addrParity } = false := by
  delta State.memoryLaw; decide +kernel

theorem meets_MemoryRead :
    lab.attends = true ∧ (burst .dispatch 0x10000 (.read 7)).tag ≠ .three
      ∧ wholeGeneral (burst .dispatch 0x10000 (.read 7)) = true
      ∧ (∀ i, i ≤ 7 → (lab.turn (lab.upset [])).wordBad (0x10000 + BitVec.ofNat 18 i) = false)
      ∧ ((lab.turn (lab.upset [0x40003])).wordBad (0x10000 + BitVec.ofNat 18 0) = true)
      ∧ ((lab.turn (lab.upset [0x4001F])).wordBad (0x10000 + BitVec.ofNat 18 7) = true
        ∧ ∀ i, i < 7 → (lab.turn (lab.upset [0x4001F])).wordBad (0x10000 + BitVec.ofNat 18 i) = false) := by
  decide +kernel

theorem meets_MemoryRead_plain :
    (placeOf 0xBFF = .ring 1023 ∧ plainWord lab .operations (.ring 1023))
      ∧ (placeOf 0x3F = .control .unassigned ∧ plainWord lab .dispatch (.control .unassigned))
      ∧ (placeOf (cellAddr 63 3) = .cell 63 3 ∧ plainWord lab .gateway (.cell 63 3))
      ∧ (placeOf (figureAddr 31 true) = .figure 31 true ∧ plainWord lab .gateway (.figure 31 true))
      ∧ (placeOf (slotAddr 23 10) = .slot 23 10 ∧ plainWord lab .dispatch (.slot 23 10))
      ∧ (plainWord (holding .granted) .gateway (.slot 0 0) ∧ plainWord (holding .granted) .gateway (.slot 0 3)
        ∧ ¬ plainWord (holding .granted) .gateway (.slot 0 4))
      ∧ addrParityOk (goodRead .gateway 0xBFF) = true ∧ isWrite (goodRead .gateway 0xBFF).transfer = false
      ∧ lab.awaitPort.wordBad 0xBFF = false ∧ (lab.upset [0x2FFC]).awaitPort.wordBad 0xBFF = true := by
  simp only [plainWord]; decide +kernel

theorem meets_CutBurst :
    wholeGeneral (burst .dispatch 0x1FF (.read 1)) = false ∧ lab.mode ≠ .noSite
      ∧ { lab with mode := .noSite }.mode = .noSite
      ∧ placeOf (burst .dispatch 4 (.write word0 [word0])).addr = .control .dspCommand
      ∧ isWrite (burst .dispatch 4 (.write word0 [word0])).transfer = true
      ∧ 0 < moreWords (burst .dispatch 4 (.write word0 [word0])).transfer
      ∧ addrParityOk (burst .dispatch 4 (.write word0 [word0])) = true
      ∧ wholeGeneral (burst .dispatch 4 (.write word0 [word0])) = false := by decide +kernel

theorem meets_MirrorReads :
    cutLab.attends = true ∧ (goodRead .gateway 0x402).tag ≠ .three ∧ addrParityOk (goodRead .gateway 0x402) = true
      ∧ isWrite (goodRead .gateway 0x402).transfer = false
      ∧ recordAt (placeOf (goodRead .gateway 0x402).addr) = some (.segView 1)
      ∧ cutLab.shutTo .gateway (placeOf 0x402) = false ∧ MirrorRec.segView 1 ∈ cutLab.dirty
      ∧ (MirrorRec.segView 1 ∉ lab.dirty ∧ (lab.upset []).awaitPort.wordBad 0x402 = false)
      ∧ (MirrorRec.segView 1 ∉ lab.dirty ∧ (lab.upset [0x1008]).awaitPort.wordBad 0x402 = true) := by decide +kernel

/-- A gate of slot k that is closed to the gateway at word w. -/
abbrev gateShut (s : State) (k : SlotIx) (w : Fin 16) : Prop :=
  ¬ (k.val < 20 ∧ ((s.slot k).state = .granted ∨ (s.slot k).state = .delivered ∨ (s.slot k).state = .active
      ∨ (s.slot k).state = .shortening) ∧ (1 ≤ w.val → w.val ≤ 10 → w.val ≤ (s.slot k).endIx))

theorem meets_ClosedGateReadsZero :
    lab.attends = true ∧ addrParityOk (goodRead .gateway (slotAddr 0 4)) = true
      ∧ gateShut (holding .granted) 0 4 ∧ ¬ gateShut (holding .granted) 0 3 ∧ gateShut lab 0 13 ∧ gateShut lab 20 0
      ∧ (goodRead .gateway (slotAddr 23 15)).addr = slotAddr 23 15 := by decide +kernel

theorem meets_HandoverReads_others :
    lab.attends = true ∧ (goodRead .operations (slotAddr 23 13)).tag = .operations
      ∧ addrParityOk (goodRead .operations (slotAddr 23 13)) = true
      ∧ isWrite (goodRead .operations (slotAddr 23 13)).transfer = false := by decide +kernel

theorem meets_HandoverReads_gateway :
    (holding .granted).attends = true ∧ ((holding .granted).slot (fleetSlot 0)).state = .granted
      ∧ ((holding .shortening).slot (fleetSlot 0)).state.sent = true
      ∧ ((holding .shortening).slot (fleetSlot 0)).state ≠ .granted
      ∧ (lab.slot (fleetSlot 19)).state = .idle ∧ (waitingFleet.slot (fleetSlot 0)).state = .waiting := by
  decide +kernel

theorem meets_HandoverReads_summary :
    ((19 : SlotIx).val < 20 ∧ (heldSlot .delivered).state.authority = true)
      ∧ (20 ≤ (20 : SlotIx).val ∧ (heldSlot .active).state = .active)
      ∧ (((0 : SlotIx).val < 20 → waitingSlot.state.authority = false) ∧ (20 ≤ (0 : SlotIx).val → waitingSlot.state ≠ .active))
      ∧ ((20 : SlotIx).val < 20 → waitingSlot.state.authority = false) := by decide +kernel

theorem meets_PortInTurn :
    ((granting true).noticeGrant ≠ none ∧ lab.noticeGrant = none)
      ∧ ({ cutLab with lastServed := .passage }.lastServed = .passage ∧ mirrorAsks { cutLab with lastServed := .passage })
      ∧ (let s : State := { lab with held := some (restartNotice .power), lastServed := .passage }
         s.held = some (restartNotice .power) ∧ ¬ mirrorAsks s ∧ noticeComesNext s ∧ s.lastServed ≠ .notice)
      ∧ (let s : State := { cutLab with held := some (restartNotice .power), lastServed := .mirror }
         noticeComesNext s ∧ mirrorAsks s ∧ s.lastServed ≠ .notice)
      ∧ ¬ noticeComesNext { cutLab with held := some (restartNotice .power), lastServed := .notice }
      ∧ (lab.attends = true ∧ wholeGeneral (burst .dispatch 0x10000 (.read 7)) = true
        ∧ addrParityOk (burst .dispatch 0x10000 (.read 7)) = true
        ∧ (wholeGeneral (burst .dispatch 0x10000 (.write word0 [word0])) = true
          ∧ ∀ d ∈ transferData (burst .dispatch 0x10000 (.write word0 [word0])).transfer, wordParityOk d = true))
      ∧ (granting true).memoryLaw
      ∧ ((granting true).mode = .service ∧ ((granting true).slot 0).state = .idle) := by
  delta noticeComesNext mirrorAsks State.memoryLaw; decide +kernel

theorem meets_AttentionLines :
    State.reset.mode = .loading ∧ ({ lab with site := none }.mode ≠ .loading ∧ { lab with site := none }.site = none)
      ∧ (lab.mode ≠ .loading ∧ lab.site = some labSite ∧ labSite.dspPolarity = .activeLowOpenDrain
        ∧ labSite.opsPolarity = .activeHighDriven)
      ∧ (lab.dsp .restarted = true ∧ lab.dspMask.getLsbD (DspFlag.place .restarted) = true
        ∧ { lab with dspFlags := 0 }.dspFlags = 0)
      ∧ (lab.ops .restarted = true ∧ lab.opsMask.getLsbD (OpsFlag.place .restarted) = true
        ∧ { lab with opsFlags := 0 }.opsFlags = 0)
      ∧ ((withSlot 19 { changed := true } lab).slot (fleetSlot 19)).changed = true
      ∧ (withSlot 19 { changed := true } lab).gwyMask.getLsbD 19 = true := by
  decide +kernel

theorem meets_ClockAndSubstitutedReads_mode :
    (goodRead .operations (controlAddr .mode)).tag ≠ .three
      ∧ addrParityOk (goodRead .operations (controlAddr .mode)) = true
      ∧ isWrite (goodRead .operations (controlAddr .mode)).transfer = false ∧ lab.mode = .service
      ∧ { lab with mode := .recovery }.mode = .recovery ∧ { lab with mode := .noSite }.mode = .noSite
      ∧ State.reset.mode = .loading ∧ { lab with mode := .initialising }.mode = .initialising := by decide +kernel

theorem meets_ClockAndSubstitutedReads_clock :
    lab.lineHeld = false ∧ lab.attends = true
      ∧ addrParityOk (goodRead .gateway (controlAddr .clock)) = true
      ∧ addrParityOk (goodRead .gateway (controlAddr .changedSlots)) = true := by decide +kernel

theorem meets_CellAndMoistureWrites :
    lab.memoryLaw ∧ lab.mode = .service ∧ (1 : ZoneIx).val < lab.z ∧ ¬ (2 : ZoneIx).val < lab.z := by
  delta State.memoryLaw; decide +kernel

theorem meets_SlotDraftWrite :
    lab.memoryLaw ∧ lab.mode = .service ∧ (lab.slot 23).state = .idle ∧ ((holding .active).slot 0).state ≠ .idle
      ∧ (holding .active).memoryLaw := by
  delta State.memoryLaw; decide +kernel

/-- The labs of the zone statements: zone 1 (quiet time 10, debounces 2) and zone 2 (quiet time 0, debounces 1). -/
abbrev zoned (z : ZoneIx) (x : ZoneState) (n : Nat) (r : ReturnState) : State :=
  withZone z { state := x, debounce := n, ret := r, quietTimer := some 1000, stuckTimer := some 1000,
               haltTimer := some 1000, sampleTimer := some 1000 } lab

theorem meets_SampleSeedsOrRevives :
    lab.memoryLaw ∧ lab.mode = .service ∧ lab.z ≤ (2 : ZoneIx).val
      ∧ ((0 : ZoneIx).val < (zoned 0 .unseeded 0 .quiet).z ∧ ((zoned 0 .unseeded 0 .quiet).zone 0).state = .unseeded
        ∧ ((zoned 0 .unseeded 0 .quiet).profile 0).quietTime ≠ 0)
      ∧ (((zoned 0 .stale 0 .quiet).zone 0).state = .stale ∧ ((zoned 0 .stale 0 .quiet).profile 0).quietTime ≠ 0)
      ∧ ((1 : ZoneIx).val < (zoned 1 .stale 0 .quiet).z ∧ ((zoned 1 .stale 0 .quiet).zone 1).state = .stale
        ∧ ((zoned 1 .stale 0 .quiet).profile 1).quietTime = 0)
      ∧ (((zoned 1 .unseeded 0 .quiet).zone 1).state = .unseeded
        ∧ ((zoned 1 .unseeded 0 .quiet).profile 1).quietTime = 0) := by
  delta State.memoryLaw; decide +kernel

theorem meets_SampleArithmetic :
    lab.memoryLaw ∧ lab.mode = .service ∧ (1 : ZoneIx).val < lab.z ∧ seededState (lab.zone 1).state
      ∧ sampleDelta (withZone 1 { state := .quiet, baseline := 100 } lab) 1 59
          < -(((withZone 1 { state := .quiet, baseline := 100 } lab).profile 1).fastBound : Int)
      ∧ ¬ sampleDelta (withZone 1 { state := .quiet, baseline := 100 } lab) 1 60
          < -(((withZone 1 { state := .quiet, baseline := 100 } lab).profile 1).fastBound : Int)
      ∧ sampleDelta lab 1 59 < ((lab.profile 1).halt : Int) ∧ ¬ sampleDelta lab 1 60 < ((lab.profile 1).halt : Int) := by
  delta State.memoryLaw seededState; decide +kernel

theorem meets_SampleJudgement :
    lab.memoryLaw ∧ lab.mode = .service ∧ (0 : ZoneIx).val < lab.z
      ∧ ((lab.zone 0).state = .quiet ∧ ¬ sampleExceeds lab 0 20)
      ∧ ((lab.zone 0).state = .quiet ∧ sampleExceeds lab 0 21 ∧ (lab.profile 0).debounceIn ≠ 1)
      ∧ (((zoned 0 .entering 1 .quiet).zone 0).state = .entering ∧ ¬ sampleExceeds (zoned 0 .entering 1 .quiet) 0 20)
      ∧ (((zoned 0 .entering 0 .quiet).zone 0).state = .entering ∧ sampleExceeds (zoned 0 .entering 0 .quiet) 0 21
        ∧ ((zoned 0 .entering 0 .quiet).zone 0).debounce + 1 < ((zoned 0 .entering 0 .quiet).profile 0).debounceIn)
      ∧ (((zoned 1 .settling 0 .quiet).zone 1).state = .settling
        ∧ ((zoned 1 .settling 0 .quiet).profile 1).debounceIn = 1 ∧ sampleExceeds (zoned 1 .settling 0 .quiet) 1 21)
      ∧ (((zoned 0 .entering 1 .quiet).zone 0).state = .entering
        ∧ ((zoned 0 .entering 1 .quiet).profile 0).debounceIn ≤ ((zoned 0 .entering 1 .quiet).zone 0).debounce + 1
        ∧ sampleExceeds (zoned 0 .entering 1 .quiet) 0 21) := by
  delta State.memoryLaw sampleExceeds; decide +kernel

theorem meets_SampleJudgement_leaving :
    (((zoned 0 .present 0 .quiet).zone 0).state = .present ∧ ¬ sampleLeaves (zoned 0 .present 0 .quiet) 0 15)
      ∧ (((zoned 0 .present 0 .quiet).zone 0).state = .present ∧ sampleLeaves (zoned 0 .present 0 .quiet) 0 14
        ∧ ((zoned 0 .present 0 .quiet).profile 0).debounceOut ≠ 1)
      ∧ (((zoned 0 .leaving 1 .quiet).zone 0).state = .leaving ∧ ¬ sampleLeaves (zoned 0 .leaving 1 .quiet) 0 15)
      ∧ (((zoned 0 .leaving 0 .quiet).zone 0).state = .leaving ∧ sampleLeaves (zoned 0 .leaving 0 .quiet) 0 14
        ∧ ((zoned 0 .leaving 0 .quiet).zone 0).debounce + 1 < ((zoned 0 .leaving 0 .quiet).profile 0).debounceOut)
      ∧ (((zoned 1 .present 0 .quiet).zone 1).state = .present
        ∧ ((zoned 1 .present 0 .quiet).profile 1).debounceOut = 1 ∧ sampleLeaves (zoned 1 .present 0 .quiet) 1 14)
      ∧ (((zoned 0 .leaving 1 .quiet).zone 0).state = .leaving
        ∧ ((zoned 0 .leaving 1 .quiet).profile 0).debounceOut ≤ ((zoned 0 .leaving 1 .quiet).zone 0).debounce + 1
        ∧ sampleLeaves (zoned 0 .leaving 1 .quiet) 0 14) := by
  delta sampleLeaves; decide +kernel

/-- Slot 1 ACTIVE over segments 1 to 3, and zone 1 or 2 about to turn PRESENT. -/
def aboutToEnter : State := withZone 0 { state := .entering, debounce := 1 } (holding .active)

theorem meets_PresentZoneEffects :
    aboutToEnter.memoryLaw ∧ aboutToEnter.mode = .service ∧ (0 : ZoneIx).val < aboutToEnter.z
      ∧ sampleEnters aboutToEnter 0 100 ∧ sampleEnters aboutToEnter 1 100
      ∧ (scrubAuthority aboutToEnter 0 ∧ slotStandsIn aboutToEnter 0 0) ∧ ¬ scrubAuthority aboutToEnter 1
      ∧ (scrubAuthority aboutToEnter 0 ∧ ¬ slotStandsIn aboutToEnter 0 1
        ∧ ((2, 3) : SegIx × Nat) ∈ (aboutToEnter.slot 0).entries ∧ (aboutToEnter.slot 0).progress < 3
        ∧ 3 ≤ (aboutToEnter.slot 0).endIx ∧ (aboutToEnter.fixed 2).zone = some 1
        ∧ ∀ e ∈ (aboutToEnter.slot 0).entries, (aboutToEnter.slot 0).progress < e.2 → e.2 < 3 →
            (aboutToEnter.fixed e.1).zone ≠ some 1)
      ∧ (scrubAuthority (withSlot 0 { heldSlot .active with endIx := 2 } aboutToEnter) 0
        ∧ ¬ slotStandsIn (withSlot 0 { heldSlot .active with endIx := 2 } aboutToEnter) 0 1
        ∧ ∀ e ∈ (heldSlot .active).entries, 1 < e.2 → e.2 ≤ 2 → (aboutToEnter.fixed e.1).zone ≠ some 1) := by
  delta State.memoryLaw sampleEnters sampleExceeds scrubAuthority slotStandsIn; decide +kernel

theorem meets_ZoneTimerExpiries :
    (((zoned 0 .settling 0 .quiet).zone 0).quietTimer = some (zoned 0 .settling 0 .quiet).clock
        ∧ ((zoned 0 .settling 0 .quiet).zone 0).state = .settling)
      ∧ (((zoned 0 .entering 0 .settling).zone 0).quietTimer = some (zoned 0 .entering 0 .settling).clock
        ∧ ((zoned 0 .entering 0 .settling).zone 0).state ≠ .settling)
      ∧ ((zoned 0 .quiet 0 .quiet).zone 0).sampleTimer = some (zoned 0 .quiet 0 .quiet).clock
      ∧ ((zoned 0 .present 0 .quiet).zone 0).stuckTimer = some (zoned 0 .present 0 .quiet).clock
      ∧ ((zoned 1 .quiet 0 .quiet).zone 1).haltTimer = some (zoned 1 .quiet 0 .quiet).clock
      ∧ ((zoned 0 .present 0 .quiet).profile 0).quietTime ≠ 0 ∧ ((zoned 1 .quiet 0 .quiet).profile 1).quietTime = 0
      ∧ (lab.zone 0).quietTimer ≠ some lab.clock ∧ (lab.zone 0).sampleTimer ≠ some lab.clock
      ∧ (lab.zone 0).stuckTimer ≠ some lab.clock ∧ (lab.zone 0).haltTimer ≠ some lab.clock := by decide +kernel

/-- Segment 3 wet, its entry about to expire with a count and a check bit, its zone's moisture figure m. -/
abbrev drier (n : Nat) (chk : Bool) (m : Nat) : State :=
  withZone 1 { state := .quiet, moisture := m } (withSeg 2 { wet := some { expiry := 1000, count := n } }
    { lab with drying := [{ seg := 2, expiry := 1000, count := n, cls := 0, check := chk }] })

abbrev drierEntry (n : Nat) (chk : Bool) : DryEntry := { seg := 2, expiry := 1000, count := n, cls := 0, check := chk }

theorem meets_DryingExpiry :
    (∀ e ∈ lab.drying, e.seg = 0 → e.expiry ≠ lab.clock)
      ∧ ((drier 0 true 500).dryingLaw ∧ (drier 0 true 500).idleLaw
        ∧ drierEntry 0 true ∈ (drier 0 true 500).drying ∧ entryDries (drier 0 true 500) (drierEntry 0 true))
      ∧ (entryDries (drier 0 false 501) (drierEntry 0 false))
      ∧ ((drier 3 true 501).dryingLaw ∧ (drier 3 true 501).idleLaw
        ∧ drierEntry 3 true ∈ (drier 3 true 501).drying ∧ ¬ entryDries (drier 3 true 501) (drierEntry 3 true))
      ∧ ((drier 4 true 501).dryingLaw ∧ (drier 4 true 501).idleLaw
        ∧ drierEntry 4 true ∈ (drier 4 true 501).drying ∧ ¬ entryDries (drier 4 true 501) (drierEntry 4 true)) := by
  simp only [State.dryingLaw, State.idleLaw, entryDries, wetAgrees_iff]; decide +kernel

theorem meets_LostAndOverdue_lost :
    ((lab.scrub 0).state = .heard ∧ (lab.scrub 0).timer = some lab.clock)
      ∧ ¬ ((lab.scrub 1).state = .heard ∧ (lab.scrub 1).timer = some lab.clock)
      ∧ ((withSlot 0 { heldSlot .delivered with confirmTimer := some 1000 } lab).slot (fleetSlot 0)).confirmTimer
          = some (withSlot 0 { heldSlot .delivered with confirmTimer := some 1000 } lab).clock
      ∧ (lab.slot (fleetSlot 0)).confirmTimer ≠ some lab.clock := by decide +kernel

theorem meets_LostAndOverdue_shorten :
    ((withSlot 0 { heldSlot .shortening with shortenTimer := some 1000, overdue := true } lab).slot (fleetSlot 0)).shortenTimer
        = some (withSlot 0 { heldSlot .shortening with shortenTimer := some 1000, overdue := true } lab).clock
      ∧ (lab.slot (fleetSlot 0)).shortenTimer ≠ some lab.clock := by decide +kernel

theorem meets_WaitExpired :
    ((waitingFleet.slot 0).state = .waiting ∧ (waitingFleet.slot 0).deadline = some waitingFleet.clock)
      ∧ ((waitingPassenger.slot 20).state = .waiting
        ∧ (waitingPassenger.slot 20).deadline = some waitingPassenger.clock)
      ∧ ¬ ((lab.slot 0).state = .waiting ∧ (lab.slot 0).deadline = some lab.clock) := by decide +kernel

/-- A state with a report in cell 0: scrubber, current and trailing segment, slot, revision. -/
abbrev told (a b c d e : Nat) (s : State) : State :=
  withCell 0 { word0 := some (pack4 a 0 0 0), word1 := some (pack4 b c 0 0), word2 := some (pack4 d e 0 0) } s

/-- The report of cell 0. -/
abbrev saidOf (s : State) (v : Word) : Option (ScrubIx × Position) := s.validReport (reportOf (s.cell 0) v)

theorem meets_ValidAndDiscardedReports :
    lab.memoryLaw ∧ lab.mode = .service
      ∧ saidOf (told 1 1 0 0 0 lab) 0 = some (0, { current := 0, trailing := none })
      ∧ saidOf (told 1 3 2 0 0 lab) 0 = some (0, { current := 2, trailing := some 1 })
      ∧ saidOf (told 1 3 1 0 0 lab) 0 = none ∧ saidOf (told 1 4 0 0 0 lab) 0 = none
      ∧ saidOf (told 2 1 0 0 0 lab) 0 = none ∧ saidOf (told 0 1 0 0 0 lab) 0 = none
      ∧ (saidOf (told 1 1 0 0 0 (withScrub 0 { state := .withdrawn } lab)) 0
            = some (0, { current := 0, trailing := none })
        ∧ ((withScrub 0 { state := .withdrawn } lab).scrub 0).state = .withdrawn) := by
  delta State.memoryLaw; decide +kernel

theorem meets_ProcessedReport :
    (told 1 2 1 0 0 lab).memoryLaw ∧ (told 1 2 1 0 0 lab).mode = .service
      ∧ saidOf (told 1 2 1 0 0 lab) 0 = some (0, { current := 1, trailing := some 0 })
      ∧ ((told 1 2 1 0 0 lab).scrub 0).state ≠ .withdrawn := by
  delta State.memoryLaw; decide +kernel

theorem meets_ReportProgressAndReleases :
    (let s := told 1 2 0 1 4 (holding .delivered)
     let q := (s.slot 0).walked { current := 1, trailing := none } true
     s.memoryLaw ∧ s.routeLaw ∧ s.mode = .service ∧ saidOf s 1 = some (0, { current := 1, trailing := none })
      ∧ (s.scrub 0).state ≠ .withdrawn
      ∧ (s.scrub 0).liveSlot = some 0 ∧ (s.slot (fleetSlot 0)).state.sent = true
      ∧ (s.slot (fleetSlot 0)).route.Nodup
      ∧ (s.slot (fleetSlot 0)).evidence.length = (s.slot (fleetSlot 0)).route.length
      ∧ q.progress = 2 ∧ q.evidence = [.none, .seenScrubbing, .none] ∧ q.state.sent = true
      ∧ ((0, 1) : SegIx × Nat) ∈ (s.slot 0).entries ∧ (s.seg 0).holder = some 0 ∧ wetChosen 0 q 1
      ∧ ((2, 3) : SegIx × Nat) ∈ (s.slot 0).entries ∧ (s.seg 2).holder = some 0 ∧ ¬ wetChosen 0 q 3
      ∧ 3 ∉ (s.slot 0).pendingSet
      ∧ ¬ violatingAt s 0 { current := 1, trailing := none }) := by
  delta State.memoryLaw State.routeLaw wetChosen violatingAt violatedBy allowedFor; decide +kernel

/-- Slot 2 GRANTED to scrubber 2 over segment 3 alone, ahead of it from the progress index p. -/
def otherHolder (p : Nat) : State :=
  withSlot 1 { heldSlot .granted with scrubber := some 1, route := [2], evidence := [.none], endIx := 1, progress := p }
    (withSeg 2 { holder := some 1 } lab)

theorem meets_ReportViolations :
    (lab.mode = .service ∧ saidOf (told 1 2 1 0 0 lab) 0 = some (0, { current := 1, trailing := some 0 })
        ∧ (lab.scrub 0).state ≠ .withdrawn ∧ violatingAt (told 1 2 1 0 0 lab) 0 { current := 1, trailing := some 0 }
        ∧ (lab.scrub 0).mark = false ∧ (told 1 2 1 0 0 lab).stopAll = false
        ∧ violatedHere (told 1 2 1 0 0 lab) 0 { current := 1, trailing := some 0 } 1)
      ∧ (saidOf (told 1 1 2 0 0 lab) 0 = some (0, { current := 0, trailing := some 1 })
        ∧ violatedHere (told 1 1 2 0 0 lab) 0 { current := 0, trailing := some 1 } 1
        ∧ ¬ violatedBy (told 1 1 2 0 0 lab) 0 0)
      ∧ (saidOf (told 1 1 0 0 0 lab) 0 = some (0, { current := 0, trailing := none })
        ∧ ¬ violatingAt (told 1 1 0 0 0 lab) 0 { current := 0, trailing := none })
      ∧ ((withScrub 0 { state := .heard, mark := true } lab).scrub 0).mark = true
      ∧ (let s := told 1 2 0 0 0 (holding .granted)
         saidOf s 0 = some (0, { current := 1, trailing := none }) ∧ violatingAt s 0 { current := 1, trailing := none }
          ∧ (s.scrub 0).liveSlot = some 0 ∧ (s.slot (fleetSlot 0)).state = .granted
          ∧ (s.slot (fleetSlot 0)).progress < (s.slot (fleetSlot 0)).endIx)
      ∧ (let s := told 1 2 0 1 5 (withSeg 1 { holder := some 0, occupant := some 1 } (holding .delivered))
         saidOf s 0 = some (0, { current := 1, trailing := none }) ∧ violatingAt s 0 { current := 1, trailing := none }
          ∧ (s.slot (fleetSlot 0)).state.sent = true
          ∧ progressAfter (s.slot (fleetSlot 0)) 1 < (s.slot (fleetSlot 0)).endIx
          ∧ (reportOf (s.cell 0) 0).slot ≠ 0
          ∧ (reportOf (s.cell 0) 0).revision ≠ nextRevision (s.slot (fleetSlot 0)).revision)
      ∧ (let s := told 1 3 0 0 0 (otherHolder 0)
         violatedHere s 0 { current := 2, trailing := none } 2 ∧ holdsAhead s 1 2 1
          ∧ (s.slot 1).state.authority = true ∧ (s.scrub 0).liveSlot = none)
      ∧ (let s := told 1 3 0 0 0 (otherHolder 1)
         violatedHere s 0 { current := 2, trailing := none } 2 ∧ (s.seg 2).holder = some 1
          ∧ ((2, 1) : SegIx × Nat) ∈ (s.slot 1).entries ∧ 1 ≤ (s.slot 1).progress) := by
  delta violatedHere violatingAt violatedBy allowedFor holdsAhead; decide +kernel

/-- The hypotheses of ReportConfirms for the report (1, 2, 1, 1, r) in a state. -/
abbrev confirming (s : State) (v : Word) : Prop :=
  s.mode = .service ∧ saidOf s v = some (0, { current := 1, trailing := some 0 }) ∧ (s.scrub 0).state ≠ .withdrawn
    ∧ ¬ violatingAt s 0 { current := 1, trailing := some 0 } ∧ (s.scrub 0).liveSlot = some 0
    ∧ (reportOf (s.cell 0) v).slot.toNat = 1
    ∧ ¬ completesAt (s.slot (fleetSlot 0)) { current := 1, trailing := some 0 } (reportFlagsOf v)

/-- Slot 1 SHORTENING to segments 1 and 2, segment 3 pending. -/
def shortenedLab : State := withSlot 0 { heldSlot .shortening with endIx := 2, pendingSet := [3] } (holding .shortening)

theorem meets_ReportConfirms :
    (confirming (told 1 2 1 1 5 (holding .delivered)) 2
        ∧ ((holding .delivered).slot (fleetSlot 0)).state = .delivered
        ∧ (reportOf ((told 1 2 1 1 5 (holding .delivered)).cell 0) 2).revision
            = ((holding .delivered).slot (fleetSlot 0)).revision)
      ∧ (confirming (told 1 2 1 1 5 shortenedLab) 2 ∧ (shortenedLab.slot (fleetSlot 0)).state = .shortening
        ∧ (reportOf ((told 1 2 1 1 5 shortenedLab).cell 0) 2).revision = (shortenedLab.slot (fleetSlot 0)).revision
        ∧ (∀ e ∈ (shortenedLab.slot (fleetSlot 0)).entries, e.1 = 1 → e.2 ≤ (shortenedLab.slot (fleetSlot 0)).endIx)
        ∧ ((2, 3) : SegIx × Nat) ∈ (shortenedLab.slot (fleetSlot 0)).entries)
      ∧ (confirming (told 1 2 1 1 4 (holding .active)) 2 ∧ ((holding .active).slot (fleetSlot 0)).state.sent = true
        ∧ (reportOf ((told 1 2 1 1 4 (holding .active)).cell 0) 2).revision
            ≠ ((holding .active).slot (fleetSlot 0)).revision)
      ∧ (confirming (told 1 2 1 1 5 (holding .active)) 6 ∧ ((holding .active).slot (fleetSlot 0)).state = .active) := by
  delta confirming completesAt violatingAt violatedBy allowedFor; decide +kernel

/-- The hypotheses of ReportEndsSlots for a report of one segment, of slot 1 or of none, in a state. -/
abbrev ending (s : State) (v : Word) (g : SegIx) (slot : Byte) : Prop :=
  s.mode = .service ∧ saidOf s v = some (0, { current := g, trailing := none }) ∧ (s.scrub 0).state ≠ .withdrawn
    ∧ (s.scrub 0).liveSlot = some 0 ∧ (s.slot (fleetSlot 0)).scrubber = some 0 ∧ (reportOf (s.cell 0) v).slot = slot
    ∧ (slot = 1 → (reportOf (s.cell 0) v).revision = (s.slot (fleetSlot 0)).revision)

theorem meets_ReportEndsSlots :
    (ending (told 1 2 0 0 5 (holding .shortening)) 2 1 0
        ∧ ((holding .shortening).slot (fleetSlot 0)).state.sent = true)
      ∧ (ending (told 1 3 0 2 5 (holding .active)) 6 2 2 ∧ ((holding .active).slot (fleetSlot 0)).state = .active
        ∧ ¬ violatingAt (told 1 3 0 2 5 (holding .active)) 0 { current := 2, trailing := none }
        ∧ completesAt ((holding .active).slot (fleetSlot 0)) { current := 2, trailing := none } (reportFlagsOf 6))
      ∧ (ending (told 1 3 0 1 5 (holding .delivered)) 6 2 1
        ∧ ((holding .delivered).slot (fleetSlot 0)).state = .delivered
        ∧ ((holding .delivered).slot (fleetSlot 0)).route.Nodup
        ∧ ¬ violatingAt (told 1 3 0 1 5 (holding .delivered)) 0 { current := 2, trailing := none }
        ∧ completesAt ((holding .delivered).slot (fleetSlot 0)) { current := 2, trailing := none } (reportFlagsOf 6))
      ∧ (ending (told 1 2 0 1 5 shortenedLab) 6 1 1 ∧ (shortenedLab.slot (fleetSlot 0)).state = .shortening
        ∧ (∀ e ∈ (shortenedLab.slot (fleetSlot 0)).entries, e.1 = 1 → e.2 ≤ (shortenedLab.slot (fleetSlot 0)).endIx)
        ∧ completesAt (shortenedLab.slot (fleetSlot 0)) { current := 1, trailing := none } (reportFlagsOf 6))
      ∧ (ending (told 1 3 0 1 5 shortenedLab) 0 2 1 ∧ (shortenedLab.slot (fleetSlot 0)).route.Nodup
        ∧ ((2, 3) : SegIx × Nat) ∈ (shortenedLab.slot (fleetSlot 0)).entries
        ∧ (shortenedLab.slot (fleetSlot 0)).endIx < 3 ∧ 3 ∈ (shortenedLab.slot (fleetSlot 0)).pendingSet) := by
  delta ending completesAt violatingAt violatedBy allowedFor; decide +kernel

theorem meets_CommitRefused :
    { lab with mode := .recovery }.mode = .recovery
      ∧ (lab.mode = .service ∧ ((holding .granted).slot 0).state ≠ .idle)
      ∧ ((lab.slot 1).state = .idle ∧ lab.structuralFleet 1 = .error (.format, 0))
      ∧ ((lab.slot 21).state = .idle ∧ lab.structuralPassenger 21 = some (.format, 0))
      ∧ ((0 : Word) ≠ 1 ∧ (3 : Word) ≠ 2 ∧ lab.mode = .service ∧ (lab.slot 0).state = .idle) := by decide +kernel

theorem meets_FleetStructuralPass :
    lab.n ≤ 255 ∧ lab.structuralFleet 0 = .ok (0, .scrub) ∧ lab.structuralFleet 1 ≠ .ok (0, .scrub) := by
  decide +kernel

/-- A state with another draft in slot 1: scrubber, mode and route of three values. -/
abbrev drafted (x m : Byte) (a b c : Word) (s : State) : State :=
  withSlot 0 { draft := { scrubber := x, mode := m, length := 3, route := #v[a, b, c, 9, 9, 9, 9, 9, 9, 9] } } s

/-- The draft of slot 1 passes the FORMAT check for a scrubber and a mode. -/
abbrev formed (s : State) (x : ScrubIx) (m : AuthMode) : Prop :=
  s.n ≤ 255 ∧ (s.slot 0).draft.scrubber.toNat = x.val + 1 ∧ (s.slot 0).draft.mode.toNat = m.code
    ∧ (1 ≤ (s.slot 0).draft.length.toNat ∧ (s.slot 0).draft.length.toNat ≤ 10)
    ∧ ∀ i : Fin 10, i.val < (s.slot 0).draft.length.toNat → ¬ valueOutOfRange s ((s.slot 0).draft.route[i.val])

/-- Slot 1's draft passes up to the scrubber's marks: FORMAT, HEARD, no mark. -/
abbrev placed (s : State) (m : AuthMode) : Prop :=
  formed s 0 m ∧ (s.scrub 0).state = .heard ∧ (s.scrub 0).mark = false

/-- Every step of slot 1's draft leads to a neighbour. -/
abbrev adjacent (s : State) : Prop :=
  ∀ i : Fin 9, ∀ a ∈ (s.slot 0).draft.captured[i.val]?, ∀ b ∈ (s.slot 0).draft.captured[i.val + 1]?, b ∈ (s.fixed a).nbrs

/-- A default class that is not for SCRUB. -/
def dryFloor (s : State) : State :=
  { s with site := some { labSite with
      classes := labSite.classes.set 0 { drying := 2, wetScrub := false, moistureCheck := true, restartWet := true } } }

theorem meets_FleetStructuralPass_format :
    ¬ (1 ≤ (drafted 17 2 1 2 3 lab |>.slot 0).draft.scrubber.toNat
        ∧ (drafted 17 2 1 2 3 lab |>.slot 0).draft.scrubber.toNat ≤ 16)
      ∧ (drafted 1 3 1 2 3 lab |>.slot 0).draft.mode ≠ 2 ∧ (lab.slot 1).draft.length.toNat = 0
      ∧ (valueOutOfRange (drafted 1 2 1 4 3 lab) 4 ∧ ¬ valueOutOfRange (drafted 1 2 1 4 3 lab) 1)
      ∧ (valueOutOfRange lab 0 ∧ ¬ valueOutOfRange lab 3) := by
  delta valueOutOfRange; decide +kernel

theorem meets_FleetStructuralPass_scrubber :
    (formed (drafted 2 1 1 2 3 lab) 1 .transit ∧ (lab.scrub 1).state = .absent)
      ∧ (formed (drafted 1 2 1 2 3 (withScrub 0 { state := .lost } lab)) 0 .scrub)
      ∧ ((withScrub 0 { state := .unheard } lab).scrub 0).state = .unheard
      ∧ ((withScrub 0 { state := .withdrawn } lab).scrub 0).state = .withdrawn
      ∧ (formed (drafted 1 2 1 2 3 (withScrub 0 { state := .heard, mark := true } lab)) 0 .scrub)
      ∧ (let s := drafted 1 2 1 2 3 (withSlot 19 waitingSlot lab)
         placed s .scrub ∧ (19 : SlotIx) ≠ 0 ∧ (s.slot 19).state ≠ .idle ∧ (s.slot 19).scrubber = some 0) := by
  delta placed formed valueOutOfRange; decide +kernel

theorem meets_FleetStructuralPass_route :
    (let s := drafted 1 2 2 1 2 lab
     placed s .scrub ∧ (∀ j : SlotIx, j.val < 20 → j ≠ 0 → (s.slot j).state ≠ .idle → (s.slot j).scrubber ≠ some 0)
      ∧ (s.slot 0).draft.captured.head? ≠ (s.scrub 0).current)
      ∧ (let s := drafted 1 2 1 2 2 lab
         placed s .scrub ∧ (s.slot 0).draft.captured.head? = (s.scrub 0).current
          ∧ (s.slot 0).draft.captured[1]? = some 1 ∧ (s.slot 0).draft.captured[2]? = some 1
          ∧ (1 : SegIx) ∉ (s.fixed 1).nbrs ∧ (1 : SegIx) ∈ (s.fixed 0).nbrs)
      ∧ (let s := drafted 1 2 1 2 1 lab
         placed s .scrub ∧ adjacent s ∧ (s.slot 0).draft.captured[2]? = some 0
          ∧ (0 : SegIx) ∈ (s.slot 0).draft.captured.take 2 ∧ ((s.slot 0).draft.captured.take 2).Nodup)
      ∧ (let s := dryFloor (drafted 1 2 1 2 3 lab)
         placed s .scrub ∧ adjacent s ∧ (s.slot 0).draft.captured.Nodup ∧ (s.slot 0).draft.captured[0]? = some 0
          ∧ (s.floorClass (s.resolvedClass 0)).wetScrub = false
          ∧ (s.floorClass (s.resolvedClass 1)).wetScrub = true) := by
  delta placed formed adjacent valueOutOfRange; decide +kernel

/-- The lab with a passenger draft of a length over a route. -/
abbrev passengerDraft (l : Byte) (r : Vector Word 10) : State := withSlot 20 { draft := { length := l, route := r } } lab

theorem meets_PassengerStructuralPass :
    20 ≤ (20 : SlotIx).val ∧ lab.n ≤ 255
      ∧ ¬ (1 ≤ (0 : Byte).toNat ∧ (0 : Byte).toNat ≤ 10) ∧ ¬ (1 ≤ (11 : Byte).toNat ∧ (11 : Byte).toNat ≤ 10)
      ∧ (1 ≤ (10 : Byte).toNat ∧ (10 : Byte).toNat ≤ 10)
      ∧ (valueOutOfRange lab 0 ∧ valueOutOfRange lab 4 ∧ ¬ valueOutOfRange lab 3)
      ∧ (passengerDraft 3 #v[3, 2, 3, 9, 9, 9, 9, 9, 9, 9]).structuralPassenger 20 = some (.repeated, 3)
      ∧ (passengerDraft 3 #v[3, 2, 1, 9, 9, 9, 9, 9, 9, 9]).structuralPassenger 20 = none
      ∧ (passengerDraft 3 #v[3, 3, 4, 9, 9, 9, 9, 9, 9, 9]).structuralPassenger 20 = some (.format, 3) := by
  delta valueOutOfRange; decide +kernel

theorem meets_PassengerAvailability :
    20 ≤ (20 : SlotIx).val
      ∧ (let t := withSeg 0 { occupant := some 0, claims := [20] } lab
         (t.seg 0).closure = (lab.seg 0).closure ∧ (t.seg 0).wet = (lab.seg 0).wet ∧ (t.seg 0).holder = (lab.seg 0).holder
          ∧ (t.seg 0).occupant = (lab.seg 0).occupant ∧ (t.seg 0).claims ≠ (lab.seg 0).claims) := by decide +kernel

/-- The lab with the first segment of slot 1's draft wet. -/
def wetStart : State :=
  withSeg 0 { occupant := some 0, wet := some { expiry := 2000, count := 0 } }
    { lab with drying := [{ seg := 0, expiry := 2000, count := 0, cls := 0, check := false }] }

theorem meets_CommitGrants :
    wetStart.mode = .service ∧ (0 : SlotIx).val < 20 ∧ (wetStart.slot 0).state = .idle
      ∧ wetStart.structuralFleet 0 = .ok (0, .scrub)
      ∧ (∀ e ∈ (wetStart.slot 0).draft.captured.zipIdx 1, wetStart.fleetTest 0 .scrub e.2 e.1 = none)
      ∧ (wetStart.slot 0).draft.captured.head? = some 0 ∧ (wetStart.seg 0).wet ≠ none
      ∧ (1 : SegIx) ∈ (wetStart.slot 0).draft.captured ∧ (wetStart.fixed 1).pinch = some 0
      ∧ ∀ g ∈ (wetStart.slot 0).draft.captured, (wetStart.fixed g).pinch ≠ some 15 := by decide +kernel

theorem meets_FleetCommitUnavailable :
    (let s := withSeg 2 { wet := some { expiry := 2000, count := 0 } } lab
     s.mode = .service ∧ (s.slot 0).state = .idle ∧ s.structuralFleet 0 = .ok (0, .scrub)
      ∧ firstFailure (fun j g => s.fleetTest 0 .scrub j g) ((s.slot 0).draft.captured.zipIdx 1) = some (.wet, 3)
      ∧ Result.wet.transient = true ∧ 0 < s.fleetWaitLimit)
    ∧ (let s := withSeg 2 { wet := some { expiry := 2000, count := 0 } }
        { lab with site := some { labSite with timings := { labSite.timings with fleetWait := 0 } } }
       s.mode = .service ∧ (s.slot 0).state = .idle ∧ s.structuralFleet 0 = .ok (0, .scrub)
        ∧ firstFailure (fun j g => s.fleetTest 0 .scrub j g) ((s.slot 0).draft.captured.zipIdx 1) = some (.wet, 3)
        ∧ s.fleetWaitLimit = 0) := by decide +kernel

theorem meets_PassengerCommit :
    (let s := passengerDraft 2 #v[2, 3, 0, 0, 0, 0, 0, 0, 0, 0]
     s.mode = .service ∧ (s.slot 20).state = .idle ∧ s.structuralPassenger 20 = none
      ∧ ∀ g ∈ (s.slot 20).draft.captured, s.passengerTest g = none)
    ∧ (let s := withSlot 20 { draft := { labDraft with route := #v[1, 2, 3, 0, 0, 0, 0, 0, 0, 0] } } (holding .active)
       s.mode = .service ∧ (s.slot 20).state = .idle ∧ s.structuralPassenger 20 = none
        ∧ firstFailure (fun _ g => s.passengerTest g) ((s.slot 20).draft.captured.zipIdx 1) = some (.held, 1)
        ∧ meetsAt s 0 (s.slot 20).draft.captured 2 ∧ (s.slot 0).route.Nodup
        ∧ (((0, 1) : SegIx × Nat) ∈ (s.slot 0).entries ∧ (s.seg 0).holder = some 0)
        ∧ (((1, 2) : SegIx × Nat) ∈ (s.slot 0).entries ∧ (s.seg 1).holder = some 0 ∧ (s.slot 0).state ≠ .granted))
    ∧ (let s := withSlot 20 { draft := { labDraft with route := #v[1, 2, 3, 0, 0, 0, 0, 0, 0, 0] } } (holding .granted)
       meetsAt s 0 (s.slot 20).draft.captured 2 ∧ (s.slot 0).route.Nodup
        ∧ ((1, 2) : SegIx × Nat) ∈ (s.slot 0).entries ∧ (s.seg 1).holder = some 0 ∧ (s.slot 0).state = .granted)
    ∧ (let s := withSlot 20 { draft := { labDraft with length := 1 } } (holding .active)
       s.structuralPassenger 20 = none ∧ (s.slot 0).state.authority = true
        ∧ firstFailure (fun _ g => s.passengerTest g) ((s.slot 20).draft.captured.zipIdx 1) = some (.held, 1)
        ∧ (∀ e ∈ (s.slot 0).entries, (s.slot 0).progress < e.2 → e.2 ≤ (s.slot 0).endIx →
            e.1 ∉ (s.slot 20).draft.captured)
        ∧ (s.seg 3).holder = none) := by
  delta meetsAt; decide +kernel

/-- Slot 1 waiting after a tuning write of the terminus default class has made class 7, not for SCRUB, stand. -/
def floorLab : State :=
  { waitingFleet with
    site := some { labSite with
      classes := labSite.classes.set 7 { drying := 2, wetScrub := false, moistureCheck := true, restartWet := true } }
    tuning := (Vector.replicate 8 0).set 5 8 }

theorem meets_Reevaluation :
    lab.freeing = false ∧ { lab with freeing := true }.freeing = true ∧ (lab.slot 0).state ≠ .waiting
      ∧ ((waitingPassenger.slot 20).state = .waiting ∧ waitingPassenger.availability 20 = some (.occupied, 1))
      ∧ (withSeg 0 { claims := [20] } waitingPassenger).availability 20 = none
      ∧ ((waitingFleet.slot 0).state = .waiting ∧ (waitingFleet.slot 0).scrubber = some 0
        ∧ (waitingFleet.scrub 0).state = .heard ∧ (waitingFleet.scrub 0).mark = false
        ∧ (waitingFleet.slot 0).route.head? = (waitingFleet.scrub 0).current
        ∧ waitingFleet.availability 0 = none)
      ∧ (let s := withSeg 0 { occupant := some 0, wet := some { expiry := 2000, count := 0 } } waitingFleet
         s.availability 0 = none ∧ (s.slot 0).route.head? = some 0 ∧ (s.seg 0).wet ≠ none
          ∧ (∃ g ∈ (s.slot 0).route, (s.fixed g).pinch = some 0)
          ∧ ∀ g ∈ (s.slot 0).route, (s.fixed g).pinch ≠ some 15)
      ∧ ((withSeg 1 { claims := [20] } waitingFleet).availability 0 = some (.claimed, 2) ∧ Result.claimed.transient = true)
      ∧ (floorLab.availability 0 = some (.floor, 1) ∧ Result.floor.transient = false
        ∧ (floorLab.slot 0).state = .waiting ∧ (floorLab.scrub 0).state = .heard)
      ∧ ((withScrub 0 { state := .lost, current := some 0 } waitingFleet).scrub 0).state = .lost
      ∧ ¬ (waitingFleet.slot 0).route.head? = ((withScrub 0 { state := .heard, current := some 1 } waitingFleet).scrub 0).current := by
  decide +kernel

theorem meets_CancelRefusedOrWaiting :
    lab.mode = .service ∧ (0 : Word) ≠ 1 ∧ (lab.slot 0).state = .idle
      ∧ (let s := withSlot 0 { heldSlot .delivered with endIx := 1 } lab
         (s.slot 0).endIx ≤ (s.slot 0).progress ∧ (s.slot 0).state = .delivered)
      ∧ (waitingFleet.slot 0).state = .waiting ∧ (waitingPassenger.slot 20).state = .waiting := by decide +kernel

/-- Slot 1 holding its route with the entry of its pinch group. -/
def pinched (st : SlotState) : State :=
  { holding st with pinch := (Vector.replicate 16 {}).set 0 { holder := some 0, count := 1 } }

/-- The law of the pinch table in a form that evaluates. -/
theorem pinchLaw_of (s : State)
    (free : ∀ p, (s.pinchEntry p).holder = none → (s.pinchEntry p).count = 0
      ∧ ∀ g : SegIx, inGroup s p g → (s.seg g).occupant = none ∧ ∀ k, (s.seg g).holder = some k → 20 ≤ k.val)
    (taken : ∀ p h, (s.pinchEntry p).holder = some h →
      (s.pinchEntry p).count = pinchUse s p h ∧ 1 ≤ (s.pinchEntry p).count
        ∧ ∀ g : SegIx, inGroup s p g → ∀ k, (s.seg g).holder = some k → k.val < 20 → (s.slot k).scrubber = some h) :
    s.pinchLaw := by
  intro p
  split
  · exact free p (by assumption)
  · exact taken p _ (by assumption)

theorem pinched_lab_is_lawful : (pinched .granted).pinchLaw :=
  pinchLaw_of _ (by delta inGroup; decide +kernel) (by delta inGroup; decide +kernel)

theorem meets_CancelWithAuthority :
    ((holding .granted).mode = .service ∧ ((holding .granted).slot 0).route.Nodup
        ∧ ((holding .granted).slot 0).state = .granted)
      ∧ (let s := withSlot 0 { heldSlot .active with endIx := 1 } (holding .active)
         (s.slot 0).route.Nodup ∧ (s.slot 0).state = .active ∧ (s.slot 0).endIx ≤ (s.slot 0).progress)
      ∧ (((holding .delivered).slot 0).route.Nodup ∧ ((holding .delivered).slot 0).state.sent = true
        ∧ ((holding .delivered).slot 0).progress < ((holding .delivered).slot 0).endIx
        ∧ ((2, 3) : SegIx × Nat) ∈ ((holding .delivered).slot 0).entries
        ∧ ((holding .delivered).seg 2).holder = some 0)
      ∧ (let s := withSlot 20 (heldSlot .active) (withSeg 2 { holder := some 20 } lab)
         (s.slot 20).route.Nodup ∧ (s.slot 20).state = .active ∧ (s.seg 2).holder = some 20)
      ∧ (((pinched .granted).slot 0).state = .granted ∧ (1 : SegIx) ∈ ((pinched .granted).slot 0).route
        ∧ ((pinched .granted).seg 1).holder = some 0 ∧ ((pinched .granted).fixed 1).pinch = some 0
        ∧ ((pinched .granted).pinchEntry 0).holder = some 0) := by decide +kernel

theorem meets_CommandRefusals :
    (lab.attends = true ∧ 12 ≤ (12 : Byte).toNat ∧ 9 < (10 : Byte).toNat ∧ lab.mode ≠ .noSite)
      ∧ { lab with mode := .noSite }.mode = .noSite ∧ { lab with mode := .noSite }.attends = true
      ∧ { lab with mode := .recovery }.mode = .recovery
      ∧ (lab.mode = .service ∧ ((holding .active).slot 0).state ≠ .idle)
      ∧ (16 < (op 17 0 0).a.toNat ∧ (op 2 0 0).a.toNat = (1 : ScrubIx).val + 1 ∧ (lab.scrub 1).state = .absent)
      ∧ lab.n < (op 1 4 0).b.toNat ∧ lab.n < (op 4 0 0).a.toNat ∧ lab.z < (op 3 0 0).a.toNat
      ∧ (let s := withScrub 1 { state := .heard } lab
         (s.scrub 1).state ≠ .absent ∧ (op 2 1 0).b.toNat ≤ s.n ∧ (s.seg 0).occupant = some 0 ∧ (0 : ScrubIx) ≠ 1)
      ∧ (lab.scrub 0).state ≠ .withdrawn ∧ (lab.scrub 0).mark = false
      ∧ (let s := withSeg 2 { closure := { operations := true } } lab
         (op 3 0 0).a.toNat ≤ s.n ∧ (s.seg 2).closure.operations = true)
      ∧ ((op 2 0 0).a.toNat ≤ lab.z ∧ ((zoned 1 .stale 0 .quiet).zone 1).state = .stale) := by decide +kernel

/-- RECOVERY, everything ready but the restart acknowledged. -/
def readyLab : State := withScrub 1 { state := .withdrawn } { lab with mode := .recovery }
/-- Every enrolled scrubber known. -/
def unreadyLab : State := withScrub 1 { state := .unheard } { lab with mode := .recovery }

theorem meets_AckRestartAndServiceEntry :
    readyLab.mode = .recovery ∧ readyLab.ackRestart = true ∧ fleetReady readyLab ∧ ¬ fleetReady unreadyLab
      ∧ lab.mode ≠ .recovery ∧ { readyLab with ackRestart := false }.ackRestart = false := by
  delta fleetReady; decide +kernel

theorem meets_Withdraw :
    (let s := withSlot 1 { heldSlot .active with scrubber := some 1, route := [2], endIx := 1, progress := 0 }
        (withSeg 2 { holder := some 1 } (holding .active))
     s.mode = .service ∧ (op 1 3 0).a.toNat = (0 : ScrubIx).val + 1 ∧ (s.scrub 0).state ≠ .absent
      ∧ (op 1 3 0).b.toNat ≤ s.n ∧ (op 1 3 0).b.toNat = (2 : SegIx).val + 1 ∧ (s.seg 2).occupant = none
      ∧ (s.scrub 0).liveSlot = some 0 ∧ (s.slot (fleetSlot 0)).scrubber = some 0
      ∧ (s.slot (fleetSlot 0)).state.authority = true ∧ holdsAhead s 1 2 1
      ∧ (s.slot (fleetSlot 0)).route.Nodup
      ∧ (((0, 1) : SegIx × Nat) ∈ (s.slot (fleetSlot 0)).entries ∧ (s.seg 0).holder = some (fleetSlot 0)
        ∧ wetChosen (fleetSlot 0) (s.slot (fleetSlot 0)) 1)
      ∧ (((1, 2) : SegIx × Nat) ∈ (s.slot (fleetSlot 0)).entries ∧ (s.seg 1).holder = some (fleetSlot 0)
        ∧ (s.seg 1).carried = false ∧ ¬ wetChosen (fleetSlot 0) (s.slot (fleetSlot 0)) 2)
      ∧ (s.seg 254).holder = none)
    ∧ ((waitingFleet.scrub 0).liveSlot = some 0 ∧ (waitingFleet.slot (fleetSlot 0)).scrubber = some 0
      ∧ (waitingFleet.slot (fleetSlot 0)).state = .waiting)
    ∧ (drierEntry 0 true ∈ (drier 0 true 500).drying)
    ∧ (lab.scrub 0).liveSlot = none ∧ (op 1 0 0).b.toNat ≤ lab.n := by
  delta holdsAhead wetChosen; decide +kernel

theorem meets_ReadmitAndClearViolation :
    lab.mode = .service ∧ (op 2 0 0).a.toNat = (1 : ScrubIx).val + 1 ∧ (readyLab.scrub 1).state = .withdrawn
      ∧ (let s := withScrub 1 { state := .heard, mark := true, flags := { stopped := true } } lab
         (s.scrub 1).state = .heard ∧ (s.scrub 1).mark = true ∧ (s.scrub 1).flags.stopped = true) := by decide +kernel

theorem meets_SegmentClosures :
    (op 3 0 0).a.toNat = (2 : SegIx).val + 1 ∧ (op 3 0 0).a.toNat ≤ lab.n
      ∧ ((withSeg 2 { closure := { dispatch := true } } lab).seg 2).closure.hasIssuer .dispatch = true
      ∧ (lab.seg 2).closure.hasIssuer .dispatch = false
      ∧ holdsAhead (holding .active) 0 2 3 ∧ (∀ j, ¬ liveOn (holding .active) 2 j)
      ∧ (liveOn (holding .active) 0 0 ∧ ((holding .active).slot (fleetSlot 0)).state.authority = true
        ∧ ((holding .active).slot (fleetSlot 0)).progress < ((holding .active).slot (fleetSlot 0)).endIx)
      ∧ (let s := withSeg 2 { occupant := some 0 } (holding .active)
         liveOn s 2 0 ∧ (s.seg 2).holder ≠ some (fleetSlot 0))
      ∧ (lab.seg 2).closure = {}
      ∧ ((withSeg 2 { closure := { operations := true } } lab).seg 2).closure ≠ {}
      ∧ ((withSeg 2 { closure := { drying := true } } lab).seg 2).closure.operations = false := by
  delta holdsAhead liveOn; decide +kernel

theorem meets_ZoneClosuresAndReseed :
    (holding .active).mode = .service ∧ (op 2 0 0).a.toNat = (1 : ZoneIx).val + 1 ∧ (op 2 0 0).a.toNat ≤ (holding .active).z
      ∧ ((holding .active).fixed 2).zone = some 1 ∧ (2 : SegIx).val < (holding .active).n
      ∧ ((holding .active).seg 2).closure.operations = false ∧ holdsAhead (holding .active) 0 2 3
      ∧ ((holding .active).fixed 0).zone = some 0 ∧ liveOn (holding .active) 0 0
      ∧ ((holding .active).slot (fleetSlot 0)).progress ≤ ((holding .active).slot (fleetSlot 0)).endIx
      ∧ seededState ((holding .active).zone 1).state := by
  delta holdsAhead liveOn seededState; decide +kernel

theorem meets_ResetNoticesAndReload :
    { lab with mode := .recovery }.mode = .recovery ∧ { lab with mode := .noSite }.mode = .noSite
      ∧ lab.mode = .service ∧ (∀ k, (lab.slot k).state = .idle) := by decide +kernel

theorem meets_ControlWrites :
    lab.mode = .service ∧ tuningInRange 0 5 ∧ ¬ tuningInRange 0 4 ∧ tuningInRange 1 255 ∧ ¬ tuningInRange 2 9
      ∧ tuningInRange 3 1 ∧ ¬ tuningInRange 4 256 ∧ tuningInRange 5 8 ∧ ¬ tuningInRange 5 9 ∧ tuningInRange 6 1023
      ∧ ¬ tuningInRange 6 1024 ∧ tuningInRange 7 0 ∧ ¬ tuningInRange 7 32
      ∧ ((1023 : Word).toNat ≤ 1023 ∧ ((1023 : Word).setWidth 10 - ({ lab with writeIx := 1023 } : State).readIx).toNat
          ≤ (({ lab with writeIx := 1023 } : State).writeIx - ({ lab with writeIx := 1023 } : State).readIx).toNat)
      ∧ ¬ ((1024 : Word).toNat ≤ 1023 ∧ ((1024 : Word).setWidth 10 - lab.readIx).toNat ≤ (lab.writeIx - lab.readIx).toNat)
      ∧ ¬ ((1 : Word).toNat ≤ 1023 ∧ ((1 : Word).setWidth 10 - lab.readIx).toNat ≤ (lab.writeIx - lab.readIx).toNat) := by
  delta tuningInRange; decide +kernel

/-- A staged notice of three words, with a fill. -/
abbrev stagedAt (w : BitVec 10) : State := { lab with staging := [restartNotice .line], writeIx := w }

theorem meets_Writers :
    (lab.memoryLaw ∧ lab.staging = [] ∧ State.reset.mode = .loading ∧ lab.held = none)
      ∧ ((stagedAt 1020).mode ≠ .loading ∧ (stagedAt 1020).held = none
        ∧ (stagedAt 1020).staging = restartNotice .line :: []
        ∧ (restartNotice .line).payload.length + 2 + ((stagedAt 1020).writeIx - (stagedAt 1020).readIx).toNat ≤ 1023)
      ∧ 1023 < (restartNotice .line).payload.length + 2 + ((stagedAt 1021).writeIx - (stagedAt 1021).readIx).toNat
      ∧ ((granting true).memoryLaw ∧ (granting true).held = some (restartNotice .power) ∧ lab.noticeGrant = none
        ∧ (restartNotice .power).payload.length + 2 ≤ 1023
        ∧ (granting true).noticeGrant = some { notice := restartNotice .power, start := 0, publish := true }
        ∧ (granting false).noticeGrant = some { notice := restartNotice .power, start := 0, publish := false })
      ∧ (lab.marksLaw ∧ ¬ mirrorAsks lab ∧ { granting true with lastServed := .mirror }.held ≠ none)
      ∧ (cutLab.memoryLaw ∧ cutLab.marksLaw ∧ cutLab.mode ≠ .loading ∧ cutLab.noticeGrant = none ∧ cutLab.held = none
        ∧ recordChosen cutLab (.segView 1))
      ∧ { cutLab with held := some (restartNotice .power), lastServed := .notice }.lastServed ≠ .mirror
      ∧ recordChosen { cutLab with lastWritten := 0 } (.segView 1)
      ∧ recordChosen { cutLab with promo := [.segView 9] } (.segView 9) := by
  delta State.memoryLaw State.marksLaw recordChosen mirrorAsks; decide +kernel

/-- SERVICE, slot 1 ACTIVE over the segments 1 to 3 of its draft in memory, everything dirty, a command waiting. -/
def lawful : State :=
  (withSlot 20 {} { pinched .active with dirty := allRecords, pending := [.interlockClockTick] }).writeWords
    [(slotAddr 0 1, 1), (slotAddr 0 2, 2), (slotAddr 0 3, 3)]

theorem meets_StructuralLawsAreKept :
    (∃ t, step lawful = .next t) ∧ lawful.memoryLaw ∧ lawful.stagingLaw ∧ lawful.marksLaw ∧ lawful.routeLaw
      ∧ lawful.loadLaw ∧ headerKept.loadLaw := by
  refine ⟨⟨_, rfl⟩, ?_, ?_, ?_, ?_, fun h e => ?_, fun h e => ?_⟩
  · delta State.memoryLaw; decide +kernel
  · delta State.stagingLaw; decide +kernel
  · delta State.marksLaw; decide +kernel
  · delta State.routeLaw; decide +kernel
  · exact absurd e (by rw [show lawful.load = .idle from rfl]; simp)
  · cases e
    decide +kernel

theorem meets_StructuralLawsAreKept_site : lawful.siteLaw := by
  intro m e
  cases e
  delta Site.sound Site.soundSegment Profile.sound
  have h : ∀ i, i < 3 → ∀ r ∈ labSite.segs[i]?,
      (∀ z, r.zone = some z → z.val < labSite.zones.length) ∧ r.nbrs.length ≤ 6 ∧ r.nbrs.Nodup
        ∧ ∀ h ∈ r.nbrs, h.val < labSite.segs.length ∧ h.val ≠ i
            ∧ ∃ q, labSite.segs[h.val]? = some q ∧ ∃ g ∈ q.nbrs, g.val = i := by
    intro i hi
    have : i = 0 ∨ i = 1 ∨ i = 2 := by omega
    rcases this with rfl | rfl | rfl <;> simp [labSite]
  refine ⟨?_, ?_, ?_, ?_, ?_, ?_, ?_, ?_, ?_, ?_, fun i r e => h i ?_ r e⟩
  iterate 10 decide +kernel
  exact Nat.lt_of_not_le fun hi => by rw [List.getElem?_eq_none hi] at e; cases e

theorem meets_SlotLawsAreKept :
    readyLab.mode ≠ .service ∧ lawful.idleLaw ∧ lawful.oneSlotLaw ∧ lawful.queueLaw ∧ lawful.routeLaw := by
  delta State.idleLaw State.oneSlotLaw State.queueLaw State.routeLaw; decide +kernel

theorem meets_SlotRecordsStaySound : lawful.distinctLaw ∧ lawful.liveSlotLaw ∧ lawful.spanLaw := by
  delta State.distinctLaw State.liveSlotLaw State.spanLaw; decide +kernel

theorem meets_HoldingLawsAreKept : lawful.holdingLaw ∧ lawful.pinchLaw ∧ lawful.portLaw := by
  refine ⟨by delta State.holdingLaw; decide +kernel,
    pinchLaw_of _ (by delta inGroup; decide +kernel) (by delta inGroup; decide +kernel),
    fun g h => absurd h (by rw [show lawful.noticeGrant = none from rfl]; simp),
    fun n h => absurd h (by rw [show lawful.held = none from rfl]; simp), fun h => absurd rfl h,
    by decide +kernel⟩

theorem meets_DryingLawIsKept : lawful.idleLaw ∧ lawful.dryingLaw := by
  simp only [State.idleLaw, State.dryingLaw, wetAgrees_iff]; decide +kernel

theorem meets_PlanMemoryAgrees : lawful.memoryLaw ∧ lawful.mirrorLaw ∧ lawful.routeLaw ∧ lawful.draftLaw := by
  refine ⟨by delta State.memoryLaw; decide +kernel, ⟨fun r h n => absurd h n, fun _ _ h => h⟩,
    by delta State.routeLaw; decide +kernel, ?_, ?_⟩
  · intro k i
    revert k i
    decide +kernel
  · intro k _ i g e
    have h : ∀ k : SlotIx, ∀ e ∈ (lawful.slot k).route.zipIdx,
        lawful.readWord (slotAddr k (e.2 + 1)) = BitVec.ofNat 32 (e.1.val + 1) := by decide +kernel
    exact h k (g, i) (List.mem_zipIdx_iff_getElem?.mpr e)

end Sys2Proof.Tests
end

section
/-! SUPPORT. The checks of the site image in the words of the statements (R14 to R16, R180): the check value, each
numbered check, and the first fault of a run of checks. -/
namespace Sys2Proof.Machine
open Sys2Proof

/-! ### The first fault of a run of checks -/

@[simp] theorem firstFault_nil : firstFault [] = none := rfl

@[simp] theorem firstFault_cons (v : Option SiteFault) (l : List (Option SiteFault)) :
    firstFault (v :: l) = v.or (firstFault l) := by
  cases v <;> simp [firstFault]

theorem firstFault_append (l m : List (Option SiteFault)) :
    firstFault (l ++ m) = (firstFault l).or (firstFault m) := by
  simp only [firstFault, List.findSome?_append]

theorem firstFault_eq_none (l : List (Option SiteFault)) : firstFault l = none ↔ ∀ v ∈ l, v = none := by
  simp [firstFault, List.findSome?_eq_none_iff]

theorem faultIf_eq_none (bad : Bool) (r : FaultReason) (item : Nat) : faultIf bad r item = none ↔ bad = false := by
  cases bad <;> simp [faultIf]

/-- Checks numbered from 0 find nothing exactly when each of them finds nothing. -/
theorem firstFault_range_none (n : Nat) (c : Nat → Option SiteFault) :
    firstFault ((List.range n).map c) = none ↔ ∀ i, i < n → c i = none := by
  simp [firstFault_eq_none]

/-- The first of the numbered checks that finds a fault gives the fault. -/
theorem firstFault_range_first (n : Nat) (c : Nat → Option SiteFault) (i : Nat) (f : SiteFault) (hi : i < n)
    (before : ∀ j, j < i → c j = none) (here : c i = some f) : firstFault ((List.range n).map c) = some f := by
  obtain ⟨m, rfl⟩ : ∃ m, n = i + (m + 1) := ⟨n - i - 1, by omega⟩
  have quiet : firstFault ((List.range i).map c) = none := (firstFault_range_none i c).mpr before
  rw [List.range_add, List.map_append, firstFault_append, quiet, Option.none_or, List.range_succ_eq_map]
  simp [here]

/-- Numbered checks of one kind, each of which passes when its condition holds, pass when all conditions hold. -/
theorem firstFault_checks_none {right : Nat → Prop} {bad : Nat → Bool} (agree : ∀ i, bad i = true ↔ ¬ right i) (n : Nat)
    (r : FaultReason) (item : Nat → Nat) :
    firstFault ((List.range n).map (fun i => faultIf (bad i) r (item i))) = none ↔ ∀ i, i < n → right i := by
  have one : ∀ i, bad i = false ↔ right i := fun i => by rw [← Bool.not_eq_true, agree, not_not]
  simp only [firstFault_range_none, faultIf_eq_none, one]

/-- The first condition that does not hold gives the reason of its kind and its own item. -/
theorem firstFault_checks_first {right : Nat → Prop} {bad : Nat → Bool} (agree : ∀ i, bad i = true ↔ ¬ right i)
    (n : Nat) (r : FaultReason) (item : Nat → Nat) (i : Nat) (hi : i < n) (before : ∀ j, j < i → right j)
    (here : ¬ right i) :
    firstFault ((List.range n).map (fun i => faultIf (bad i) r (item i))) = some { reason := r, item := item i } := by
  refine firstFault_range_first n _ i _ hi (fun j hj => ?_) (by rw [(agree i).mpr here]; rfl)
  have passes : ¬ bad j = true := fun e => (agree j).mp e (before j hj)
  simpa [faultIf_eq_none] using passes

/-! ### The check value (R14) -/

theorem crcBit_eq_crcStep (c : BitVec 16) (d : Bool) : crcBit c d = crcStep c d := by
  simp [crcBit, crcStep]

/-- The loader's run over a byte is the run over its bits from the most significant. -/
theorem crcByte_eq_foldl (c : BitVec 16) (v : Byte) :
    crcByte c v = ((List.range 8).map (fun i => v.getLsbD (7 - i))).foldl crcStep c := by
  simp only [crcByte, crcBit_eq_crcStep, show List.range 8 = [0, 1, 2, 3, 4, 5, 6, 7] from rfl, List.map_cons,
    List.map_nil, List.foldl_cons, List.foldl_nil]

theorem crc16_eq_crcOf (b : List Byte) : crc16 b = crcOf b := by
  simp only [crc16, crcOf, List.foldl_flatMap, ← crcByte_eq_foldl]

theorem checkValueOk_iff (b : List Byte) : checkValueOk b (imageLength (imageN b) (imageZ b)) = true ↔ crcRight b := by
  have len : imageLength (imageN b) (imageZ b) = imageLen b := rfl
  simp only [checkValueOk, crcRight, decide_eq_true_eq, crc16_eq_crcOf, len]
  exact Iff.rfl

/-! ### Header values, classes, profiles and zones (R15, 1 to 4) -/

theorem outside_range_iff (lo hi v : Nat) : (!within lo hi v) = true ↔ ¬ (lo ≤ v ∧ v ≤ hi) := by
  rw [within, Bool.not_eq_true', decide_eq_false_iff_not]

/-- The check of timing value i + 1, for i from 0 to 4. -/
def timingBad (b : List Byte) (i : Nat) : Bool :=
  twoBytes b (14 + 2 * i) != 0xFFFF
    && !within (if i = 0 then 5 else if i = 1 ∨ i = 2 then 10 else if i = 3 then 0 else 1) 255 (twoBytes b (14 + 2 * i))

theorem timingBad_iff (b : List Byte) (i : Nat) : timingBad b i = true ↔ ¬ timingRight b i := by
  rw [timingBad, Bool.and_eq_true, outside_range_iff, bne_iff_ne, ← not_or, timingRight]

theorem headerFaults_eq (b : List Byte) :
    headerFaults b = faultIf (decide (7 < byteOf b 7)) .defaultClass 0
      :: (List.range 5).map (fun i => faultIf (timingBad b i) .timing (i + 1)) := rfl

theorem headerFaults_none (b : List Byte) :
    firstFault (headerFaults b) = none ↔ byteOf b 7 ≤ 7 ∧ ∀ i, i < 5 → timingRight b i := by
  rw [headerFaults_eq, firstFault_cons, Option.or_eq_none_iff, faultIf_eq_none,
    firstFault_checks_none (timingBad_iff b), decide_eq_false_iff_not, Nat.not_lt]

theorem classBad_iff (b : List Byte) (i : Nat) :
    (!within 1 180 (byteOf b (24 + 2 * i))) = true ↔ ¬ classRight b i := outside_range_iff _ _ _

theorem classFaults_none (b : List Byte) :
    firstFault (classFaults b) = none ↔ ∀ i, i < 8 → classRight b i :=
  firstFault_checks_none (classBad_iff b) 8 _ _

theorem profileBad_iff (b : List Byte) (i : Nat) : profileBad b (40 + 18 * i) = true ↔ ¬ profileRight b i := by
  have place : ∀ k, 40 + 18 * i + k = 40 + k + 18 * i := fun k => by omega
  simp only [profileBad, profileRight, within, be16, twoBytes, place, Bool.or_eq_true, decide_eq_true_eq,
    Bool.not_eq_true', decide_eq_false_iff_not, Nat.add_assoc, Nat.reduceAdd]
  omega

theorem profileFaults_none (b : List Byte) :
    firstFault (profileFaults b) = none ↔ ∀ i, i < 4 → profileRight b i :=
  firstFault_checks_none (profileBad_iff b) 4 _ _

theorem zoneBad_iff (b : List Byte) (i : Nat) : (!within 1 4 (byteOf b (112 + i))) = true ↔ ¬ zoneRight b i :=
  outside_range_iff _ _ _

theorem zoneFaults_none (b : List Byte) :
    firstFault (zoneFaults b) = none ↔ ∀ i, i < byteOf b 6 → zoneRight b i :=
  firstFault_checks_none (zoneBad_iff b) (byteOf b 6) _ _

/-! ### Segments (R15, 5) -/

theorem byteOf_segPlace (b : List Byte) (i o : Nat) : byteOf b (segPlace b i + o) = segByte b i o := rfl

theorem nbrBytes_eq (b : List Byte) (i : Nat) :
    nbrBytes b i = (List.range (segByte b i 3)).map (fun j => segByte b i (4 + j)) := by
  simp only [nbrBytes, Nat.add_assoc, byteOf_segPlace]

theorem nbrFaults_append (n self : Nat) (seen l m : List Nat) :
    nbrFaults n self seen (l ++ m) = nbrFaults n self seen l ++ nbrFaults n self (l.reverse ++ seen) m := by
  induction l generalizing seen with
  | nil => rfl
  | cons v l ih => simp [nbrFaults, ih]

/-- The neighbour bytes that stand before neighbour j of segment i + 1. -/
def nbrsBefore (b : List Byte) (i j : Nat) : List Nat := (List.range j).map (fun h => segByte b i (4 + h))

theorem mem_nbrsBefore (b : List Byte) (i j v : Nat) :
    v ∈ (nbrsBefore b i j).reverse ++ [] ↔ ∃ h, h < j ∧ segByte b i (4 + h) = v := by
  simp [nbrsBefore]

/-- The checks of the neighbours before neighbour j find nothing exactly when each is right. -/
theorem nbrFaults_before_none (b : List Byte) (i j : Nat) :
    firstFault (nbrFaults (imageN b) (i + 1) [] (nbrsBefore b i j)) = none ↔ ∀ h, h < j → neighbourRight b i h := by
  induction j with
  | zero => simp [nbrsBefore, nbrFaults]
  | succ j ih =>
    have last : nbrsBefore b i (j + 1) = nbrsBefore b i j ++ [segByte b i (4 + j)] := by
      simp [nbrsBefore, List.range_succ]
    have one : firstFault (nbrFaults (imageN b) (i + 1) ((nbrsBefore b i j).reverse ++ []) [segByte b i (4 + j)]) = none
        ↔ neighbourRight b i j := by
      simp only [nbrFaults, firstFault_cons, firstFault_nil, Option.or_none, Option.or_eq_none_iff, faultIf_eq_none,
        decide_eq_false_iff_not, mem_nbrsBefore, within, Bool.not_eq_false', decide_eq_true_eq, neighbourRight,
        not_exists, not_and, ne_eq, and_assoc]
      exact Iff.rfl
    rw [last, nbrFaults_append, firstFault_append, Option.or_eq_none_iff, ih, one]
    exact ⟨fun ⟨all, now⟩ h hh => (Nat.lt_succ_iff_lt_or_eq.mp hh).elim (all h) (fun e => e ▸ now),
      fun all => ⟨fun h hh => all h (by omega), all j (by omega)⟩⟩

/-- The neighbours before neighbour j being right, the checks go on at neighbour j. -/
theorem nbrFaults_at (b : List Byte) (i j : Nat) (hj : j < segByte b i 3) (before : ∀ h, h < j → neighbourRight b i h) :
    ∃ rest, firstFault (nbrFaults (imageN b) (i + 1) [] (nbrBytes b i))
      = (faultIf (!within 1 (imageN b) (segByte b i (4 + j))) .neighbourRange (i + 1)).or
        ((faultIf (decide (segByte b i (4 + j) = i + 1)) .neighbourSelf (i + 1)).or
          ((faultIf (decide (segByte b i (4 + j) ∈ (nbrsBefore b i j).reverse ++ [])) .neighbourRepeat (i + 1)).or
            rest)) := by
  obtain ⟨m, hm⟩ : ∃ m, segByte b i 3 = j + (m + 1) := ⟨segByte b i 3 - j - 1, by omega⟩
  obtain ⟨after, split⟩ : ∃ after, nbrBytes b i = nbrsBefore b i j ++ segByte b i (4 + j) :: after := by
    rw [nbrBytes_eq, hm, List.range_add, List.map_append, List.range_succ_eq_map]
    exact ⟨_, rfl⟩
  rw [split, nbrFaults_append, firstFault_append, (nbrFaults_before_none b i j).mpr before, Option.none_or]
  simp only [nbrFaults, firstFault_cons]
  exact ⟨_, rfl⟩

theorem segmentFault_eq (b : List Byte) (i : Nat) :
    segmentFault b i = (faultIf (decide (byteOf b 6 < segByte b i 0)) .segmentZone (i + 1)).or
      ((faultIf (decide (7 < segByte b i 1 ∧ segByte b i 1 ≠ 15)) .segmentClass (i + 1)).or
        ((faultIf (decide (16 < segByte b i 2)) .segmentPinch (i + 1)).or
          ((faultIf (decide (6 < segByte b i 3)) .neighbourCount (i + 1)).or
            (firstFault (nbrFaults (imageN b) (i + 1) [] (nbrBytes b i)))))) := by
  simp only [segmentFault, firstFault_cons, firstFault_nil, Option.or_none]
  rfl

/-- A segment passes its checks exactly when it is right. -/
theorem segmentFault_none (b : List Byte) (i : Nat) : segmentFault b i = none ↔ segmentRight b i := by
  have nbrs := nbrFaults_before_none b i (segByte b i 3)
  rw [show nbrsBefore b i (segByte b i 3) = nbrBytes b i from (nbrBytes_eq b i).symm] at nbrs
  simp only [segmentFault_eq, Option.or_eq_none_iff, faultIf_eq_none, decide_eq_false_iff_not, nbrs, segmentRight]
  refine and_congr (by omega) (and_congr (by omega) (and_congr (by omega) (and_congr (by omega) Iff.rfl)))

/-- What a segment's checks give is what R15 says of them. -/
theorem segmentVerdict_segmentFault (b : List Byte) (i : Nat) : segmentVerdict b i (segmentFault b i) := by
  rw [segmentFault_eq]
  unfold segmentVerdict
  split
  case isTrue zone => simp [zone, faultIf]
  case isFalse zone =>
  split
  case isTrue cls => simp [zone, cls, faultIf]
  case isFalse cls =>
  split
  case isTrue pinch => simp [zone, cls, pinch, faultIf]
  case isFalse pinch =>
  split
  case isTrue count => simp [zone, cls, pinch, count, faultIf]
  case isFalse count =>
  intro j hj before
  obtain ⟨rest, e⟩ := nbrFaults_at b i j hj before
  have n : imageN b = byteOf b 5 := rfl
  rw [e]
  simp only [zone, cls, pinch, count, n, mem_nbrsBefore, faultIf, decide_false, Bool.false_eq_true, if_false,
    Option.none_or]
  refine ⟨fun out => ?_, fun ⟨low, high⟩ => ?_⟩
  · have bad : within 1 (byteOf b 5) (segByte b i (4 + j)) = false := by
      simp only [within, decide_eq_false_iff_not]; omega
    simp [bad]
  · have good : within 1 (byteOf b 5) (segByte b i (4 + j)) = true := by simp [within, low, high]
    rw [good]
    exact ⟨fun self => by simp [self], fun other twice => by simp [other, twice]⟩

theorem segmentFaults_none (b : List Byte) :
    firstFault (segmentFaults b) = none ↔ ∀ i, i < byteOf b 5 → segmentRight b i := by
  have part : segmentFaults b = (List.range (byteOf b 5)).map (segmentFault b) := rfl
  simp only [part, firstFault_range_none, segmentFault_none]

/-! ### Symmetry (R16) -/

theorem symmetryBad_iff (b : List Byte) (i : Nat) :
    (nbrBytes b i).any (fun v => !decide (i + 1 ∈ nbrBytes b (v - 1))) = true ↔ ¬ mutualRight b i := by
  simp [nbrBytes_eq, mutualRight]

theorem symmetryFaults_none (b : List Byte) :
    firstFault (symmetryFaults b) = none ↔ ∀ i, i < byteOf b 5 → mutualRight b i :=
  firstFault_checks_none (symmetryBad_iff b) (byteOf b 5) _ _

/-! ### The whole image (R14 check 5, R15, R16) -/

theorem imageFault_of_crc_wrong (b : List Byte) (h : ¬ crcRight b) :
    imageFault b = some { reason := .checkValue, item := 0 } := by
  rw [← checkValueOk_iff] at h
  simp [imageFault, h]

/-- Once the check value is right the parts are judged in their order. -/
theorem imageFault_of_crc_right (b : List Byte) (h : crcRight b) :
    imageFault b = (firstFault (headerFaults b)).or ((firstFault (classFaults b)).or ((firstFault (profileFaults b)).or
      ((firstFault (zoneFaults b)).or ((firstFault (segmentFaults b)).or (firstFault (symmetryFaults b)))))) := by
  rw [← checkValueOk_iff] at h
  simp only [imageFault, h, firstFault_append, Bool.not_true, Bool.false_eq_true, if_false, Option.or_assoc]

/-- An image passes its checks exactly when each of its parts is right. -/
theorem imageFault_none (b : List Byte) :
    imageFault b = none ↔ crcRight b ∧ (byteOf b 7 ≤ 7 ∧ ∀ i, i < 5 → timingRight b i)
      ∧ (∀ i, i < 8 → classRight b i) ∧ (∀ i, i < 4 → profileRight b i) ∧ (∀ i, i < byteOf b 6 → zoneRight b i)
      ∧ (∀ i, i < byteOf b 5 → segmentRight b i) ∧ ∀ i, i < byteOf b 5 → mutualRight b i := by
  by_cases crc : crcRight b
  · rw [imageFault_of_crc_right b crc]
    simp only [Option.or_eq_none_iff, headerFaults_none, classFaults_none, profileFaults_none, zoneFaults_none,
      segmentFaults_none, symmetryFaults_none, crc, true_and]
  · simp [imageFault_of_crc_wrong b crc, crc]

end Sys2Proof.Machine
end

section
/-! PROOFS. The events of the load: RESET_RELEASE, FLUSH_END, HEADER_READ and SITE_LOAD_COMPLETE (O4, O5). -/
namespace Sys2Proof.Machine
open Sys2Proof

/-! ### What the events do, by their conditions -/

theorem headerIn_held (s : State) (store : List Byte) (h : s.lineHeld = true) : s.headerIn store = s := by
  simp [State.headerIn, h]

theorem imageIn_held (s : State) (store : List Byte) (h : s.lineHeld = true) : s.imageIn store = s := by
  unfold State.imageIn
  cases s.load <;> simp [h]

theorem tick_held (s : State) (h : s.lineHeld = true) : s.tick = s := by simp [State.tick, h]

/-- A header that fails a check ends the load (R14, R17). -/
theorem headerIn_refused (s : State) (store : List Byte) (hm : s.mode = .loading) (hl : s.load = .header)
    (hh : s.lineHeld = false) (r : FaultReason) (hr : headerCheck (takeBytes store 24) = some r) :
    s.headerIn store = s.failLoad { reason := r, item := 0 } := by
  simp only [State.headerIn, hm, hl, hh, hr, and_self, if_true]

/-- A header that passes is kept (R13). -/
theorem headerIn_kept (s : State) (store : List Byte) (hm : s.mode = .loading) (hl : s.load = .header)
    (hh : s.lineHeld = false) (hr : headerCheck (takeBytes store 24) = none) :
    s.headerIn store = { s with load := .body (takeBytes store 24) } := by
  simp only [State.headerIn, hm, hl, hh, hr, and_self, if_true]

/-- The image that SITE_LOAD_COMPLETE judges: the kept header and the bytes after it. -/
def wholeImage (h store : List Byte) : List Byte := h ++ takeBytes store (114 + imageZ h + 10 * imageN h - 24)

/-- A fault in the image ends the load (R17). -/
theorem imageIn_refused (s : State) (store h : List Byte) (hm : s.mode = .loading) (hh : s.lineHeld = false)
    (hl : s.load = .body h) (f : SiteFault) (hf : imageFault (wholeImage h store) = some f) :
    s.imageIn store = s.failLoad f := by
  have hf : imageFault (h ++ takeBytes store (imageLength (imageN h) (imageZ h) - 24)) = some f := hf
  simp only [State.imageIn, hl, hm, hh, hf, and_self, if_true]

/-- An image without a fault is installed (R1). -/
theorem imageIn_installed (s : State) (store h : List Byte) (hm : s.mode = .loading) (hh : s.lineHeld = false)
    (hl : s.load = .body h) (hf : imageFault (wholeImage h store) = none) :
    s.imageIn store = s.install (siteOf (wholeImage h store)) := by
  have hf : imageFault (h ++ takeBytes store (imageLength (imageN h) (imageZ h) - 24)) = none := hf
  simp only [State.imageIn, hl, hm, hh, hf, and_self, if_true]
  rfl

/-! ### The first bytes of the store -/

theorem length_takeBytes (b : List Byte) (k : Nat) : (takeBytes b k).length = k := by simp [takeBytes]

theorem byteOf_takeBytes (b : List Byte) (k i : Nat) (h : i < k) : byteOf (takeBytes b k) i = byteOf b i := by
  simp [byteOf, takeBytes, h]

/-- The header's checks look at the first ten bytes alone. -/
theorem headerCheck_takeBytes (store : List Byte) : headerCheck (takeBytes store 24) = headerCheck store := by
  have same : ∀ i, i < 24 → byteOf (takeBytes store 24) i = byteOf store i := byteOf_takeBytes store 24
  have len : be16 (takeBytes store 24) 8 = be16 store 8 := by
    rw [be16, same 8 (by omega), same (8 + 1) (by omega), be16]
  have n : imageN (takeBytes store 24) = imageN store := same 5 (by omega)
  have z : imageZ (takeBytes store 24) = imageZ store := same 6 (by omega)
  rw [headerCheck, len, n, z, same 0 (by omega), same 1 (by omega), same 2 (by omega), same 3 (by omega),
    same 4 (by omega), headerCheck]

theorem headerCheck_eq (b : List Byte) : headerCheck b =
    if byteOf b 0 ≠ 0x54 ∨ byteOf b 1 ≠ 0x47 ∨ byteOf b 2 ≠ 0x53 ∨ byteOf b 3 ≠ 0x49 then some .signature
    else if byteOf b 4 ≠ 1 then some .version
    else if byteOf b 5 = 0 ∨ 32 < byteOf b 6 then some .counts
    else if 256 * byteOf b 8 + byteOf b 9 ≠ 114 + byteOf b 6 + 10 * byteOf b 5 then some .length
    else none := rfl

/-- HEADER_READ, check by check in their order (R14, 1 to 4). -/
theorem headerIn_checks (s : State) (store : List Byte) (hm : s.mode = .loading) (hl : s.load = .header)
    (hh : s.lineHeld = false) :
    s.headerIn store =
      if byteOf store 0 ≠ 0x54 ∨ byteOf store 1 ≠ 0x47 ∨ byteOf store 2 ≠ 0x53 ∨ byteOf store 3 ≠ 0x49 then
        s.failLoad { reason := .signature, item := 0 }
      else if byteOf store 4 ≠ 1 then s.failLoad { reason := .version, item := 0 }
      else if byteOf store 5 = 0 ∨ 32 < byteOf store 6 then s.failLoad { reason := .counts, item := 0 }
      else if 256 * byteOf store 8 + byteOf store 9 ≠ 114 + byteOf store 6 + 10 * byteOf store 5 then
        s.failLoad { reason := .length, item := 0 }
      else { s with load := .body (takeBytes store 24) } := by
  have refused := headerIn_refused s store hm hl hh
  rw [headerCheck_takeBytes, headerCheck_eq] at refused
  split
  case isTrue signature => exact refused _ (if_pos signature)
  case isFalse signature =>
  rw [if_neg signature] at refused
  split
  case isTrue version => exact refused _ (if_pos version)
  case isFalse version =>
  rw [if_neg version] at refused
  split
  case isTrue counts => exact refused _ (if_pos counts)
  case isFalse counts =>
  rw [if_neg counts] at refused
  split
  case isTrue length => exact refused _ (if_pos length)
  case isFalse length =>
  refine headerIn_kept s store hm hl hh ?_
  rw [headerCheck_takeBytes, headerCheck_eq, if_neg signature, if_neg version, if_neg counts, if_neg length]

theorem flushEnd_clean (s : State) (hm : s.mode = .initialising) (hd : s.dirty = []) :
    s.flushEnd = { s with mode := .recovery } := by simp [State.flushEnd, hm, hd]

theorem flushEnd_otherwise (s : State) (h : s.mode ≠ .initialising ∨ s.dirty ≠ []) : s.flushEnd = s := by
  have no : ¬ (s.mode = .initialising ∧ s.dirty.isEmpty = true) := fun ⟨m, d⟩ =>
    h.elim (fun n => n m) (fun n => n (List.isEmpty_iff.mp d))
  rw [State.flushEnd, if_neg no]

/-- Settles O4, from what each event of the load does under its conditions. -/
theorem loadBegins : Obligations.LoadBegins := by
  refine ⟨fun s => rfl, fun s store held => ⟨?_, ?_, ?_⟩, fun s => ⟨fun m d => ?_, fun h => ?_⟩,
    fun s store hm hl hh => ?_⟩
  · exact congrArg Host.Outcome.next (headerIn_held s store held)
  · exact congrArg Host.Outcome.next (imageIn_held s store held)
  · exact congrArg Host.Outcome.next (tick_held s held)
  · exact congrArg Host.Outcome.next (flushEnd_clean s m d)
  · exact congrArg Host.Outcome.next (flushEnd_otherwise s h)
  · exact congrArg Host.Outcome.next (headerIn_checks s store hm hl hh)

/-! ### Installation (R1, R10) -/

/-- The part of the enrolment over a list of scrubbers. -/
def State.enrolEach (m : Site) (l : List ScrubIx) (s : State) : State :=
  l.foldl (fun s x => if m.enrolled.getLsbD x.val then s.setScrub x { s.scrub x with state := .unheard } else s) s

theorem enrolEach_cons (m : Site) (x : ScrubIx) (l : List ScrubIx) (s : State) :
    s.enrolEach m (x :: l)
      = (if m.enrolled.getLsbD x.val then s.setScrub x { s.scrub x with state := .unheard } else s).enrolEach m l := rfl

/-- Enrolment changes scrubber records and dirty marks, and nothing else. -/
theorem enrolEach_eq (m : Site) (l : List ScrubIx) (s : State) :
    s.enrolEach m l = { s with scrubbers := (s.enrolEach m l).scrubbers, dirty := (s.enrolEach m l).dirty } := by
  induction l generalizing s with
  | nil => rfl
  | cons x l ih =>
    rw [enrolEach_cons]
    split
    · exact ih (s.setScrub x { s.scrub x with state := .unheard })
    · exact ih s

/-- The scrubbers of the list that the site enrols are UNHEARD, their other fields and the other scrubbers unchanged. -/
theorem scrub_enrolEach (m : Site) (l : List ScrubIx) (s : State) (y : ScrubIx) :
    (s.enrolEach m l).scrub y
      = if y ∈ l ∧ m.enrolled.getLsbD y.val = true then { s.scrub y with state := .unheard } else s.scrub y := by
  induction l generalizing s with
  | nil => simp [State.enrolEach]
  | cons x l ih =>
    rw [enrolEach_cons]
    split
    case isTrue enr =>
      rw [ih, scrub_setScrub]
      by_cases xy : x = y
      · subst xy; simp [enr]
      · simp [xy, Ne.symm xy]
    case isFalse out =>
      rw [ih]
      by_cases xy : x = y
      · subst xy; rw [if_neg (fun h => out h.2), if_neg (fun h => out h.2)]
      · simp [Ne.symm xy]

/-- Enrolment marks view entries of scrubbers and keeps the marks that stood. -/
theorem mem_dirty_enrolEach (m : Site) (l : List ScrubIx) (s : State) :
    (∀ r ∈ s.dirty, r ∈ (s.enrolEach m l).dirty)
      ∧ ∀ r ∈ (s.enrolEach m l).dirty, r ∈ s.dirty ∨ ∃ x, r = .scrubView x := by
  induction l generalizing s with
  | nil => exact ⟨fun _ h => h, fun _ h => Or.inl h⟩
  | cons x l ih =>
    rw [enrolEach_cons]
    split
    · obtain ⟨keeps, adds⟩ := ih (s.setScrub x { s.scrub x with state := .unheard })
      refine ⟨fun r h => keeps r ((mem_dirty_setScrub s x _ r).mpr (Or.inr h)), fun r h => ?_⟩
      rcases adds r h with old | new
      · exact ((mem_dirty_setScrub s x _ r).mp old).elim (fun e => Or.inr ⟨x, e.2⟩) Or.inl
      · exact Or.inr new
    · exact ih s

theorem install_eq (m : Site) (s : State) :
    s.install m = ({ s with site := some m, mode := .initialising, load := .idle } : State).enrolEach m
      (List.finRange 16) := rfl

/-! ### The verdict (R14 to R16) and the end of the load (R17) -/

/-- The end of the load: failure with the first fault, or the installation of the image's site. -/
theorem siteLoadComplete_ends (s : State) (store h : List Byte) (hm : s.mode = .loading) (hh : s.lineHeld = false)
    (hl : s.load = .body h) :
    (∀ f, imageFault (wholeImage h store) = some f →
      exec (.siteLoadComplete store) s = .next { s with mode := .noSite, siteFault := f, load := .idle })
    ∧ (imageFault (wholeImage h store) = none →
      exec (.siteLoadComplete store) s = .next (s.install (siteOf (wholeImage h store)))) :=
  ⟨fun f hf => congrArg Host.Outcome.next (imageIn_refused s store h hm hh hl f hf),
    fun hf => congrArg Host.Outcome.next (imageIn_installed s store h hm hh hl hf)⟩

/-- The first fault in one part of the image, the parts before it being right. -/
theorem imageFault_verdict (b : List Byte) (crc : crcRight b) :
    (7 < byteOf b 7 → imageFault b = some { reason := .defaultClass, item := 0 })
    ∧ (byteOf b 7 ≤ 7 →
      (∀ i, i < 5 → (∀ j, j < i → timingRight b j) → ¬ timingRight b i →
        imageFault b = some { reason := .timing, item := i + 1 })
      ∧ ((∀ i, i < 5 → timingRight b i) →
        (∀ i, i < 8 → (∀ j, j < i → classRight b j) → ¬ classRight b i →
          imageFault b = some { reason := .classRange, item := i })
        ∧ ((∀ i, i < 8 → classRight b i) →
          (∀ i, i < 4 → (∀ j, j < i → profileRight b j) → ¬ profileRight b i →
            imageFault b = some { reason := .profileRange, item := i + 1 })
          ∧ ((∀ i, i < 4 → profileRight b i) →
            (∀ i, i < byteOf b 6 → (∀ j, j < i → zoneRight b j) → ¬ zoneRight b i →
              imageFault b = some { reason := .zoneProfile, item := i + 1 })
            ∧ ((∀ i, i < byteOf b 6 → zoneRight b i) →
              (∀ i, i < byteOf b 5 → (∀ j, j < i → segmentRight b j) → ¬ segmentRight b i →
                segmentVerdict b i (imageFault b))
              ∧ ((∀ i, i < byteOf b 5 → segmentRight b i) →
                (∀ i, i < byteOf b 5 → (∀ j, j < i → mutualRight b j) → ¬ mutualRight b i →
                  imageFault b = some { reason := .neighbourAsymmetry, item := i + 1 })
                ∧ ((∀ i, i < byteOf b 5 → mutualRight b i) → imageFault b = none))))))) := by
  have e := imageFault_of_crc_right b crc
  refine ⟨fun high => ?_, fun low => ⟨fun i hi before bad => ?_, fun timing => ?_⟩⟩
  · simp [e, headerFaults_eq, high, faultIf]
  · have first := firstFault_checks_first (timingBad_iff b) 5 .timing (· + 1) i hi before bad
    have passes : faultIf (decide (7 < byteOf b 7)) .defaultClass 0 = none :=
      (faultIf_eq_none _ _ _).mpr (decide_eq_false (by omega))
    rw [e, headerFaults_eq, firstFault_cons, passes, Option.none_or, first]
    rfl
  rw [(headerFaults_none b).mpr ⟨low, timing⟩, Option.none_or] at e
  refine ⟨fun i hi before bad => ?_, fun classes => ?_⟩
  · rw [e, show firstFault (classFaults b) = _ from
      firstFault_checks_first (classBad_iff b) 8 .classRange (fun i => i) i hi before bad]
    rfl
  rw [(classFaults_none b).mpr classes, Option.none_or] at e
  refine ⟨fun i hi before bad => ?_, fun profiles => ?_⟩
  · rw [e, show firstFault (profileFaults b) = _ from
      firstFault_checks_first (profileBad_iff b) 4 .profileRange (· + 1) i hi before bad]
    rfl
  rw [(profileFaults_none b).mpr profiles, Option.none_or] at e
  refine ⟨fun i hi before bad => ?_, fun zones => ?_⟩
  · rw [e, show firstFault (zoneFaults b) = _ from
      firstFault_checks_first (zoneBad_iff b) (byteOf b 6) .zoneProfile (· + 1) i hi before bad]
    rfl
  rw [(zoneFaults_none b).mpr zones, Option.none_or] at e
  refine ⟨fun i hi before bad => ?_, fun segments => ?_⟩
  · obtain ⟨f, hf⟩ := Option.ne_none_iff_exists'.mp fun none => bad ((segmentFault_none b i).mp none)
    have first : firstFault (segmentFaults b) = some f :=
      firstFault_range_first (byteOf b 5) (segmentFault b) i f hi
        (fun j hj => (segmentFault_none b j).mpr (before j hj)) hf
    rw [e, first, Option.some_or, ← hf]
    exact segmentVerdict_segmentFault b i
  rw [(segmentFaults_none b).mpr segments, Option.none_or] at e
  refine ⟨fun i hi before bad => ?_, fun symmetric => ?_⟩
  · exact e.trans (firstFault_checks_first (symmetryBad_iff b) (byteOf b 5) .neighbourAsymmetry (· + 1) i hi before bad)
  · exact e.trans ((symmetryFaults_none b).mpr symmetric)

/-- Settles O5: the two ends of the load, and the verdict part by part in the order of the parts. -/
theorem siteLoadEnds : Obligations.SiteLoadEnds := by
  refine ⟨fun s store h hm hh hl => ?_, fun b => ⟨imageFault_of_crc_wrong b, imageFault_verdict b⟩⟩
  obtain ⟨fails, installs⟩ := siteLoadComplete_ends s store h hm hh hl
  refine ⟨fails, fun passes => ⟨_, _, rfl, installs passes, ?_, fun x => ?_, ?_⟩⟩
  · exact enrolEach_eq _ _ _
  · rw [install_eq, scrub_enrolEach]
    simp only [List.mem_finRange, true_and]
    rfl
  · exact mem_dirty_enrolEach _ _ { s with site := some _, mode := .initialising, load := .idle }

end Sys2Proof.Machine
end

section
/-! PROOFS. The site model of an image: what it holds when the image has passed (O56's part of R1), and the image on which
the fields of O6 fail. -/
namespace Sys2Proof.Machine
open Sys2Proof

/-! ### Numbers of fields -/

theorem byteOf_lt (b : List Byte) (i : Nat) : byteOf b i < 256 := (b.getD i 0xFF).isLt

theorem twoBytes_lt (b : List Byte) (i : Nat) : twoBytes b i < 65536 := by
  have high := byteOf_lt b i
  have low := byteOf_lt b (i + 1)
  rw [twoBytes]
  omega

theorem ixOf_eq_some (k v : Nat) (x : Fin k) (h : ixOf k v = some x) : v = x.val + 1 := by
  unfold ixOf at h
  split at h
  · cases h
    change v = v - 1 + 1
    omega
  · cases h

theorem ixOf_in_range (k v : Nat) (low : 1 ≤ v) (high : v ≤ k) : ∃ x, ixOf k v = some x ∧ x.val + 1 = v := by
  have h : 0 < v ∧ v ≤ k := ⟨low, high⟩
  exact ⟨⟨v - 1, by omega⟩, dif_pos h, by change v - 1 + 1 = v; omega⟩

/-- Numbers in range name indices that have those numbers. -/
theorem filterMap_ixOf (k : Nat) (l : List Nat) (h : ∀ v ∈ l, 1 ≤ v ∧ v ≤ k) :
    (l.filterMap (ixOf k)).map (fun x => x.val + 1) = l := by
  induction l with
  | nil => rfl
  | cons v l ih =>
    obtain ⟨low, high⟩ := h v (List.mem_cons_self ..)
    obtain ⟨x, hx, hv⟩ := ixOf_in_range k v low high
    rw [List.filterMap_cons_some hx, List.map_cons, hv, ih (fun w hw => h w (List.mem_cons_of_mem _ hw))]

/-! ### The fields of the model -/

theorem length_segs_siteOf (b : List Byte) : (siteOf b).segs.length = byteOf b 5 := by simp [siteOf, imageN]

theorem length_zones_siteOf (b : List Byte) : (siteOf b).zones.length = byteOf b 6 := by simp [siteOf, imageZ]

theorem segs_siteOf (b : List Byte) (i : Nat) (h : i < byteOf b 5) : (siteOf b).segs[i]? = some (segmentAt b i) := by
  have h : i < imageN b := h
  simp [siteOf, h]

/-- A segment of the model is the segment of an entry of the image. -/
theorem of_segs_siteOf (b : List Byte) (i : Nat) (r : SegFixed) (h : (siteOf b).segs[i]? = some r) :
    i < byteOf b 5 ∧ r = segmentAt b i := by
  obtain ⟨hi, _⟩ := List.getElem?_eq_some_iff.mp h
  rw [length_segs_siteOf] at hi
  rw [segs_siteOf b i hi] at h
  exact ⟨hi, (Option.some.inj h).symm⟩

theorem classes_siteOf (b : List Byte) (c : ClassIx) : (siteOf b).classes[c.val] = classAt b c.val := by simp [siteOf]

theorem profiles_siteOf (b : List Byte) (p : ProfileIx) : (siteOf b).profiles[p.val] = profileAt b p.val := by
  simp [siteOf]

/-- A timing value that is right lies in its range once its default stands for the marker (R11). -/
theorem timingOf_in_range (b : List Byte) (i : Fin 5) (h : timingRight b i.val) :
    (timingRange i).1 ≤ timingOf b i ∧ timingOf b i ≤ 255 := by
  have raw : rawTiming b i = twoBytes b (14 + 2 * i.val) := rfl
  unfold timingOf
  split
  case isTrue =>
    have builtIn : ∀ j : Fin 5, (timingRange j).1 ≤ timingDefault j ∧ timingDefault j ≤ 255 := by decide
    exact builtIn i
  case isFalse unmarked =>
    obtain marked | range := h
    · exact absurd marked unmarked
    · rw [raw]
      revert range
      fin_cases i <;> exact id

theorem profileAt_sound (b : List Byte) (i : Nat) (h : profileRight b i) : (profileAt b i).sound := by
  obtain ⟨filter, base, fast, presence, ⟨inLow, inHigh⟩, ⟨outLow, outHigh⟩, dry⟩ := h
  have place : ∀ o k, o + 18 * i + k = o + k + 18 * i := fun o k => by omega
  simp only [Profile.sound, profileAt, show ∀ j, be16 b j = twoBytes b j from fun _ => rfl, place, Nat.reduceAdd]
  refine ⟨filter, base, fast, ?_, ?_, ?_, ?_, ?_, inLow, inHigh, outLow, outHigh, ?_, ?_, dry⟩
  · exact Nat.le_of_lt_succ (twoBytes_lt b _)
  · exact Nat.one_le_iff_ne_zero.mpr presence
  · exact Nat.le_of_lt_succ (twoBytes_lt b _)
  · exact Nat.le_of_lt_succ (twoBytes_lt b _)
  · exact Nat.le_of_lt_succ (byteOf_lt b _)
  · exact Nat.le_of_lt_succ (byteOf_lt b _)
  · exact Nat.le_of_lt_succ (byteOf_lt b _)

/-! ### Neighbours (R3, R16) -/

/-- The neighbours of a segment that is right have the numbers of its neighbour bytes. -/
theorem numbers_of_nbrs (b : List Byte) (i : Nat) (h : segmentRight b i) :
    (segmentAt b i).nbrs.map (fun g => g.val + 1) = (List.range (segByte b i 3)).map (fun j => segByte b i (4 + j)) := by
  obtain ⟨_, _, _, _, nbrs⟩ := h
  rw [← nbrBytes_eq]
  refine filterMap_ixOf 255 _ fun v hv => ?_
  rw [nbrBytes_eq] at hv
  obtain ⟨j, hj, rfl⟩ := List.mem_map.mp hv
  obtain ⟨low, high, _⟩ := nbrs j (List.mem_range.mp hj)
  exact ⟨low, high.trans (Nat.le_of_lt_succ (byteOf_lt b 5))⟩

theorem number_mem_nbrs (b : List Byte) (i v : Nat) (h : segmentRight b i) :
    (∃ g ∈ (segmentAt b i).nbrs, g.val = v) ↔ ∃ j, j < segByte b i 3 ∧ segByte b i (4 + j) = v + 1 := by
  have same : v + 1 ∈ (segmentAt b i).nbrs.map (fun g => g.val + 1)
      ↔ v + 1 ∈ (List.range (segByte b i 3)).map (fun j => segByte b i (4 + j)) := by rw [numbers_of_nbrs b i h]
  simpa using same

theorem nodup_nbrs (b : List Byte) (i : Nat) (h : segmentRight b i) : (segmentAt b i).nbrs.Nodup := by
  refine List.Nodup.of_map (fun g : SegIx => g.val + 1) ?_
  rw [numbers_of_nbrs b i h, List.nodup_iff_pairwise_ne, List.pairwise_map]
  obtain ⟨_, _, _, _, nbrs⟩ := h
  refine List.pairwise_lt_range.imp_of_mem fun {j k} _ hk jk => ?_
  obtain ⟨_, _, _, fresh⟩ := nbrs k (List.mem_range.mp hk)
  exact fresh j jk

/-- A segment of an image that passes is sound in the image's model (R2, R3). -/
theorem segmentAt_sound (b : List Byte) (segments : ∀ i, i < byteOf b 5 → segmentRight b i)
    (symmetric : ∀ i, i < byteOf b 5 → mutualRight b i) (i : Nat) (hi : i < byteOf b 5) :
    (siteOf b).soundSegment i (segmentAt b i) := by
  have right := segments i hi
  have count : (segmentAt b i).nbrs.length = segByte b i 3 := by
    simpa using congrArg List.length (numbers_of_nbrs b i right)
  obtain ⟨zone, _, _, six, nbrs⟩ := segments i hi
  refine ⟨fun z hz => ?_, count ▸ six, nodup_nbrs b i right, fun h hh => ?_⟩
  · have number : segByte b i 0 = z.val + 1 := ixOf_eq_some 32 _ z hz
    rw [length_zones_siteOf]
    omega
  · obtain ⟨j, hj, number⟩ := (number_mem_nbrs b i h.val right).mp ⟨h, hh, rfl⟩
    obtain ⟨_, high, other, _⟩ := nbrs j hj
    obtain ⟨k, hk, back⟩ := symmetric i hi j hj
    rw [number] at high other hk back
    have hn : h.val < byteOf b 5 := high
    refine ⟨by rw [length_segs_siteOf]; exact hn, fun e => other (by rw [e]), _, segs_siteOf b _ hn, ?_⟩
    exact (number_mem_nbrs b h.val i (segments _ hn)).mpr ⟨k, hk, back⟩

/-- The model of an image that passes, its header included, is sound (R1). -/
theorem siteOf_sound (b : List Byte) (n : byteOf b 5 ≠ 0) (z : byteOf b 6 ≤ 32) (h : imageFault b = none) :
    (siteOf b).sound := by
  obtain ⟨_, ⟨_, timing⟩, classes, profiles, _, segments, symmetric⟩ := (imageFault_none b).mp h
  have value : ∀ i : Fin 5, (timingRange i).1 ≤ timingOf b i ∧ timingOf b i ≤ 255 :=
    fun i => timingOf_in_range b i (timing i.val i.isLt)
  have count := byteOf_lt b 5
  refine ⟨?_, ?_, ?_, fun c => ?_, fun p => ?_, value 0, value 1, value 2, (value 3).2, value 4, fun i r hr => ?_⟩
  · rw [length_segs_siteOf]; omega
  · rw [length_segs_siteOf]; omega
  · rw [length_zones_siteOf]; exact z
  · rw [classes_siteOf]; exact classes c.val c.isLt
  · rw [profiles_siteOf]; exact profileAt_sound b p.val (profiles p.val p.isLt)
  · obtain ⟨hi, rfl⟩ := of_segs_siteOf b i r hr
    exact segmentAt_sound b segments symmetric i hi

/-! ### An image with more zones than a zone code can name -/

/-- One segment, in zone 33 of 33: everything that SITE_LOAD_COMPLETE judges is right, the check value included; only
check 3 of R14, which HEADER_READ judges, would refuse the zone count. -/
def manyZonesImage : List Byte :=
  [0x54, 0x47, 0x53, 0x49, 1, 1, 33, 0, 0, 157, 0, 0, 0, 0] ++ List.replicate 10 0xFF
    ++ (List.replicate 8 [1, 0]).flatten
    ++ (List.replicate 4 [0, 0, 0, 0, 0, 0, 1, 0, 0, 0, 1, 1, 0, 0, 0, 0, 0, 0]).flatten
    ++ List.replicate 33 1 ++ [33, 0, 0, 0, 0, 0, 0, 0, 0, 0] ++ [0xD0, 0xCB]

set_option maxRecDepth 20000 in
theorem manyZonesImage_passes : imageFault manyZonesImage = none := by decide +kernel

theorem manyZonesImage_segment : (siteOf manyZonesImage).segs[0]?
      = some { zone := none, cls := some 0, pinch := none, nbrs := [] }
    ∧ segByte manyZonesImage 0 0 = 33 := by decide +kernel

/-- Refutes O6: an image that passes every check of SITE_LOAD_COMPLETE may have 33 zones and a segment in zone 33, and no
zone of a site model has that number. The check that rules it out, check 3 of R14, is HEADER_READ's and no premise of
O6. -/
theorem not_siteModelFields : ¬ Obligations.SiteModelFields := by
  rintro ⟨fields, _⟩
  obtain ⟨_, _, _, _, _, _, _, _, _, _, _, _, _, _, _, segments⟩ := fields manyZonesImage _ manyZonesImage_passes rfl
  obtain ⟨segment, code⟩ := manyZonesImage_segment
  obtain ⟨zone, _⟩ := segments 0 _ segment
  rw [code] at zone
  exact absurd zone (by decide)

end Sys2Proof.Machine
end

section
/-! PROOFS. The attention lines and STOPALL (O17; R12, R84, R124, R165). -/
namespace Sys2Proof.Machine
open Sys2Proof

/-- Flags and a mask meet exactly when they share a place. -/
theorem masked_ne_zero_iff {w : Nat} (flags mask : BitVec w) :
    (flags &&& mask != 0) = true ↔ ∃ i, i < w ∧ flags.getLsbD i = true ∧ mask.getLsbD i = true := by
  have zero : flags &&& mask = 0 ↔ ∀ i, i < w → ¬ (flags.getLsbD i = true ∧ mask.getLsbD i = true) := by
    refine ⟨fun e i _ both => ?_, fun none => BitVec.eq_of_getLsbD_eq fun i hi => ?_⟩
    · have bit := congrArg (fun v => v.getLsbD i) e
      simp [both.1, both.2] at bit
    · rw [BitVec.getLsbD_and, BitVec.ofNat_eq_ofNat, BitVec.getLsbD_zero, ← Bool.not_eq_true, Bool.and_eq_true]
      exact none i hi
  rw [bne_iff_ne, ne_eq, zero]
  push Not
  rfl

/-- Every place below 16 is a dispatch flag's (13.1). -/
theorem dspFlag_at_place (i : Nat) (h : i < 16) : ∃ f : DspFlag, f.place = i := by
  have all : ∀ i : Fin 16, ∃ f ∈ allDspFlags, f.place = i.val := by decide
  obtain ⟨f, _, e⟩ := all ⟨i, h⟩
  exact ⟨f, e⟩

/-- Every place below 5 is an operations flag's (13.1). -/
theorem opsFlag_at_place (i : Nat) (h : i < 5) : ∃ f : OpsFlag, f.place = i := by
  have all : ∀ i : Fin 5, ∃ f ∈ [OpsFlag.restarted, .passengerActive, .passengerExpired, .commandRefused,
      .accessRefused], f.place = i.val := by decide
  obtain ⟨f, _, e⟩ := all ⟨i, h⟩
  exact ⟨f, e⟩

theorem dspCalls_iff (s : State) :
    s.dspCalls = true ↔ ∃ f, s.dsp f = true ∧ s.dspMask.getLsbD f.place = true := by
  rw [State.dspCalls, masked_ne_zero_iff]
  constructor
  · rintro ⟨i, hi, both⟩
    obtain ⟨f, rfl⟩ := dspFlag_at_place i hi
    exact ⟨f, both⟩
  · rintro ⟨f, both⟩
    exact ⟨f.place, place_lt f, both⟩

theorem opsCalls_iff (s : State) :
    s.opsCalls = true ↔ ∃ f, s.ops f = true ∧ s.opsMask.getLsbD f.place = true := by
  rw [State.opsCalls, masked_ne_zero_iff]
  constructor
  · rintro ⟨i, hi, both⟩
    obtain ⟨f, rfl⟩ := opsFlag_at_place i hi
    exact ⟨f, both⟩
  · rintro ⟨f, both⟩
    exact ⟨f.place, opsPlace_lt f, both⟩

/-- Collecting the bits of a list of indices sets the bits of those that a test picks. -/
theorem getLsbD_collect {n : Nat} (pick : Fin n → Bool) (l : List (Fin n)) (b : BitVec n) (i : Fin n) :
    (l.foldl (fun b k => if pick k then b ||| BitVec.twoPow n k.val else b) b).getLsbD i.val = true
      ↔ b.getLsbD i.val = true ∨ (i ∈ l ∧ pick i = true) := by
  induction l generalizing b with
  | nil => simp
  | cons k l ih =>
    rw [List.foldl_cons, ih]
    have bit : (if pick k then b ||| BitVec.twoPow n k.val else b).getLsbD i.val = true
        ↔ b.getLsbD i.val = true ∨ (i = k ∧ pick i = true) := by
      by_cases e : i = k
      · subst e
        cases h : pick i <;> simp
      · have ne : ¬ i.val = k.val := fun v => e (Fin.ext v)
        cases h : pick k <;> simp [e, ne]
    rw [bit, List.mem_cons]
    tauto

/-- The changed-slots set has a fleet slot's bit exactly when the slot has its changed mark (R82, R83). -/
theorem changedSlots_bit (s : State) (k : FleetIx) :
    s.changedSlots.getLsbD k.val = true ↔ (s.slot (fleetSlot k)).changed = true := by
  have collect := getLsbD_collect (fun k => (s.slot (fleetSlot k)).changed) (List.finRange 20) 0 k
  simpa [State.changedSlots] using collect

theorem gwyCalls_iff (s : State) :
    s.gwyCalls = true ↔ ∃ k : FleetIx, (s.slot (fleetSlot k)).changed = true ∧ s.gwyMask.getLsbD k.val = true := by
  rw [State.gwyCalls, masked_ne_zero_iff]
  constructor
  · rintro ⟨i, hi, changed, enabled⟩
    exact ⟨⟨i, hi⟩, (changedSlots_bit s ⟨i, hi⟩).mp changed, enabled⟩
  · rintro ⟨k, changed, enabled⟩
    exact ⟨k.val, k.isLt, (changedSlots_bit s k).mpr changed, enabled⟩

/-- A line's level is what its polarity gives its call (R12). -/
theorem lineShows_lineLevel (s : State) (polarity : Site → Polarity) (asserted : Bool) (calls : Prop)
    (agree : asserted = true ↔ calls) : lineShows s polarity (s.lineLevel polarity asserted) calls := by
  have quiet : ¬ calls → asserted = false := fun h => Bool.eq_false_iff.mpr fun e => h (agree.mp e)
  unfold State.lineLevel
  refine ⟨fun loading => if_pos loading, fun run low => ?_, fun m run site high => ?_⟩
  · rw [if_neg run]
    obtain none | ⟨m, site, low⟩ := low
    · rw [none]
      exact ⟨fun c => by rw [agree.mpr c]; rfl, fun c => by rw [quiet c]; rfl⟩
    · simp only [site, low]
      exact ⟨fun c => by rw [agree.mpr c]; rfl, fun c => by rw [quiet c]; rfl⟩
  · simp only [if_neg run, site, high]
    exact ⟨fun c => by rw [agree.mpr c]; rfl, fun c => by rw [quiet c]; rfl⟩

theorem stopAll_iff (s : State) :
    s.stopAll = true ↔ s.mode ≠ .service ∨ (∃ x, (s.scrub x).mark = true) ∨ ∃ k, (s.slot k).overdue = true := by
  simp [State.stopAll, State.anyMark, State.anyOverdue, or_assoc]

/-- Settles O17, line by line from what makes each of them call. -/
theorem attentionLines : Obligations.AttentionLines := fun s =>
  ⟨lineShows_lineLevel s _ _ _ (dspCalls_iff s), lineShows_lineLevel s _ _ _ (opsCalls_iff s),
    lineShows_lineLevel s _ _ _ (gwyCalls_iff s), stopAll_iff s, rfl⟩

end Sys2Proof.Machine
end

section
/-! PROOFS. What every step keeps of memory, the staging queue, the dirty marks, the routes, the kept header and the site
model (O56). One relation between states, closed under composition, with one lemma for each operation; what an event at
the core may do comes from the relation Evolve. -/
namespace Sys2Proof.Machine
open Sys2Proof

/-- The structural laws pass from one state to another (R1, R13, R35, R60, R168). -/
structure Kept (s t : State) : Prop where
  memory : s.memoryLaw → t.memoryLaw
  staging : s.stagingLaw → t.stagingLaw
  marks : s.marksLaw → t.marksLaw
  route : s.routeLaw → t.routeLaw
  load : s.loadLaw → t.loadLaw
  site : s.loadLaw → s.siteLaw → t.siteLaw

theorem Kept.refl (s : State) : Kept s s := ⟨id, id, id, id, id, fun _ => id⟩

theorem Kept.trans {s t u : State} (a : Kept s t) (b : Kept t u) : Kept s u :=
  ⟨b.memory ∘ a.memory, b.staging ∘ a.staging, b.marks ∘ a.marks, b.route ∘ a.route, b.load ∘ a.load,
    fun l m => b.site (a.load l) (a.site l m)⟩

theorem loadLaw_same {s t : State} (h : t.load = s.load) (l : s.loadLaw) : t.loadLaw := by
  unfold State.loadLaw; rw [h]; exact l

theorem siteLaw_same {s t : State} (h : t.site = s.site) (l : s.siteLaw) : t.siteLaw := by
  unfold State.siteLaw; rw [h]; exact l

theorem routeLaw_same {s t : State} (h : t.slots = s.slots) (l : s.routeLaw) : t.routeLaw := by
  unfold State.routeLaw State.slot; rw [h]; exact l

theorem Calm.kept {s t : State} (h : Calm s t) : Kept s t where
  memory l := by
    have mem : t.mem = s.mem := congrArg Outside.mem h.outside
    rw [State.memoryLaw, mem]; exact l
  staging := h.staging
  marks := h.marks
  route := h.route
  load := loadLaw_same (congrArg Outside.load h.outside)
  site _ := siteLaw_same (congrArg Outside.site h.outside)

theorem Evolve.kept {s t : State} (h : Evolve s t) : Kept s t := h.toCalm.kept

/-- An update beside the slots, the load and the site: what it does to memory, staging and marks is all that is left. -/
theorem Kept.aside {s t : State} (slots : t.slots = s.slots) (load : t.load = s.load) (site : t.site = s.site)
    (memory : s.memoryLaw → t.memoryLaw) (staged : t.staged ≤ s.staged) (marks : s.marksLaw → t.marksLaw) :
    Kept s t where
  memory := memory
  staging := staged.trans
  marks := marks
  route := routeLaw_same slots
  load := loadLaw_same load
  site _ := siteLaw_same site

/-- An update that none of the laws speaks of. -/
theorem Kept.apart {s t : State} (slots : t.slots = s.slots) (load : t.load = s.load) (site : t.site = s.site)
    (mem : t.mem = s.mem) (staging : t.staging = s.staging) (held : t.held = s.held) (dirty : t.dirty = s.dirty) :
    Kept s t :=
  .aside slots load site (fun l => by rw [State.memoryLaw, mem]; exact l)
    (by rw [State.staged, State.staged, staging, held]) (marks_same s t dirty)

section Operations
variable (s : State)

theorem kept_foldl {α : Type} (f : State → α → State) (hf : ∀ t a, Kept t (f t a)) (l : List α) :
    Kept s (l.foldl f s) := by
  induction l generalizing s with
  | nil => exact .refl s
  | cons a l ih => exact (hf s a).trans (ih _)

theorem kept_ite (c : Prop) [Decidable c] {t u : State} (ht : c → Kept s t) (hu : ¬ c → Kept s u) :
    Kept s (if c then t else u) := by
  split
  · exact ht ‹_›
  · exact hu ‹_›

theorem kept_event (f : State → State) (hf : ∀ t, Kept t (f t)) : Kept s (s.event f) :=
  ((ev_clearFreeing (.refl s)).kept.trans (hf _)).trans (ev_settle (.refl _)).kept

/-! ### Marks, flags and words -/

theorem kept_markDirty (r : MirrorRec) : Kept s (s.markDirty r) := (ev_markDirty (.refl s) r).kept

theorem kept_setDsp (f : DspFlag) : Kept s (s.setDsp f) := (ev_setDsp (.refl s) f).kept

theorem kept_setOps (f : OpsFlag) : Kept s (s.setOps f) := (ev_setOps (.refl s) f).kept

theorem kept_notify (kind : NoticeKind) (p : List Word) : Kept s (s.notify kind p) := (ev_notify (.refl s) kind p).kept

theorem kept_putDsp (v : BitVec 16) : Kept s (s.putDsp v) :=
  .aside rfl rfl rfl id le_rfl (marks_if _ _ _ _ rfl)

theorem kept_putOps (v : BitVec 5) : Kept s (s.putOps v) :=
  .aside rfl rfl rfl id le_rfl (marks_if _ _ _ _ rfl)

theorem kept_answered (b : BusAnswer) : Kept s (s.answered b) := .apart rfl rfl rfl rfl rfl rfl rfl

theorem kept_served (u : PortUser) : Kept s (s.served u) := .apart rfl rfl rfl rfl rfl rfl rfl

theorem kept_writeWord (a : BitVec 18) (w : Word) : Kept s (s.writeWord a w) :=
  .aside rfl rfl rfl (memWf_writeWord s a w) le_rfl id

theorem kept_writeWords (l : List (BitVec 18 × Word)) : Kept s (s.writeWords l) :=
  kept_foldl s (fun (t : State) (p : BitVec 18 × Word) => t.writeWord p.1 p.2)
    (fun t p => kept_writeWord t p.1 p.2) l

/-! ### The port and the writers (R33, R35, R169) -/

theorem kept_takeRecord (r : MirrorRec) : Kept s (s.takeRecord r) :=
  .aside rfl rfl rfl id le_rfl fun l => List.Pairwise.sublist List.erase_sublist l

theorem kept_mirrorGrant : Kept s s.mirrorGrant := by
  obtain ⟨_, e⟩ | ⟨r, _, e⟩ := mirrorGrant_cases s
  · rw [e]; exact .refl s
  · rw [e]; exact ((kept_takeRecord s r).trans (kept_writeWords _ _)).trans (kept_served _ _)

theorem kept_judgeThreshold : Kept s s.judgeThreshold := by
  unfold State.judgeThreshold
  exact kept_ite s _ (fun _ => kept_setDsp s _) (fun _ => .refl s)

/-- A published notice is no longer held, so the notices that count are fewer. -/
theorem kept_publish : Kept s s.publish := by
  unfold State.publish
  split
  case h_1 => exact .refl s
  case h_2 n _ =>
    have fewer : Kept s { s with held := none, writeIx := s.writeIx + BitVec.ofNat 10 n.length } :=
      .aside rfl rfl rfl id (Nat.le_add_right _ _) id
    exact ((fewer.trans (kept_markDirty _ _)).trans (kept_setDsp _ _)).trans (kept_judgeThreshold _)

theorem kept_endGrant : Kept s s.endGrant := by
  obtain ⟨_, e⟩ | ⟨g, _, e⟩ := endGrant_cases s
  · rw [e]; exact .refl s
  · have free : Kept s { s with noticeGrant := none } := .apart rfl rfl rfl rfl rfl rfl rfl
    have written := free.trans (kept_writeWords _ g.words)
    rw [e]
    exact kept_ite s _ (fun _ => written.trans (kept_publish _)) (fun _ => written)

theorem kept_beginGrant : Kept s s.beginGrant := by
  unfold State.beginGrant
  split
  · exact .refl s
  · exact .apart rfl rfl rfl rfl rfl rfl rfl

theorem kept_serveAhead : Kept s s.serveAhead := by
  unfold State.serveAhead
  split
  · exact kept_mirrorGrant s
  · exact (kept_beginGrant s).trans (kept_endGrant _)
  · exact .refl s
  · exact .refl s

theorem kept_awaitPort : Kept s s.awaitPort :=
  ((kept_endGrant s).trans (kept_serveAhead _)).trans (kept_serveAhead _)

theorem kept_arbitrate : Kept s s.arbitrate := by
  unfold State.arbitrate
  exact kept_ite s _ (fun _ => kept_beginGrant s) (fun _ => .refl s)

theorem kept_mirrorWrite : Kept s s.mirrorWrite := by
  unfold State.mirrorWrite
  exact kept_ite s _ (fun _ => (kept_mirrorGrant s).trans (kept_arbitrate _)) (fun _ => .refl s)

/-- The front notice is held in place of staged, or dropped: no more notices count than before. -/
theorem kept_noticeAdmission : Kept s s.noticeAdmission := by
  unfold State.noticeAdmission
  split
  case isTrue => exact .refl s
  case isFalse working =>
  split
  case h_1 => exact .refl s
  case h_2 n rest front =>
  refine kept_ite s _ (fun _ => ?_) (fun _ => ?_)
  · have taken : Kept s { s with staging := rest, held := some n } :=
      .aside rfl rfl rfl id (by simp [State.staged, front]) id
    exact taken.trans (kept_arbitrate _)
  · have dropped : Kept s { s with staging := rest } :=
      .aside rfl rfl rfl id (by simp [State.staged, front]) id
    exact dropped.trans (kept_setDsp _ _)

theorem kept_noticePublish : Kept s s.noticePublish := by
  unfold State.noticePublish
  exact kept_ite s _ (fun _ => (kept_endGrant s).trans (kept_arbitrate _)) (fun _ => .refl s)

/-- RESET_NOTICES stages the held notice again: as many notices count as before. -/
theorem kept_resetNotices : Kept s s.resetNotices := by
  have back : Kept s { s with
      writeIx := 0, readIx := 0, held := none, staging := s.held.toList ++ s.staging,
      noticeGrant := s.noticeGrant.map (fun g => { g with publish := false }) } := by
    refine .aside rfl rfl rfl id ?_ id
    cases h : s.held <;> simp [State.staged, h]
  exact ((back.trans (kept_markDirty _ _)).trans (kept_markDirty _ _)).trans (kept_notify _ _ _)

/-! ### Control words (R84, R162, R164, R165, R170) -/

theorem kept_tune (i : Fin 8) (v : Word) : Kept s (s.tune i v) := by
  have stored : Kept s (({ s with tuning := s.tuning.set i.val (tuningStored i v) } : State).markDirty
      (.control (.tuning i))) := .aside rfl rfl rfl id le_rfl (marks_insert _ _ _ rfl)
  exact kept_ite s _ (fun _ => stored.trans (kept_judgeThreshold _)) (fun _ => stored)

theorem kept_clearDsp (v : Word) : Kept s (s.clearDsp v) := by
  have cleared := kept_putDsp s (s.dspFlags &&& ~~~(v.setWidth 16 &&& ~~~s.heldPlaces))
  refine kept_ite s _ (fun _ => cleared.trans ?_) (fun _ => cleared)
  exact .aside rfl rfl rfl id le_rfl (marks_insert _ _ _ rfl)

/-- A word that the part stores and mirrors, and that none of the laws speaks of. -/
theorem kept_apart_markDirty (t : State) (r : MirrorRec) (slots : t.slots = s.slots) (load : t.load = s.load)
    (site : t.site = s.site) (mem : t.mem = s.mem) (staging : t.staging = s.staging) (held : t.held = s.held)
    (dirty : t.dirty = s.dirty) : Kept s (t.markDirty r) :=
  (Kept.apart slots load site mem staging held dirty).trans (kept_markDirty t r)

theorem kept_setDspMask (v : Word) : Kept s (s.setDspMask v) :=
  kept_apart_markDirty s _ _ rfl rfl rfl rfl rfl rfl rfl

theorem kept_setOpsMask (v : Word) : Kept s (s.setOpsMask v) :=
  kept_apart_markDirty s _ _ rfl rfl rfl rfl rfl rfl rfl

theorem kept_setGwyMask (v : Word) : Kept s (s.setGwyMask v) :=
  kept_apart_markDirty s _ _ rfl rfl rfl rfl rfl rfl rfl

theorem kept_takeReadIx (v : Word) : Kept s (s.takeReadIx v) :=
  kept_apart_markDirty s _ _ rfl rfl rfl rfl rfl rfl rfl

/-! ### Slots and commits (R59 to R67) -/

/-- A slot record whose route and end index stay in the ten entries of a draft. -/
theorem kept_setSlot (k : SlotIx) (r : Slot) (short : s.routeLaw → r.route.length ≤ 10 ∧ r.endIx ≤ 10) :
    Kept s (s.setSlot k r) where
  memory := id
  staging := id
  marks l := marks_if _ _ _ _ rfl (marks_if s ((({ s with slots := s.slots.set k.val r } : State)).markIf
    (r.statusWord != (s.slot k).statusWord) (.slotStatus k)) _ _ rfl l)
  route l j := by
    rw [slot_setSlot]
    split
    · exact short l
    · exact l j
  load := id
  site _ := id

theorem kept_setQueue (l : List SlotIx) : Kept s (s.setQueue l) := .apart rfl rfl rfl rfl rfl rfl rfl

theorem kept_leaveQueue (k : SlotIx) : Kept s (s.leaveQueue k) := kept_setQueue s _

/-- A captured route has at most the ten entries of a draft (R60). -/
theorem length_captured (d : Draft) : d.captured.length ≤ 10 := by
  refine (List.length_filterMap_le _ _).trans ?_
  simp [Draft.entries]

theorem kept_captureFleet (k : SlotIx) (x : ScrubIx) (m : AuthMode) : Kept s (s.captureFleet k x m) :=
  kept_setSlot s k _ fun l => ⟨length_captured _, (l k).2⟩

theorem kept_capturePassenger (k : SlotIx) : Kept s (s.capturePassenger k) :=
  kept_setSlot s k _ fun l => ⟨length_captured _, (l k).2⟩

/-- The end of a granted authority is the length of its route (R65). -/
theorem kept_grant (k : SlotIx) : Kept s (s.grant k) := by
  have held := (cm_takeHold (.refl s) k).kept
  have granted := kept_setSlot (s.takeHold k) k ((s.takeHold k).slot k).granted fun l => ⟨(l k).1, (l k).1⟩
  refine ((held.trans granted).trans (kept_leaveQueue _ k)).trans ?_
  exact (ev_notifySlot (ev_markSlotWords (ev_setLive (.refl _) _ _) k) _ _ _ _).kept

/-- The end of an activated passenger slot is the length of its route (R67). -/
theorem kept_activate (k : SlotIx) : Kept s (s.activate k) := by
  have held := (cm_takeHold (.refl s) k).kept
  have activated := kept_setSlot (s.takeHold k) k ((s.takeHold k).slot k).activated fun l => ⟨(l k).1, (l k).1⟩
  refine ((held.trans activated).trans (kept_leaveQueue _ k)).trans ?_
  exact (ev_notifySlot (ev_setOps (ev_markDirty (.refl _) _) _) _ _ _ _).kept

theorem kept_beginWaiting (k : SlotIx) (f : Result × Nat) (limit : Nat) : Kept s (s.beginWaiting k f limit) := by
  have waiting := kept_setSlot s k
    { s.slot k with state := .waiting, deadline := some (s.after (10 * limit)), result := f.1, failIx := f.2 }
    fun l => l k
  exact ((waiting.trans (kept_setQueue _ _)).trans (kept_markDirty _ _)).trans (kept_notify _ _ _)

theorem kept_refuseCommit (k : SlotIx) (f : Result × Nat) : Kept s (s.refuseCommit k f) :=
  (ev_refuseCommit (.refl s) k f).kept

theorem kept_commitFleet (k : SlotIx) (wait : Bool) : Kept s (s.commitFleet k wait) := by
  unfold State.commitFleet
  split
  case h_1 => exact kept_refuseCommit s k _
  case h_2 x m _ =>
  have captured := kept_captureFleet s k x m
  dsimp only
  split
  case h_1 => exact captured.trans (kept_grant _ k)
  case h_2 =>
    refine kept_ite s _ (fun _ => captured.trans ?_) (fun _ => kept_refuseCommit s k _)
    exact (ev_setLive (.refl _) _ _).kept.trans (kept_beginWaiting _ k _ _)

theorem kept_commitPassenger (k : SlotIx) : Kept s (s.commitPassenger k) := by
  unfold State.commitPassenger
  split
  case h_1 => exact kept_refuseCommit s k _
  case h_2 =>
  have captured := kept_capturePassenger s k
  dsimp only
  split
  case h_1 => exact captured.trans (kept_activate _ k)
  case h_2 f _ =>
    refine (captured.trans (kept_beginWaiting _ k f s.passengerWaitLimit)).trans ?_
    exact (ev_preempt (ev_foldl _ (fun _ g e => ev_addClaim e k g) _ (.refl _)) _).kept

theorem kept_commitWrite (k : SlotIx) (v : Word) : Kept s (s.commitWrite k v) :=
  kept_event s _ fun t =>
    kept_ite t _ (fun _ => kept_refuseCommit t k _) fun _ =>
    kept_ite t _ (fun _ => (ev_refuseOnly (.refl t) k _).kept) fun _ =>
    kept_ite t _ (fun _ => kept_refuseCommit t k _) fun _ =>
    kept_ite t _ (fun _ => kept_commitFleet t k _) fun _ => kept_commitPassenger t k

/-! ### Restart and the entry to SERVICE (R172, R177) -/

/-- The mirror records stand in rising order of their addresses. -/
theorem allRecords_rising : allRecords.Pairwise (fun a b => a.addr < b.addr) := by
  have chain : (allRecords.map MirrorRec.addr).IsChain (· < ·) := by decide +kernel
  exact List.pairwise_map.mp (List.isChain_iff_pairwise.mp chain)

theorem kept_restart (c : Cause) : Kept s (s.restart c) where
  memory := id
  staging _ := by rw [State.stagingLaw]; exact Nat.le_add_left 1 15
  marks _ := allRecords_rising
  route _ k := by simp [State.slot, State.restart]
  load _ h e := by cases e
  site _ _ m e := by cases e

theorem kept_restartWith (c : Cause) (f : InFlight) : Kept s (s.restartWith c f) :=
  ((kept_writeWords s _).trans (kept_restart _ c)).trans (.apart rfl rfl rfl rfl rfl rfl rfl)

theorem kept_enterService : Kept s s.enterService := by
  have mode : Kept s { s with mode := .service } := .apart rfl rfl rfl rfl rfl rfl rfl
  have wet (t : State) : Kept t t.restartWet := kept_foldl t _ (fun u g =>
    kept_ite u _ (fun _ => (cm_markWet (.refl u) g).kept) (fun _ => .refl u)) _
  exact (mode.trans (wet _)).trans (kept_notify _ _ _)

theorem kept_judgeService : Kept s s.judgeService := by
  unfold State.judgeService
  exact kept_ite s _ (fun _ => kept_enterService s) (fun _ => .refl s)

theorem kept_acknowledge : Kept s s.acknowledge := by
  have remembered : Kept s { s with ackRestart := true } := .apart rfl rfl rfl rfl rfl rfl rfl
  exact remembered.trans (kept_judgeService _)

theorem kept_reportEvent (c : CellIx) (v : Word) : Kept s (s.reportEvent c v) := by
  have emptied := (ev_setCell (.refl s) c {}).kept
  unfold State.reportEvent
  dsimp only
  split
  case h_1 => exact emptied.trans (ev_invalidReport (.refl _) c _).kept
  case h_2 x p _ =>
  refine kept_ite s _ (fun _ => emptied.trans (kept_notify _ _ _)) fun _ => (emptied.trans ?_).trans (kept_judgeService _)
  exact kept_event _ _ fun t => (ev_processReport (.refl t) x p _).kept

/-! ### Commands (R160, R161) -/

section Commands
variable {s} {t : State}

theorem kept_cmdAckRestart (h : s.cmdAckRestart = .ok t) : Kept s t := by
  unfold State.cmdAckRestart at h
  split at h
  · cases h; exact kept_acknowledge s
  · cases h

theorem kept_cmdWithdraw (f : CmdFields) (h : s.cmdWithdraw f = .ok t) : Kept s t := by
  have leaves (x : ScrubIx) (g : Option SegIx) : Kept s (s.withdraw x g).judgeService :=
    (ev_withdraw (.refl s) x g).kept.trans (kept_judgeService _)
  unfold State.cmdWithdraw at h
  split at h
  · cases h
  split at h
  · cases h
  split at h
  · cases h
  split at h
  · cases h; exact leaves _ none
  split at h
  · cases h
  · cases h; exact leaves _ (some _)

theorem kept_cmdReadmit (f : CmdFields) (h : s.cmdReadmit f = .ok t) : Kept s t := by
  unfold State.cmdReadmit at h
  split at h
  · cases h
  split at h
  · cases h
  split at h
  · cases h; exact (ev_readmit (.refl s) _).kept
  · cases h

theorem kept_cmdClearViolation (f : CmdFields) (h : s.cmdClearViolation f = .ok t) : Kept s t := by
  unfold State.cmdClearViolation at h
  split at h
  · cases h
  split at h
  · cases h
  split at h
  · cases h; exact (ev_liftMark (.refl s) _).kept.trans (kept_judgeService _)
  · cases h

theorem kept_cmdCloseSegment (i : Issuer) (f : CmdFields) (h : s.cmdCloseSegment i f = .ok t) : Kept s t := by
  unfold State.cmdCloseSegment at h
  split at h
  · cases h
  split at h
  · cases h
  · cases h; exact (ev_closeSegment (.refl s) i _).kept

theorem kept_cmdReopenSegment (i : Issuer) (f : CmdFields) (h : s.cmdReopenSegment i f = .ok t) : Kept s t := by
  unfold State.cmdReopenSegment at h
  split at h
  · cases h
  split at h
  · cases h
  split at h
  · cases h; exact (ev_reopenSegment (.refl s) i _).kept
  · cases h

theorem kept_cmdCloseZone (f : CmdFields) (h : s.cmdCloseZone f = .ok t) : Kept s t := by
  unfold State.cmdCloseZone at h
  split at h
  · cases h
  split at h
  · cases h
  · cases h; exact (ev_closeZone (.refl s) _).kept

theorem kept_cmdReopenZone (f : CmdFields) (h : s.cmdReopenZone f = .ok t) : Kept s t := by
  unfold State.cmdReopenZone at h
  split at h
  · cases h
  split at h
  · cases h
  · cases h; exact (ev_reopenZone (.refl s) _).kept

theorem kept_cmdReseedZone (f : CmdFields) (h : s.cmdReseedZone f = .ok t) : Kept s t := by
  unfold State.cmdReseedZone at h
  split at h
  · cases h
  split at h
  · cases h
  split at h
  · cases h; exact (ev_event _ (fun _ e => ev_reseed e _) (.refl s)).kept
  · cases h

theorem kept_cmdResetNotices (h : s.cmdResetNotices = .ok t) : Kept s t := by
  unfold State.cmdResetNotices at h
  split at h
  · cases h
  · cases h; exact kept_resetNotices s

theorem kept_cmdReloadSite (h : s.cmdReloadSite = .ok t) : Kept s t := by
  unfold State.cmdReloadSite at h
  split at h
  · cases h; exact kept_restart s _
  split at h
  · split at h
    · cases h; exact kept_restart s _
    · cases h
  · cases h

theorem kept_cmdOf (i : Issuer) (code : Nat) (f : CmdFields) (h : s.cmdOf i code f = .ok t) : Kept s t := by
  unfold State.cmdOf at h
  split at h
  · exact kept_cmdAckRestart h
  · exact kept_cmdWithdraw f h
  · exact kept_cmdReadmit f h
  · exact kept_cmdClearViolation f h
  · exact kept_cmdCloseSegment i f h
  · exact kept_cmdReopenSegment i f h
  · exact kept_cmdCloseZone f h
  · exact kept_cmdReopenZone f h
  · exact kept_cmdReseedZone f h
  · exact kept_cmdResetNotices h
  · exact kept_cmdReloadSite h
  · cases h

end Commands

theorem kept_setResultRec (i : Issuer) (r : CmdResult) : Kept s (s.setResultRec i r) := by
  cases i
  · exact .aside rfl rfl rfl id le_rfl (marks_insert _ _ _ rfl)
  · exact .aside rfl rfl rfl id le_rfl (marks_insert _ _ _ rfl)

theorem kept_flagRefused (i : Issuer) : Kept s (s.flagRefused i) := by
  cases i
  · exact kept_setDsp s _
  · exact kept_setOps s _

theorem kept_issue (i : Issuer) (code : Byte) (f : CmdFields) : Kept s (s.issue i code f) := by
  unfold State.issue
  split
  case h_1 t taken =>
    have done : Kept s t := by
      split at taken
      · exact kept_cmdOf i _ f taken
      · cases taken
    exact kept_ite s _ (fun _ => done) (fun _ => done.trans (kept_setResultRec t i _))
  case h_2 =>
    exact ((kept_setResultRec s i _).trans (kept_flagRefused _ i)).trans (kept_notify _ _ _)

/-! ### Accesses (R18 to R33) -/

theorem kept_watchedCopy (p : Place) (v : Word) : Kept s (s.watchedCopy p v) := by
  cases p with
  | cell c w =>
    unfold State.watchedCopy
    dsimp only
    split
    · exact (ev_cellWrite (.refl s) c _ v).kept
    · exact kept_reportEvent s c v
  | figure z m =>
    exact kept_ite s _ (fun _ => (ev_moisture (.refl s) z _).kept) (fun _ => (ev_zoneSample (.refl s) z _).kept)
  | slot k w =>
    unfold State.watchedCopy
    dsimp only
    split
    · exact (ev_draftWrite (.refl s) k _ v).kept
    · exact .refl s
  | general | control | segView | scrubView | ring => exact .refl s

theorem kept_controlWrite (c : CtlWord) (v : Word) : Kept s (s.controlWrite c v) := by
  cases c with
  | dspCommand => exact kept_issue s .dispatch _ _
  | opsCommand => exact kept_issue s .operations _ _
  | tuning i => exact kept_tune s i v
  | dspClear => exact kept_clearDsp s v
  | opsClear => exact kept_putOps s _
  | dspMask => exact kept_setDspMask s v
  | opsMask => exact kept_setOpsMask s v
  | gwyMask => exact kept_setGwyMask s v
  | readIx => exact kept_takeReadIx s v
  | mode | clock | changedSlots | dspResult | opsResult | dspStatus | opsStatus | writeIx | refused | unassigned =>
    exact .refl s

theorem kept_actedWrite (p : Place) (v : Word) : Kept s (s.actedWrite p v) := by
  cases p with
  | control c => exact kept_controlWrite s c v
  | slot k w =>
    exact kept_ite s _ (fun _ => kept_commitWrite s k v) fun _ =>
      kept_ite s _ (fun _ => (ev_cancelWrite (.refl s) k v).kept) (fun _ => .refl s)
  | general | cell | figure | segView | scrubView | ring => exact .refl s

theorem kept_handoverRead (t : Tag) (p : Place) : Kept s (s.handoverRead t p) := by
  cases p with
  | slot k w => exact kept_ite s _ (fun _ => (ev_gatewayHandover (.refl s) k).kept) (fun _ => .refl s)
  | general | control | cell | figure | segView | scrubView | ring => exact .refl s

theorem kept_fillCapture (a : Access) : Kept s (s.fillCapture a) := by
  unfold State.fillCapture
  split
  · exact .refl s
  · exact .aside rfl rfl rfl id le_rfl (marks_insert _ _ _ rfl)

theorem kept_deny (a : Access) : Kept s (s.deny a) := by
  have flagged : Kept s (match a.tag with
      | .operations => s.setOps .accessRefused
      | .dispatch | .gateway | .three => s.setDsp .accessRefused) := by
    cases a.tag with
    | operations => exact kept_setOps s _
    | dispatch | gateway | three => exact kept_setDsp s _
  exact (flagged.trans (kept_fillCapture _ a)).trans (kept_answered _ _)

theorem kept_promote (r : MirrorRec) : Kept s (s.promote r) :=
  kept_ite s _ (fun _ => .refl s) (fun _ => .apart rfl rfl rfl rfl rfl rfl rfl)

theorem kept_fetch (l : List (BitVec 18)) : Kept s (s.fetch l) := by
  unfold State.fetch
  dsimp only
  refine Kept.trans ?_ ((kept_served _ _).trans (kept_answered _ _))
  exact kept_ite s _ (fun _ => .refl s) (fun _ => kept_setDsp s _)

theorem kept_carryOut (a : Access) (f : Fate) : Kept s (s.carryOut a f) := by
  cases f with
  | notReady => exact kept_answered s _
  | denied => exact kept_deny s a
  | badParity => exact kept_answered s _
  | pass l => exact ((kept_writeWords s l).trans (kept_served _ _)).trans (kept_answered _ _)
  | watch v => exact ((kept_writeWord s _ v).trans (kept_served _ _)).trans (kept_answered _ _)
  | act v => exact (kept_actedWrite s _ v).trans (kept_answered _ _)
  | substitute => exact (kept_handoverRead s _ _).trans (kept_answered _ _)
  | shut => exact (kept_handoverRead s _ _).trans (kept_answered _ _)
  | dirtyRead r => exact (kept_promote s r).trans (kept_answered _ _)
  | fetch l => exact kept_fetch s l

theorem kept_handOver (a : Access) (f : Fate) : Kept s (s.handOver a f) := by
  cases f with
  | watch v => exact kept_watchedCopy s _ v
  | notReady | denied | badParity | pass | act | substitute | shut | dirtyRead | fetch => exact .refl s

theorem kept_busAccess (a : Access) : Kept s (s.busAccess a) := by
  have flagged : Kept s (s.flagParity (s.busParityFails a)) :=
    kept_ite s _ (fun _ => kept_setDsp s _) (fun _ => .refl s)
  have judged := flagged.trans (kept_handOver _ a (s.fateOf a))
  have turn (ready : Bool) (t : State) : Kept t (t.atTurn ready) :=
    kept_ite t _ (fun _ => .refl t) (fun _ => kept_awaitPort t)
  refine kept_ite s _ (fun _ => ?_) (fun _ => judged.trans (kept_carryOut _ a _))
  exact ((judged.trans (turn _ _)).trans (kept_carryOut _ a _)).trans (kept_arbitrate _)

theorem kept_planBusAccess (a : Access) (upsets : List (BitVec 20)) : Kept s ((s.upset upsets).busAccess a) := by
  have upset : Kept s (s.upset upsets) := .apart rfl rfl rfl rfl rfl rfl rfl
  exact upset.trans (kept_busAccess _ a)

theorem kept_reloadSite (cut : PortCut) (a : Access) : Kept s ((s.cutForReload cut).busAccess a) := by
  have written : Kept s (s.cutForReload cut) := kept_ite s _ (fun _ => kept_writeWords s _) (fun _ => .refl s)
  exact written.trans (kept_busAccess _ a)

/-! ### The load (R13 to R17) -/

/-- A load that has ended keeps no header. -/
theorem kept_failLoad (f : SiteFault) : Kept s (s.failLoad f) where
  memory := id
  staging := id
  marks := id
  route := id
  load _ h e := by cases e
  site _ := id

/-- A header that has passed its checks names 1 to 255 segments and at most 32 zones (R14, 3). -/
theorem counts_of_headerCheck (h : List Byte) (passes : headerCheck h = none) : byteOf h 5 ≠ 0 ∧ byteOf h 6 ≤ 32 := by
  rw [headerCheck_eq] at passes
  split at passes
  · cases passes
  split at passes
  · cases passes
  split at passes
  · cases passes
  · omega

theorem byteOf_wholeImage (h store : List Byte) (i : Nat) (hi : i < h.length) :
    byteOf (wholeImage h store) i = byteOf h i := by
  simp [byteOf, wholeImage, List.getElem?_append_left hi, hi]

/-- Under a kept header that has passed its checks an image that passes has a sound site model (R1). -/
theorem sound_of_load (h store : List Byte) (law : s.loadLaw) (body : s.load = .body h)
    (passes : imageFault (wholeImage h store) = none) : (siteOf (wholeImage h store)).sound := by
  obtain ⟨length, header⟩ := law h body
  obtain ⟨n, z⟩ := counts_of_headerCheck h header
  refine siteOf_sound _ ?_ ?_ passes
  · rw [byteOf_wholeImage h store 5 (by omega)]; exact n
  · rw [byteOf_wholeImage h store 6 (by omega)]; exact z

theorem kept_install (m : Site) (sound : s.loadLaw → m.sound) : Kept s (s.install m) := by
  have installed : Kept s { s with site := some m, mode := .initialising, load := .idle } :=
    ⟨id, id, id, id, fun _ h e => (by cases e), fun l _ n e => (by cases e; exact sound l)⟩
  refine installed.trans (ev_foldl _ (fun t x e => ?_) _ (.refl _)).kept
  exact ev_ite _ (fun _ => ev_setScrub e x _) (fun _ => e)

theorem kept_headerIn (store : List Byte) : Kept s (s.headerIn store) := by
  unfold State.headerIn
  refine kept_ite s _ (fun _ => ?_) (fun _ => .refl s)
  dsimp only
  split
  case h_1 => exact kept_failLoad s _
  case h_2 passes =>
    exact ⟨id, id, id, id, fun _ h e => (by cases e; exact ⟨length_takeBytes store 24, passes⟩), fun _ => id⟩

theorem kept_imageIn (store : List Byte) : Kept s (s.imageIn store) := by
  cases body : s.load with
  | idle => rw [State.imageIn, body]; exact .refl s
  | header => rw [State.imageIn, body]; exact .refl s
  | body h =>
    by_cases now : s.mode = .loading ∧ s.lineHeld = false
    · obtain ⟨loading, released⟩ := now
      cases verdict : imageFault (wholeImage h store) with
      | some f => rw [imageIn_refused s store h loading released body f verdict]; exact kept_failLoad s f
      | none =>
        rw [imageIn_installed s store h loading released body verdict]
        exact kept_install s _ fun law => sound_of_load s h store law body verdict
    · simp only [State.imageIn, body, if_neg now]; exact .refl s

theorem kept_flushEnd : Kept s s.flushEnd :=
  kept_ite s _ (fun _ => .apart rfl rfl rfl rfl rfl rfl rfl) (fun _ => .refl s)

theorem kept_tick : Kept s s.tick :=
  kept_ite s _ (fun _ => .refl s) (fun _ => .apart rfl rfl rfl rfl rfl rfl rfl)

/-! ### Every command -/

theorem kept_exec (c : Instr) (t : State) (h : exec c s = .next t) : Kept s t := by
  cases c with
  | power f => cases h; exact kept_restartWith s .power f
  | line f => cases h; exact (kept_restartWith s .line f).trans (.apart rfl rfl rfl rfl rfl rfl rfl)
  | resetRelease => cases h; exact .apart rfl rfl rfl rfl rfl rfl rfl
  | headerRead store => cases h; exact kept_headerIn s store
  | siteLoadComplete store => cases h; exact kept_imageIn s store
  | flushEnd => cases h; exact kept_flushEnd s
  | planBusAccess a upsets => cases h; exact kept_planBusAccess s a upsets
  | reloadSite f cut => cases h; exact kept_reloadSite s cut _
  | confirmOverdue k => cases h; exact (ev_confirmExpiry (.refl s) _).kept
  | shortenOverdue k => cases h; exact (ev_shortenExpiry (.refl s) _).kept
  | waitExpired k => cases h; exact (ev_waitExpiry (.refl s) k).kept
  | scrubberLost x => cases h; exact (ev_lostExpiry (.refl s) x).kept
  | dryingExpiry g => cases h; exact (ev_dryingExpiry (.refl s) g).kept
  | quietTimerExpiry z => cases h; exact (ev_quietExpiry (.refl s) z).kept
  | zoneStale z => cases h; exact (ev_staleExpiry (.refl s) z).kept
  | stuckTimerExpiry z => cases h; exact (ev_stuckExpiry (.refl s) z).kept
  | haltTimerExpiry z => cases h; exact (ev_haltExpiry (.refl s) z).kept
  | noticeAdmission => cases h; exact kept_noticeAdmission s
  | noticePublish => cases h; exact kept_noticePublish s
  | mirrorRecordWrite => cases h; exact kept_mirrorWrite s
  | interlockClockTick => cases h; exact kept_tick s
  | _ => cases h; exact kept_busAccess s _

end Operations

/-- Settles O56: a step is an idle one or one command run on the rest of the queue, and every command keeps the laws. -/
theorem structuralLawsAreKept : Obligations.StructuralLawsAreKept := by
  intro s t h
  have kept : Kept s t := by
    unfold step at h
    split at h
    case h_1 => cases h; exact .refl s
    case h_2 c rest _ =>
      have queued : Kept s { s with pending := rest } := .apart rfl rfl rfl rfl rfl rfl rfl
      exact queued.trans (kept_exec _ c t h)
  exact ⟨kept.memory, kept.staging, kept.marks, kept.route, kept.load, kept.site⟩

end Sys2Proof.Machine
end

section
/-! SUPPORT. What the events at the core, the tracker, the drying unit and the zone monitor are made of: stores of table
records and marks, and no word of plan memory. Each event is a run of such moves; `R` says what a store of a slot record
may do to it. -/
namespace Sys2Proof.Machine
open Sys2Proof
set_option Elab.async false

/-- A run of stores of table records, lists, flags and marks, in which every slot record that is stored stands in R to
the record before it. -/
inductive Moves (R : Slot → Slot → Prop) : State → State → Prop where
  | refl (s : State) : Moves R s s
  | seg {s t : State} (h : Moves R s t) (g : SegIx) (r : Seg) : Moves R s (t.setSeg g r)
  | slot {s t : State} (h : Moves R s t) (k : SlotIx) (r : Slot) (change : R (t.slot k) r) : Moves R s (t.setSlot k r)
  | scrub {s t : State} (h : Moves R s t) (x : ScrubIx) (r : Scrubber) : Moves R s (t.setScrub x r)
  | pinch {s t : State} (h : Moves R s t) (p : PinchIx) (r : Pinch) : Moves R s (t.setPinch p r)
  | zone {s t : State} (h : Moves R s t) (z : ZoneIx) (r : Zone) : Moves R s (t.setZone z r)
  | cell {s t : State} (h : Moves R s t) (c : CellIx) (r : CellCapture) : Moves R s (t.setCell c r)
  | drying {s t : State} (h : Moves R s t) (l : List DryEntry) : Moves R s (t.setDrying l)
  | queue {s t : State} (h : Moves R s t) (l : List SlotIx) : Moves R s (t.setQueue l)
  | staging {s t : State} (h : Moves R s t) (l : List Notice) : Moves R s (t.setStaging l)
  | noteFreeing {s t : State} (h : Moves R s t) : Moves R s t.noteFreeing
  | clearFreeing {s t : State} (h : Moves R s t) : Moves R s t.clearFreeing
  | markDirty {s t : State} (h : Moves R s t) (r : MirrorRec) : Moves R s (t.markDirty r)
  | setDsp {s t : State} (h : Moves R s t) (f : DspFlag) : Moves R s (t.setDsp f)
  | setOps {s t : State} (h : Moves R s t) (f : OpsFlag) : Moves R s (t.setOps f)

/-- The draft stays, and a slot that is live after the change was live before it and keeps its route (R58, R60). -/
structure Slot.KeepsRoute (r t : Slot) : Prop where
  draft : t.draft = r.draft
  live : t.state ≠ .idle → r.state ≠ .idle ∧ t.route = r.route

theorem Slot.keepsRoute_same {r t : Slot} (draft : t.draft = r.draft) (state : t.state = r.state)
    (route : t.route = r.route) : r.KeepsRoute t := ⟨draft, fun h => ⟨state ▸ h, route⟩⟩

theorem Slot.keepsRoute_of_live {r t : Slot} (live : r.state ≠ .idle) (draft : t.draft = r.draft := by rfl)
    (route : t.route = r.route := by rfl) : r.KeepsRoute t := ⟨draft, fun _ => ⟨live, route⟩⟩

theorem Slot.keepsRoute_idle {r t : Slot} (draft : t.draft = r.draft) (idle : t.state = .idle) : r.KeepsRoute t :=
  ⟨draft, fun h => absurd idle h⟩

theorem Moves.weaken {R Q : Slot → Slot → Prop} (h : ∀ r t, R r t → Q r t) {s t : State} (m : Moves R s t) :
    Moves Q s t := by
  induction m with
  | refl => exact .refl _
  | seg _ g r ih => exact ih.seg g r
  | slot _ k r c ih => exact ih.slot k r (h _ _ c)
  | scrub _ x r ih => exact ih.scrub x r
  | pinch _ p r ih => exact ih.pinch p r
  | zone _ z r ih => exact ih.zone z r
  | cell _ c r ih => exact ih.cell c r
  | drying _ l ih => exact ih.drying l
  | queue _ l ih => exact ih.queue l
  | staging _ l ih => exact ih.staging l
  | noteFreeing _ ih => exact ih.noteFreeing
  | clearFreeing _ ih => exact ih.clearFreeing
  | markDirty _ r ih => exact ih.markDirty r
  | setDsp _ f ih => exact ih.setDsp f
  | setOps _ f ih => exact ih.setOps f

theorem Moves.trans {R : Slot → Slot → Prop} {s t u : State} (a : Moves R s t) (b : Moves R t u) : Moves R s u := by
  induction b with
  | refl => exact a
  | seg _ g r ih => exact ih.seg g r
  | slot _ k r c ih => exact ih.slot k r c
  | scrub _ x r ih => exact ih.scrub x r
  | pinch _ p r ih => exact ih.pinch p r
  | zone _ z r ih => exact ih.zone z r
  | cell _ c r ih => exact ih.cell c r
  | drying _ l ih => exact ih.drying l
  | queue _ l ih => exact ih.queue l
  | staging _ l ih => exact ih.staging l
  | noteFreeing _ ih => exact ih.noteFreeing
  | clearFreeing _ ih => exact ih.clearFreeing
  | markDirty _ r ih => exact ih.markDirty r
  | setDsp _ f ih => exact ih.setDsp f
  | setOps _ f ih => exact ih.setOps f

theorem Moves.outside {R : Slot → Slot → Prop} {s t : State} (m : Moves R s t) : t.outside = s.outside := by
  induction m with
  | refl => rfl
  | _ => assumption

section Runs
variable {R : Slot → Slot → Prop} {s t : State}

theorem mv_ite (c : Prop) [Decidable c] {a b : State} (ha : c → Moves R s a) (hb : ¬ c → Moves R s b) :
    Moves R s (if c then a else b) := by
  split
  · exact ha ‹_›
  · exact hb ‹_›

theorem mv_foldl {α : Type} (f : State → α → State) (hf : ∀ t a, Moves R s t → Moves R s (f t a)) (l : List α)
    (h : Moves R s t) : Moves R s (l.foldl f t) := by
  induction l generalizing t with
  | nil => exact h
  | cons a l ih => exact ih (hf t a h)

/-! ### Notices, flags and the pinch table -/

theorem mv_stage (h : Moves R s t) (n : Notice) : Moves R s (t.stage n) :=
  mv_ite _ (fun _ => h.setDsp _) (fun _ => h.staging _)

theorem mv_notify (h : Moves R s t) (kind : NoticeKind) (p : List Word) : Moves R s (t.notify kind p) :=
  mv_ite _ (fun _ => h) (fun _ => mv_stage h _)

theorem mv_notifySlot (h : Moves R s t) (kind : NoticeKind) (k : SlotIx) (b c : Nat) :
    Moves R s (t.notifySlot kind k b c) := mv_notify h _ _

theorem mv_raising (f : State → State) (hf : Moves R s (f t)) : Moves R s (t.raising f) :=
  mv_ite _ (fun _ => hf.setDsp _) (fun _ => hf)

theorem mv_refreshPinch (h : Moves R s t) (p : PinchIx) (gain : Option ScrubIx) :
    Moves R s (t.refreshPinch p gain) := by
  unfold State.refreshPinch
  split
  · split
    · exact h
    · exact h.pinch _ _
  · refine mv_ite _ (fun _ => h.pinch _ _) (fun _ => ?_)
    split
    · exact (h.pinch _ _).noteFreeing
    · exact (h.pinch _ _).noteFreeing

theorem mv_refreshPinchOf (h : Moves R s t) (g : SegIx) (gain : Option ScrubIx) :
    Moves R s (t.refreshPinchOf g gain) := by
  unfold State.refreshPinchOf
  split
  · exact h
  · exact mv_refreshPinch h _ _

/-! ### The floor (R40 to R46) -/

theorem mv_dropEntry (h : Moves R s t) (g : SegIx) : Moves R s (t.dropEntry g) := h.drying _

theorem mv_markWet (h : Moves R s t) (g : SegIx) : Moves R s (t.markWet g) := (h.drying _).seg _ _

theorem mv_setOccupant (h : Moves R s t) (x : ScrubIx) (g : SegIx) : Moves R s (t.setOccupant x g) := by
  unfold State.setOccupant
  split
  · exact h
  · exact mv_refreshPinchOf (h.seg _ _) _ _

theorem mv_clearOccupant (h : Moves R s t) (x : ScrubIx) (g : SegIx) : Moves R s (t.clearOccupant x g) :=
  mv_ite _ (fun _ => mv_refreshPinchOf (h.seg _ _).noteFreeing _ _) (fun _ => h)

theorem mv_suspendWet (h : Moves R s t) (g : SegIx) : Moves R s (t.suspendWet g) := by
  unfold State.suspendWet
  split
  · exact h
  · exact ((mv_dropEntry h g).seg _ _).noteFreeing

theorem mv_takeFleet (h : Moves R s t) (k : SlotIx) (e : SegIx × Nat) : Moves R s (t.takeFleet k e) :=
  have held := mv_refreshPinchOf (h.seg _ _) _ _
  mv_ite _ (fun _ => mv_suspendWet held _) (fun _ => held)

theorem mv_removeClaim (h : Moves R s t) (k : SlotIx) (g : SegIx) : Moves R s (t.removeClaim k g) :=
  mv_ite _ (fun _ => (h.seg _ _).noteFreeing) (fun _ => h)

theorem mv_addClaim (h : Moves R s t) (k : SlotIx) (g : SegIx) : Moves R s (t.addClaim k g) := h.seg _ _

theorem mv_takePassenger (h : Moves R s t) (k : SlotIx) (g : SegIx) : Moves R s (t.takePassenger k g) :=
  mv_removeClaim (h.seg _ _) k g

theorem mv_takeHold (h : Moves R s t) (k : SlotIx) : Moves R s (t.takeHold k) :=
  mv_ite _ (fun _ => mv_foldl _ (fun _ e m => mv_takeFleet m k e) _ h)
    (fun _ => mv_foldl _ (fun _ g m => mv_takePassenger m k g) _ h)

theorem mv_release (h : Moves R s t) (k : SlotIx) (wet : Bool) (g : SegIx) : Moves R s (t.release k wet g) := by
  refine mv_ite _ (fun _ => ?_) (fun _ => h)
  have freed := (h.seg g { t.seg g with holder := none, pendingRel := false }).noteFreeing
  have counted := mv_ite (isFleet k = true) (fun _ => mv_refreshPinchOf freed g none) (fun _ => freed)
  exact mv_ite _ (fun _ => mv_markWet (counted.seg _ _) g)
    (fun _ => mv_ite _ (fun _ => mv_markWet counted g) (fun _ => counted))

theorem mv_releaseWhere (h : Moves R s t) (k : SlotIx) (pick : SegIx × Nat → Bool) :
    Moves R s (t.releaseWhere k pick) := mv_foldl _ (fun _ e m => mv_release m k _ e.1) _ h

theorem mv_releaseAll (h : Moves R s t) (k : SlotIx) : Moves R s (t.releaseAll k) := mv_releaseWhere h k _

theorem mv_markPending (h : Moves R s t) (k : SlotIx) (i : Nat) : Moves R s (t.markPending k i) :=
  mv_foldl _ (fun _ e m => m.seg e.1 _) _ h

theorem mv_setClosure (h : Moves R s t) (g : SegIx) (c : Closure) : Moves R s (t.setClosure g c) :=
  mv_ite _ (fun _ => (h.seg _ _).noteFreeing) (fun _ => h.seg _ _)

theorem mv_dropClaims (h : Moves R s t) (k : SlotIx) : Moves R s (t.dropClaims k) :=
  mv_foldl _ (fun _ g m => mv_removeClaim m k g) _ h

theorem mv_leaveQueue (h : Moves R s t) (k : SlotIx) : Moves R s (t.leaveQueue k) := h.queue _

theorem mv_markSlotWords (h : Moves R s t) (k : SlotIx) : Moves R s (t.markSlotWords k) :=
  (h.markDirty _).markDirty _

theorem mv_setLive (h : Moves R s t) (x : Option ScrubIx) (k : Option FleetIx) : Moves R s (t.setLive x k) := by
  cases x with
  | none => exact h
  | some x => exact h.scrub x _

theorem mv_clearLiveOf (h : Moves R s t) (k : SlotIx) : Moves R s (t.clearLiveOf k) :=
  mv_ite _ (fun _ => mv_setLive h _ _) (fun _ => h)

theorem mv_setMark (h : Moves R s t) (x : ScrubIx) : Moves R s (t.setMark x) := mv_raising _ (h.scrub x _)

theorem mv_shortenedNotice (h : Moves R s t) (k : SlotIx) : Moves R s (t.shortenedNotice k) :=
  mv_notifySlot (h.markDirty _) _ _ _ _

theorem mv_confirmedNotice (h : Moves R s t) (k : SlotIx) : Moves R s (t.confirmedNotice k) :=
  mv_notifySlot (h.markDirty _) _ _ _ _

end Runs

/-! ### Slots -/

section Slots
variable {s t : State}

/-- A store that leaves a slot's draft, state and route. -/
theorem mv_keepSlot (h : Moves Slot.KeepsRoute s t) (k : SlotIx) (r : Slot)
    (draft : r.draft = (t.slot k).draft := by rfl) (state : r.state = (t.slot k).state := by rfl)
    (route : r.route = (t.slot k).route := by rfl) :
    Moves Slot.KeepsRoute s (t.setSlot k r) := h.slot k r (Slot.keepsRoute_same draft state route)

theorem mv_setChanged (h : Moves Slot.KeepsRoute s t) (k : SlotIx) : Moves Slot.KeepsRoute s (t.setChanged k) :=
  mv_ite _ (fun _ => mv_keepSlot h k _) (fun _ => h)

theorem mv_setResult (h : Moves Slot.KeepsRoute s t) (k : SlotIx) (r : Result) (i : Nat) :
    Moves Slot.KeepsRoute s (t.setResult k r i) := mv_keepSlot h k _

theorem mv_clearOverdue (h : Moves Slot.KeepsRoute s t) (k : SlotIx) : Moves Slot.KeepsRoute s (t.clearOverdue k) :=
  mv_keepSlot h k _

theorem mv_toIdle (h : Moves Slot.KeepsRoute s t) (k : SlotIx) (res : Result) (i : Nat) :
    Moves Slot.KeepsRoute s (t.toIdle k res i) := by
  have idle := mv_markSlotWords (h.slot k ((t.slot k).toIdle res i) (Slot.keepsRoute_idle rfl rfl)) k
  exact mv_ite _ (fun _ => mv_setChanged idle k) (fun _ => idle)

theorem mv_endSlot (h : Moves Slot.KeepsRoute s t) (k : SlotIx) (res : Result) :
    Moves Slot.KeepsRoute s (t.endSlot k res) := mv_clearLiveOf (mv_notifySlot (mv_toIdle h k res 0) _ _ _ _) k

theorem mv_releaseAndEnd (h : Moves Slot.KeepsRoute s t) (k : SlotIx) (res : Result) :
    Moves Slot.KeepsRoute s (t.releaseAndEnd k res) := mv_endSlot (mv_releaseAll h k) k res

theorem mv_giveUp (h : Moves Slot.KeepsRoute s t) (k : SlotIx) (res : Result) :
    Moves Slot.KeepsRoute s (t.giveUp k res) := mv_endSlot (mv_clearOverdue (mv_releaseAll h k) k) k res

theorem mv_grant {R : Slot → Slot → Prop} (h : Moves R s t) (k : SlotIx) (change : R (t.slot k) (t.slot k).granted) :
    Moves R s (t.grant k) := by
  have held := (mv_takeHold h k).slot k ((t.takeHold k).slot k).granted (by rw [slot_takeHold]; exact change)
  exact mv_notifySlot (mv_markSlotWords (mv_setLive (mv_leaveQueue held k) _ _) k) _ _ _ _

theorem mv_activate {R : Slot → Slot → Prop} (h : Moves R s t) (k : SlotIx)
    (change : R (t.slot k) (t.slot k).activated) : Moves R s (t.activate k) := by
  have held := (mv_takeHold h k).slot k ((t.takeHold k).slot k).activated (by rw [slot_takeHold]; exact change)
  exact mv_notifySlot (((mv_leaveQueue held k).markDirty _).setOps _) _ _ _ _

theorem mv_shorten (h : Moves Slot.KeepsRoute s t) (k : SlotIx) (e : Nat) : Moves Slot.KeepsRoute s (t.shorten k e) := by
  unfold State.shorten
  dsimp only
  refine mv_ite _ (fun _ => h) (fun short => ?_)
  have live : (t.slot k).state ≠ .idle := by
    intro idle
    simp [idle, SlotState.authority] at short
  refine mv_ite _ (fun _ => ?_) (fun _ => ?_)
  · refine mv_shortenedNotice ((mv_releaseWhere h k _).slot k _ ?_) k
    exact Slot.keepsRoute_same rfl rfl rfl
  · refine mv_shortenedNotice ((mv_markPending h k _).slot k _ ?_) k
    exact Slot.keepsRoute_of_live (by rw [slot_markPending]; exact live)

theorem mv_shortenHolder (h : Moves Slot.KeepsRoute s t) (g : SegIx) (except : Option SlotIx) :
    Moves Slot.KeepsRoute s (t.shortenHolder g except) := by
  unfold State.shortenHolder
  split
  · exact h
  · refine mv_ite _ (fun _ => ?_) (fun _ => h)
    split
    · exact mv_ite _ (fun _ => mv_shorten h _ _) (fun _ => h)
    · exact h

theorem mv_shortenToProgress (h : Moves Slot.KeepsRoute s t) (k : SlotIx) :
    Moves Slot.KeepsRoute s (t.shortenToProgress k) := mv_shorten h k _

theorem mv_shortenBefore (h : Moves Slot.KeepsRoute s t) (k : SlotIx) (want : SegIx → Bool) :
    Moves Slot.KeepsRoute s (t.shortenBefore k want) := by
  unfold State.shortenBefore
  split
  · exact mv_shorten h _ _
  · exact h

theorem mv_preempt (h : Moves Slot.KeepsRoute s t) (route : List SegIx) : Moves Slot.KeepsRoute s (t.preempt route) :=
  mv_foldl _ (fun _ _ m => mv_ite _ (fun _ => mv_shortenBefore m _ _) (fun _ => m)) _ h

theorem mv_endWaiting (h : Moves Slot.KeepsRoute s t) (k : SlotIx) (f : Result × Nat) :
    Moves Slot.KeepsRoute s (t.endWaiting k f) :=
  mv_notifySlot (mv_clearLiveOf (mv_toIdle (mv_leaveQueue h k) k _ _) k) _ _ _ _

theorem mv_reevalEntry (h : Moves Slot.KeepsRoute s t) (k : SlotIx) : Moves Slot.KeepsRoute s (t.reevalEntry k) := by
  refine mv_ite _ (fun _ => h) (fun waiting => ?_)
  have live : (t.slot k).state ≠ .idle := fun idle => waiting (by simp [idle])
  refine mv_ite _ (fun _ => ?_) (fun _ => ?_)
  · split
    · exact h
    split
    · exact mv_endWaiting h k _
    split
    · exact mv_grant h k (Slot.keepsRoute_of_live live)
    · exact mv_ite _ (fun _ => mv_setResult h k _ _) (fun _ => mv_endWaiting h k _)
  · split
    · exact mv_activate h k (Slot.keepsRoute_of_live live)
    · exact mv_setResult h k _ _

theorem mv_settle (h : Moves Slot.KeepsRoute s t) : Moves Slot.KeepsRoute s t.settle :=
  mv_ite _ (fun _ => (mv_foldl _ (fun _ k m => mv_reevalEntry m k) _ h).clearFreeing) (fun _ => h)

theorem mv_event (f : State → State) (hf : ∀ t, Moves Slot.KeepsRoute s t → Moves Slot.KeepsRoute s (f t))
    (h : Moves Slot.KeepsRoute s t) : Moves Slot.KeepsRoute s (t.event f) := mv_settle (hf _ h.clearFreeing)

theorem mv_refuseOnly (h : Moves Slot.KeepsRoute s t) (k : SlotIx) (r : Result) :
    Moves Slot.KeepsRoute s (t.refuseOnly k r) := mv_notifySlot h _ _ _ _

theorem mv_releasePassenger (h : Moves Slot.KeepsRoute s t) (k : SlotIx) :
    Moves Slot.KeepsRoute s (t.releasePassenger k) := mv_notifySlot (mv_toIdle (mv_releaseAll h k) k _ _) _ _ _ _

theorem mv_cancelSent (h : Moves Slot.KeepsRoute s t) (k : SlotIx) : Moves Slot.KeepsRoute s (t.cancelSent k) :=
  mv_ite _ (fun _ => mv_shortenToProgress h k)
    (fun _ => mv_ite _ (fun _ => mv_releaseAndEnd h k _) (fun _ => mv_refuseOnly h k _))

theorem mv_cancelLive (h : Moves Slot.KeepsRoute s t) (k : SlotIx) : Moves Slot.KeepsRoute s (t.cancelLive k) := by
  unfold State.cancelLive
  split
  case h_1 => exact mv_refuseOnly h k _
  case h_2 =>
    exact mv_endSlot (mv_ite _ (fun _ => mv_leaveQueue h k) (fun _ => mv_dropClaims (mv_leaveQueue h k) k)) k _
  case h_3 => exact mv_releaseAndEnd h k _
  case h_4 => exact mv_ite _ (fun _ => mv_cancelSent h k) (fun _ => mv_releasePassenger h k)
  case h_5 => exact mv_cancelSent h k
  case h_6 => exact mv_cancelSent h k

theorem mv_cancelWrite (h : Moves Slot.KeepsRoute s t) (k : SlotIx) (v : Word) :
    Moves Slot.KeepsRoute s (t.cancelWrite k v) :=
  mv_event _ (fun _ m => mv_ite _ (fun _ => mv_refuseOnly m k _) (fun _ => mv_cancelLive m k)) h

theorem mv_gatewayHandover (h : Moves Slot.KeepsRoute s t) (k : SlotIx) :
    Moves Slot.KeepsRoute s (t.gatewayHandover k) := by
  refine mv_ite _ (fun granted => ?_) (fun _ => mv_keepSlot h k _)
  exact (h.slot k _ (Slot.keepsRoute_of_live (by rw [granted]; decide))).markDirty _

theorem mv_confirmExpiry (h : Moves Slot.KeepsRoute s t) (k : SlotIx) :
    Moves Slot.KeepsRoute s (t.confirmExpiry k) :=
  mv_ite _ (fun _ => mv_notifySlot ((mv_keepSlot h k _).setDsp _) _ _ _ _) (fun _ => h)

theorem mv_setOverdue (h : Moves Slot.KeepsRoute s t) (k : SlotIx) : Moves Slot.KeepsRoute s (t.setOverdue k) :=
  mv_keepSlot h k _

theorem mv_shortenExpiry (h : Moves Slot.KeepsRoute s t) (k : SlotIx) :
    Moves Slot.KeepsRoute s (t.shortenExpiry k) := by
  unfold State.shortenExpiry
  refine mv_ite _ (fun _ => ?_) (fun _ => h)
  have stopped := mv_keepSlot h k { t.slot k with shortenTimer := none }
  refine mv_notifySlot (mv_ite _ (fun _ => stopped) (fun _ => ?_)) _ _ _ _
  exact (mv_raising _ (mv_setOverdue stopped k)).setDsp _

theorem mv_waitExpiry (h : Moves Slot.KeepsRoute s t) (k : SlotIx) : Moves Slot.KeepsRoute s (t.waitExpiry k) := by
  refine mv_ite _ (fun _ => mv_event _ (fun u m => ?_) h) (fun _ => h)
  have left := mv_leaveQueue m k
  exact mv_ite _ (fun _ => mv_endSlot left k _) (fun _ => (mv_endSlot (mv_dropClaims left k) k _).setOps _)

/-! ### Reports and scrubber commands -/

/-- The slot of a scrubber that has been sent its authority is live. -/
theorem live_of_sentSlot (x : ScrubIx) (k : SlotIx) (h : t.sentSlot x = some k) : (t.slot k).state ≠ .idle :=
  (not_waiting_of_sent _ (sentSlot_some t x k h)).1

theorem mv_hear (h : Moves Slot.KeepsRoute s t) (x : ScrubIx) (p : Position) : Moves Slot.KeepsRoute s (t.hear x p) :=
  mv_ite _ (fun _ => mv_notify (h.scrub x _) _ _) (fun _ => h)

theorem mv_moveTo (h : Moves Slot.KeepsRoute s t) (x : ScrubIx) (p : Position) :
    Moves Slot.KeepsRoute s (t.moveTo x p) :=
  (mv_foldl _ (fun _ g m => mv_clearOccupant m x g) _
    (mv_foldl _ (fun _ g m => mv_setOccupant m x g) _ h)).scrub x _

theorem mv_progressTo (h : Moves Slot.KeepsRoute s t) (x : ScrubIx) (p : Position) :
    Moves Slot.KeepsRoute s (t.progressTo x p) := by
  unfold State.progressTo
  split
  · exact h
  · split
    · exact h
    · exact mv_keepSlot h _ _

theorem mv_violation (h : Moves Slot.KeepsRoute s t) (x : ScrubIx) (p : Position) (v : List SegIx) :
    Moves Slot.KeepsRoute s (t.violation x p v) := by
  unfold State.violation
  cases v with
  | nil => exact h
  | cons first rest =>
    have marked := mv_ite ((t.scrub x).mark = true) (fun _ => h) (fun _ => mv_setMark h x)
    have cut : Moves Slot.KeepsRoute s
        (match (t.scrub x).liveSlot.map fleetSlot with
          | none => if (t.scrub x).mark then t else t.setMark x
          | some k => (if (t.scrub x).mark then t else t.setMark x).shortenToProgress k) := by
      split
      · exact marked
      · exact mv_shortenToProgress marked _
    have ahead := mv_foldl (s := s) (fun (u : State) (g : SegIx) => u.shortenHolder g ((t.scrub x).liveSlot.map fleetSlot))
      (fun _ g m => mv_shortenHolder m g _) (first :: rest) cut
    exact mv_ite _ (fun _ => ahead) (fun _ => mv_notify (ahead.setDsp _) _ _)

theorem mv_releaseBehind (h : Moves Slot.KeepsRoute s t) (x : ScrubIx) (p : Position) :
    Moves Slot.KeepsRoute s (t.releaseBehind x p) := by
  unfold State.releaseBehind
  split
  · exact h
  · exact mv_releaseWhere h _ _

theorem mv_witness (h : Moves Slot.KeepsRoute s t) (x : ScrubIx) (p : Position) (b : Bool) :
    Moves Slot.KeepsRoute s (t.witness x p b) := by
  unfold State.witness
  split
  · exact h
  · exact mv_keepSlot h _ _

theorem mv_confirm (h : Moves Slot.KeepsRoute s t) (k : SlotIx) (live : (t.slot k).state ≠ .idle) :
    Moves Slot.KeepsRoute s (t.confirm k) :=
  mv_confirmedNotice (h.slot k _ (Slot.keepsRoute_of_live live)) k

theorem mv_confirmShortening (h : Moves Slot.KeepsRoute s t) (k : SlotIx) (live : (t.slot k).state ≠ .idle) :
    Moves Slot.KeepsRoute s (t.confirmShortening k) := by
  unfold State.confirmShortening
  refine mv_confirmedNotice ((mv_releaseWhere h k _).slot k _ ?_) k
  exact Slot.keepsRoute_of_live (by rw [slot_releaseWhere]; exact live)

theorem mv_confirmBeyond (h : Moves Slot.KeepsRoute s t) (k : SlotIx) (p : Position) :
    Moves Slot.KeepsRoute s (t.confirmBeyond k p) :=
  mv_endSlot (mv_confirmedNotice (mv_clearOverdue (mv_releaseAll (mv_releaseWhere h k _) k) k) k) k _

theorem mv_slotField (h : Moves Slot.KeepsRoute s t) (x : ScrubIx) (p : Position) (r : Report) (beyond : Bool) :
    Moves Slot.KeepsRoute s (t.slotField x p r beyond) := by
  unfold State.slotField
  split
  case h_1 => exact h
  case h_2 k sent =>
  have live := live_of_sentSlot x k sent
  refine mv_ite _ (fun _ => mv_giveUp h k _) (fun _ => mv_ite _ (fun _ => h) (fun _ => ?_))
  split
  · exact mv_confirm h k live
  · exact mv_ite _ (fun _ => mv_confirmBeyond h k p) (fun _ => mv_confirmShortening h k live)
  all_goals exact h

theorem mv_complete (h : Moves Slot.KeepsRoute s t) (x : ScrubIx) (p : Position) (f : ReportFlags) :
    Moves Slot.KeepsRoute s (t.complete x p f) := by
  unfold State.complete
  split
  · exact h
  · exact mv_ite _ (fun _ => mv_releaseAndEnd h _ _) (fun _ => h)

theorem mv_processReport (h : Moves Slot.KeepsRoute s t) (x : ScrubIx) (p : Position) (r : Report) :
    Moves Slot.KeepsRoute s (t.processReport x p r) := by
  have moved := mv_progressTo (mv_moveTo (mv_hear h x p) x p) x p
  have judged := mv_witness (mv_releaseBehind (mv_violation moved x p
    (p.segs.filter fun g => (t.hear x p).violated x ((t.scrub x).state == .unheard) g)) x p) x p r.flags.scrubbing
  exact ((mv_complete (mv_slotField judged x p r _) x p r.flags).scrub x _).markDirty _

theorem mv_lostExpiry (h : Moves Slot.KeepsRoute s t) (x : ScrubIx) : Moves Slot.KeepsRoute s (t.lostExpiry x) :=
  mv_ite _ (fun _ => mv_notify (((h.scrub x _).markDirty _).setDsp _) _ _) (fun _ => h)

theorem mv_withdrawSlot (h : Moves Slot.KeepsRoute s t) (x : ScrubIx) :
    Moves Slot.KeepsRoute s (t.withdrawSlot x) := by
  unfold State.withdrawSlot
  split
  · exact h
  · exact mv_ite _ (fun _ => mv_giveUp h _ _) (fun _ => mv_endSlot (mv_leaveQueue h _) _ _)

theorem mv_withdraw (h : Moves Slot.KeepsRoute s t) (x : ScrubIx) (g : Option SegIx) :
    Moves Slot.KeepsRoute s (t.withdraw x g) := by
  refine mv_event _ (fun u m => ?_) h
  have left := mv_foldl (s := s) _ (fun _ g m => mv_clearOccupant m x g)
    ((u.withdrawSlot x).occupiedBy x) (mv_withdrawSlot m x)
  have parked : Moves Slot.KeepsRoute s
      ((((u.withdrawSlot x).occupiedBy x).foldl (fun s h => s.clearOccupant x h) (u.withdrawSlot x)).park x g) := by
    cases g with
    | none => exact left
    | some g => exact mv_shortenHolder (mv_setOccupant left x g) g none
  exact (parked.scrub x _).markDirty _

/-! ### Zones -/

theorem mv_zoneNotice {R : Slot → Slot → Prop} (h : Moves R s t) (kind : NoticeKind) (z : ZoneIx) :
    Moves R s (t.zoneNotice kind z) := mv_ite _ (fun _ => mv_notify h _ _) (fun _ => h)

theorem mv_dropHolding (h : Moves Slot.KeepsRoute s t) (z : ZoneIx) (k : SlotIx) :
    Moves Slot.KeepsRoute s (t.dropHolding z k) :=
  mv_ite _ (fun _ => mv_ite _ (fun _ => mv_setChanged (mv_keepSlot h k _) k)
    (fun _ => mv_keepSlot h k _)) (fun _ => h)

theorem mv_reachQuiet (h : Moves Slot.KeepsRoute s t) (z : ZoneIx) : Moves Slot.KeepsRoute s (t.reachQuiet z) :=
  (mv_zoneNotice (mv_foldl _ (fun _ k m => mv_dropHolding m z (fleetSlot k)) _ (h.zone z _)) _ z).noteFreeing

theorem mv_enterSettling (h : Moves Slot.KeepsRoute s t) (z : ZoneIx) :
    Moves Slot.KeepsRoute s (t.enterSettling z) :=
  mv_ite _ (fun _ => mv_reachQuiet (h.zone z _) z) (fun _ => h.zone z _)

theorem mv_reseed (h : Moves Slot.KeepsRoute s t) (z : ZoneIx) : Moves Slot.KeepsRoute s (t.reseed z) :=
  mv_zoneNotice (mv_enterSettling (h.zone z _) z) _ z

theorem mv_addHolding (h : Moves Slot.KeepsRoute s t) (z : ZoneIx) (k : SlotIx) :
    Moves Slot.KeepsRoute s (t.addHolding z k) :=
  mv_ite _ (fun _ => mv_setChanged (mv_keepSlot h k _) k) (fun _ => mv_keepSlot h k _)

theorem mv_presentSlot (h : Moves Slot.KeepsRoute s t) (z : ZoneIx) (k : SlotIx) :
    Moves Slot.KeepsRoute s (t.presentSlot z k) :=
  mv_ite _ (fun _ => mv_ite _ (fun _ => mv_addHolding h z k) (fun _ => mv_shortenBefore h k _)) (fun _ => h)

theorem mv_enterPresent (h : Moves Slot.KeepsRoute s t) (z : ZoneIx) : Moves Slot.KeepsRoute s (t.enterPresent z) :=
  mv_zoneNotice (mv_foldl _ (fun _ k m => mv_presentSlot m z (fleetSlot k)) _ (h.zone z _)) _ z

theorem mv_endEntry (h : Moves Slot.KeepsRoute s t) (z : ZoneIx) : Moves Slot.KeepsRoute s (t.endEntry z) := by
  unfold State.endEntry
  dsimp only
  split
  · exact h.zone z _
  · exact mv_reachQuiet (h.zone z _) z

theorem mv_judgeZone (h : Moves Slot.KeepsRoute s t) (z : ZoneIx) (d : Int) :
    Moves Slot.KeepsRoute s (t.judgeZone z d) := by
  unfold State.judgeZone
  dsimp only
  split
  case h_1 => exact mv_ite _ (fun _ => h) fun _ => mv_ite _ (fun _ => mv_enterPresent h z) (fun _ => h.zone z _)
  case h_2 => exact mv_ite _ (fun _ => h) fun _ => mv_ite _ (fun _ => mv_enterPresent h z) (fun _ => h.zone z _)
  case h_3 =>
    exact mv_ite _ (fun _ => mv_endEntry h z) fun _ => mv_ite _ (fun _ => mv_enterPresent h z) (fun _ => h.zone z _)
  case h_4 => exact mv_ite _ (fun _ => h) fun _ => mv_ite _ (fun _ => mv_enterSettling h z) (fun _ => h.zone z _)
  case h_5 =>
    exact mv_ite _ (fun _ => h.zone z _) fun _ =>
      mv_ite _ (fun _ => mv_enterSettling (h.zone z _) z) (fun _ => h.zone z _)
  case h_6 => exact h
  case h_7 => exact h

theorem mv_takeSample (h : Moves Slot.KeepsRoute s t) (z : ZoneIx) (fig : Nat) :
    Moves Slot.KeepsRoute s (t.takeSample z fig) := by
  unfold State.takeSample
  dsimp only
  split
  case h_1 => exact mv_enterSettling (h.zone z _) z
  case h_2 => exact mv_enterSettling (h.zone z _) z
  all_goals exact mv_judgeZone (h.zone z _) z _

theorem mv_zoneSample (h : Moves Slot.KeepsRoute s t) (z : ZoneIx) (fig : Nat) :
    Moves Slot.KeepsRoute s (t.zoneSample z fig) :=
  mv_ite _ (fun _ => mv_event _ (fun _ m => (mv_takeSample m z fig).zone z _) h) (fun _ => h)

theorem mv_moisture {R : Slot → Slot → Prop} (h : Moves R s t) (z : ZoneIx) (fig : Nat) :
    Moves R s (t.moisture z fig) := mv_ite _ (fun _ => h.zone z _) (fun _ => h)

theorem mv_quietExpiry (h : Moves Slot.KeepsRoute s t) (z : ZoneIx) : Moves Slot.KeepsRoute s (t.quietExpiry z) := by
  refine mv_ite _ (fun _ => mv_event _ (fun u m => ?_) h) (fun _ => h)
  unfold State.quietEnds
  dsimp only
  split
  · exact mv_reachQuiet (m.zone z _) z
  all_goals exact m.zone z _

theorem mv_staleExpiry {R : Slot → Slot → Prop} (h : Moves R s t) (z : ZoneIx) : Moves R s (t.staleExpiry z) :=
  mv_ite _ (fun _ => mv_zoneNotice ((h.zone z _).setDsp _) _ z) (fun _ => h)

theorem mv_stuckExpiry (h : Moves Slot.KeepsRoute s t) (z : ZoneIx) : Moves Slot.KeepsRoute s (t.stuckExpiry z) :=
  mv_ite _ (fun _ => mv_event _ (fun _ m => mv_reseed m z) h) (fun _ => h)

theorem mv_haltExpiry (h : Moves Slot.KeepsRoute s t) (z : ZoneIx) : Moves Slot.KeepsRoute s (t.haltExpiry z) :=
  mv_ite _ (fun _ => mv_event _ (fun _ m => mv_reseed m z) h) (fun _ => h)

/-! ### Drying and closures -/

theorem mv_dry {R : Slot → Slot → Prop} (h : Moves R s t) (e : DryEntry) : Moves R s (t.dry e) :=
  (mv_notify ((mv_dropEntry h e.seg).seg _ _) _ _).noteFreeing

theorem mv_extend {R : Slot → Slot → Prop} (h : Moves R s t) (e : DryEntry) (z : ZoneIx) : Moves R s (t.extend e z) :=
  mv_notify (((mv_dropEntry h e.seg).drying _).seg _ _) _ _

theorem mv_dryOverdue {R : Slot → Slot → Prop} (h : Moves R s t) (e : DryEntry) (z : ZoneIx) :
    Moves R s (t.dryOverdue e z) := mv_notify (((mv_dropEntry h e.seg).seg _ _).setDsp _) _ _

theorem mv_expireEntry {R : Slot → Slot → Prop} (h : Moves R s t) (e : DryEntry) : Moves R s (t.expireEntry e) := by
  refine mv_ite _ (fun _ => mv_dry h e) (fun _ => ?_)
  split
  · exact mv_dry h e
  · exact mv_ite _ (fun _ => mv_dry h e) fun _ =>
      mv_ite _ (fun _ => mv_extend h e _) (fun _ => mv_dryOverdue h e _)

theorem mv_dryingExpiry (h : Moves Slot.KeepsRoute s t) (g : SegIx) : Moves Slot.KeepsRoute s (t.dryingExpiry g) := by
  unfold State.dryingExpiry
  split
  · exact h
  · exact mv_event _ (fun _ m => mv_expireEntry m _) h

theorem mv_closeFloor (h : Moves Slot.KeepsRoute s t) (i : Issuer) (g : SegIx) :
    Moves Slot.KeepsRoute s (t.closeFloor i g) := by
  refine mv_ite _ (fun _ => h) (fun _ => ?_)
  have ahead := mv_shortenHolder (mv_setClosure h g ((t.seg g).closure.withIssuer i)) g none
  dsimp only
  split
  · exact ahead
  · split
    · exact ahead
    · exact mv_shortenToProgress ahead _

theorem mv_closeSegment (h : Moves Slot.KeepsRoute s t) (i : Issuer) (g : SegIx) :
    Moves Slot.KeepsRoute s (t.closeSegment i g) :=
  mv_ite _ (fun _ => h) (fun _ => mv_event _ (fun _ m => mv_notify (mv_closeFloor m i g) _ _) h)

theorem mv_reopenFloor {R : Slot → Slot → Prop} (h : Moves R s t) (i : Issuer) (g : SegIx) :
    Moves R s (t.reopenFloor i g) := mv_ite _ (fun _ => mv_setClosure h g _) (fun _ => h)

theorem mv_reopenSegment (h : Moves Slot.KeepsRoute s t) (i : Issuer) (g : SegIx) :
    Moves Slot.KeepsRoute s (t.reopenSegment i g) :=
  mv_ite _ (fun _ => mv_event _ (fun _ m => mv_notify (mv_reopenFloor m i g) _ _) h) (fun _ => h)

theorem mv_closeZone (h : Moves Slot.KeepsRoute s t) (z : ZoneIx) : Moves Slot.KeepsRoute s (t.closeZone z) :=
  mv_event _ (fun _ m => mv_notify (mv_foldl _ (fun _ g m => mv_closeFloor m _ g) _ m) _ _) h

theorem mv_reopenZone (h : Moves Slot.KeepsRoute s t) (z : ZoneIx) : Moves Slot.KeepsRoute s (t.reopenZone z) :=
  mv_event _ (fun _ m => mv_notify (mv_foldl _ (fun _ g m => mv_reopenFloor m _ g) _ m) _ _) h

end Slots

end Sys2Proof.Machine
end

section
/-! SUPPORT. Where the words of mirror records stand, and what stores of records and marks do to them (R34, R35). -/
namespace Sys2Proof.Machine
open Sys2Proof
set_option Elab.async false

/-! ### The places of the words of records -/

/-- The places of a record's words (R34). -/
def MirrorRec.places : MirrorRec → List Place
  | .control c => [.control c]
  | .slotActed k => [.slot k 11, .slot k 15]
  | .slotStatus k => [.slot k 12]
  | .slotProgress k => [.slot k 14]
  | .segView n => [.segView n 0, .segView n 1]
  | .scrubView x => (List.finRange 8).map (.scrubView x)

theorem placeOf_controlAddr (c : CtlWord) : placeOf (controlAddr c) = .control c := by
  by_cases h : c = .unassigned
  · subst h; decide
  · exact placeOf_control c h

theorem placeOf_segView (n : Fin 256) (i : Fin 2) : placeOf (BitVec.ofNat 18 (0x400 + 2 * n.val + i.val)) = .segView n i := by
  revert n i; decide +kernel

theorem placeOf_scrubView (x : ScrubIx) (i : Fin 8) :
    placeOf (BitVec.ofNat 18 (0x600 + 8 * x.val + i.val)) = .scrubView x i := by
  revert x i; decide +kernel

theorem placeOf_ringAddr (o : BitVec 10) : placeOf (ringAddr o) = .ring (Fin.ofNat 1024 o.toNat) := by
  have bound := o.isLt
  have addr : (ringAddr o).toNat = 0x800 + o.toNat := by
    rw [ringAddr, BitVec.toNat_ofNat]; omega
  unfold placeOf
  dsimp only
  rw [addr]
  rw [if_neg (by omega), if_neg (by omega), if_neg (by omega), if_neg (by omega), if_neg (by omega), if_neg (by omega),
    if_neg (by omega), if_neg (by omega), if_neg (by omega), if_pos (by omega), Nat.add_sub_cancel_left]

/-- The words at consecutive addresses are those of a list, each at its own address. -/
theorem mem_fromAddr (a : Nat) (l : List Word) (p : BitVec 18 × Word) :
    p ∈ fromAddr a l ↔ ∃ i, l[i]? = some p.2 ∧ p.1 = BitVec.ofNat 18 (a + i) := by
  simp only [fromAddr, List.mem_map, Prod.exists, List.mk_mem_zipIdx_iff_le_and_getElem?_sub]
  constructor
  · rintro ⟨w, j, ⟨low, here⟩, rfl⟩
    exact ⟨j - a, here, by rw [Nat.add_sub_cancel' low]⟩
  · rintro ⟨i, here, addr⟩
    exact ⟨p.2, a + i, ⟨Nat.le_add_right _ _, by rw [Nat.add_sub_cancel_left]; exact here⟩, by rw [← addr]⟩

theorem length_segViewOf (s : State) (n : Fin 256) : (s.segViewOf n).length = 2 := by
  unfold State.segViewOf
  split <;> rfl

/-- The words of a record stand at the record's places. -/
theorem placeOf_recordWords (s : State) (r : MirrorRec) (p : BitVec 18 × Word) (h : p ∈ s.recordWords r) :
    placeOf p.1 ∈ r.places := by
  cases r with
  | control c =>
    obtain ⟨i, here, addr⟩ := (mem_fromAddr _ _ _).mp h
    cases i with
    | zero =>
      have place : placeOf p.1 = .control c := addr ▸ placeOf_controlAddr c
      exact place ▸ List.mem_singleton_self _
    | succ i => simp at here
  | slotActed k =>
    simp only [State.recordWords, List.mem_cons, List.not_mem_nil, or_false] at h
    obtain rfl | rfl := h
    · simpa [MirrorRec.places] using Or.inl (placeOf_slot k 11)
    · simpa [MirrorRec.places] using Or.inr (placeOf_slot k 15)
  | slotStatus k =>
    obtain ⟨i, here, addr⟩ := (mem_fromAddr _ _ _).mp h
    cases i with
    | zero =>
      have place : placeOf p.1 = .slot k 12 := addr ▸ placeOf_slot k 12
      exact place ▸ List.mem_singleton_self _
    | succ i => simp at here
  | slotProgress k =>
    obtain ⟨i, here, addr⟩ := (mem_fromAddr _ _ _).mp h
    cases i with
    | zero =>
      have place : placeOf p.1 = .slot k 14 := addr ▸ placeOf_slot k 14
      exact place ▸ List.mem_singleton_self _
    | succ i => simp at here
  | segView n =>
    obtain ⟨i, here, addr⟩ := (mem_fromAddr _ _ _).mp h
    have bound : i < 2 := by
      rw [← length_segViewOf s n]; exact (List.getElem?_eq_some_iff.mp here).1
    have place : placeOf p.1 = .segView n ⟨i, bound⟩ := addr ▸ placeOf_segView n ⟨i, bound⟩
    rw [place]
    match i, bound with
    | 0, _ => exact List.mem_cons_self
    | 1, _ => exact List.mem_cons_of_mem _ List.mem_cons_self
  | scrubView x =>
    obtain ⟨i, here, addr⟩ := (mem_fromAddr _ _ _).mp h
    have bound : i < 8 := (List.getElem?_eq_some_iff.mp here).1
    have place : placeOf p.1 = .scrubView x ⟨i, bound⟩ := addr ▸ placeOf_scrubView x ⟨i, bound⟩
    rw [place]
    exact List.mem_map_of_mem (List.mem_finRange _)

theorem mem_allRecords_control (c : CtlWord) : MirrorRec.control c ∈ allRecords ↔ c ∈ mirroredControlWords := by
  simp [allRecords]

/-- A record's places belong to it, but those of a control word that is no mirror record. -/
theorem recordAt_places (r : MirrorRec) (p : Place) (h : p ∈ r.places) :
    recordAt p = if r ∈ allRecords then some r else none := by
  have listed : ∀ q : MirrorRec, (∀ c, q ≠ .control c) → q ∈ allRecords := by
    intro q other
    cases q with
    | control c => exact absurd rfl (other c)
    | _ => simp [allRecords]
  cases r with
  | control c =>
    simp only [MirrorRec.places, List.mem_singleton] at h
    subst h
    simp only [recordAt, mem_allRecords_control]
  | slotActed k =>
    rw [if_pos (listed _ (by simp))]
    simp only [MirrorRec.places, List.mem_cons, List.not_mem_nil, or_false] at h
    obtain rfl | rfl := h <;> simp [recordAt, slotRecord]
  | slotStatus k =>
    rw [if_pos (listed _ (by simp))]
    simp only [MirrorRec.places, List.mem_singleton] at h
    subst h; simp [recordAt, slotRecord]
  | slotProgress k =>
    rw [if_pos (listed _ (by simp))]
    simp only [MirrorRec.places, List.mem_singleton] at h
    subst h; simp [recordAt, slotRecord]
  | segView n =>
    rw [if_pos (listed _ (by simp))]
    simp only [MirrorRec.places, List.mem_cons, List.not_mem_nil, or_false] at h
    obtain rfl | rfl := h <;> rfl
  | scrubView x =>
    rw [if_pos (listed _ (by simp))]
    simp only [MirrorRec.places, List.mem_map] at h
    obtain ⟨i, _, rfl⟩ := h
    rfl

/-- No record has a header or route word of a slot among its places. -/
theorem places_above_draft (r : MirrorRec) (k : SlotIx) (w : Fin 16) (low : w.val ≤ 10) : Place.slot k w ∉ r.places := by
  intro h
  cases r with
  | slotActed j =>
    simp only [MirrorRec.places, List.mem_cons, List.not_mem_nil, or_false, Place.slot.injEq] at h
    obtain ⟨_, rfl⟩ | ⟨_, rfl⟩ := h
    · exact absurd low (by decide)
    · exact absurd low (by decide)
  | slotStatus j | slotProgress j =>
    simp only [MirrorRec.places, List.mem_singleton, Place.slot.injEq] at h
    obtain ⟨_, rfl⟩ := h
    exact absurd low (by decide)
  | control | segView | scrubView => simp [MirrorRec.places] at h

/-! ### What a store shows -/

/-- Every record that is clean afterwards was clean before, and shows what it showed. -/
def State.shows (s t : State) : Prop := ∀ r, r ∉ t.dirty → r ∉ s.dirty ∧ t.recordWords r = s.recordWords r

theorem shows_refl (s : State) : s.shows s := fun _ h => ⟨h, rfl⟩

theorem State.shows.trans {s t u : State} (a : s.shows t) (b : t.shows u) : s.shows u := fun r h =>
  have ⟨clean, same⟩ := b r h
  have ⟨clean', same'⟩ := a r clean
  ⟨clean', same.trans same'⟩

/-- An update that marks nothing and shows in no record. -/
theorem shows_same {s t : State} (dirty : t.dirty = s.dirty) (words : ∀ r, t.recordWords r = s.recordWords r) :
    s.shows t := fun r h => ⟨dirty ▸ h, words r⟩

/-- An update that marks the one record it shows in. -/
theorem shows_marked {s t : State} (q : MirrorRec) (dirty : t.dirty = insertBy MirrorRec.addr q s.dirty)
    (words : ∀ r, r ≠ q → t.recordWords r = s.recordWords r) : s.shows t := by
  intro r h
  rw [dirty, mem_dirty_insert, not_or] at h
  exact ⟨h.2, words r h.1⟩

theorem shows_markIf {s t : State} (h : s.shows t) (b : Bool) (r : MirrorRec) : s.shows (t.markIf b r) := fun q clean =>
  h q fun dirty => clean ((mem_dirty_markIf t b r q).mpr (.inr dirty))

/-- A store that marks its record when what the record shows has changed. -/
theorem shows_changed {s t : State} (q : MirrorRec) (b : Bool)
    (words : ∀ r, r ≠ q → t.recordWords r = s.recordWords r) (shown : b = false → t.recordWords q = s.recordWords q)
    (dirty : t.dirty = s.dirty) : s.shows (t.markIf b q) := by
  intro r h
  rw [mem_dirty_markIf, not_or, dirty] at h
  obtain ⟨here, clean⟩ := h
  refine ⟨clean, ?_⟩
  by_cases e : r = q
  · subst e; exact shown (by simpa using here)
  · exact words r e

theorem recordWords_markIf (s : State) (b : Bool) (q r : MirrorRec) : (s.markIf b q).recordWords r = s.recordWords r := by
  cases r with
  | control c => cases c <;> rfl
  | _ => rfl

theorem n_congr {s t : State} (site : t.site = s.site) : t.n = s.n := by unfold State.n; rw [site]

theorem fixed_congr {s t : State} (site : t.site = s.site) (g : SegIx) : t.fixed g = s.fixed g := by
  unfold State.fixed; rw [site]

theorem viewedSeg_congr {s t : State} (site : t.site = s.site) (n : Fin 256) : t.viewedSeg n = s.viewedSeg n := by
  unfold State.viewedSeg; rw [n_congr site]

theorem segViewOf_congr {s t : State} (segs : t.segs = s.segs) (site : t.site = s.site) (n : Fin 256) :
    t.segViewOf n = s.segViewOf n := by
  unfold State.segViewOf
  rw [viewedSeg_congr site]
  cases s.viewedSeg n with
  | none => rfl
  | some g => simp only [fixed_congr site, State.seg, segs]

/-- A control word's record shows the word alone. -/
theorem recordWords_control_congr {s t : State} (c : CtlWord) (h : t.controlValue c = s.controlValue c) :
    t.recordWords (.control c) = s.recordWords (.control c) := by
  simp only [State.recordWords, h]

/-- A store that only one control word shows. -/
theorem recordWords_of_control {s t : State} (c : CtlWord) (segs : t.segs = s.segs) (slots : t.slots = s.slots)
    (scrubbers : t.scrubbers = s.scrubbers) (site : t.site = s.site)
    (others : ∀ d, d ≠ c → t.controlValue d = s.controlValue d) (r : MirrorRec) (ne : r ≠ .control c) :
    t.recordWords r = s.recordWords r := by
  cases r with
  | control d => exact recordWords_control_congr d (others d fun e => ne (by rw [e]))
  | slotActed k => rfl
  | slotStatus k => simp only [State.recordWords, State.slot, slots]
  | slotProgress k => simp only [State.recordWords, State.slot, slots]
  | segView n =>
    exact congrArg (fromAddr _) (segViewOf_congr segs site n)
  | scrubView x => simp only [State.recordWords, State.scrub, scrubbers]

theorem recordWords_same {s t : State} (segs : t.segs = s.segs) (slots : t.slots = s.slots)
    (scrubbers : t.scrubbers = s.scrubbers) (site : t.site = s.site)
    (control : ∀ d, t.controlValue d = s.controlValue d) (r : MirrorRec) : t.recordWords r = s.recordWords r := by
  cases r with
  | control d => exact recordWords_control_congr d (control d)
  | _ => exact recordWords_of_control .mode segs slots scrubbers site (fun d _ => control d) _ (by simp)

/-! ### What each store shows -/

theorem segSummary_eq (f : Option PinchIx) (r : Seg) : segSummary f r = segSummary none r ||| fld 5 20 (numOf f) := by
  simp [segSummary, numOf, fld]

theorem segViewOf_none {s : State} {n : Fin 256} (h : s.viewedSeg n = none) : s.segViewOf n = [0, 0] := by
  unfold State.segViewOf; rw [h]

theorem segViewOf_some {s : State} {n : Fin 256} {g : SegIx} (h : s.viewedSeg n = some g) :
    s.segViewOf n = segViewWords (s.fixed g).pinch (s.seg g) := by
  unfold State.segViewOf; rw [h]

/-- The number of a view entry is one more than the index of the segment that it shows. -/
theorem val_of_viewedSeg {s : State} {n : Fin 256} {g : SegIx} (h : s.viewedSeg n = some g) : n.val = g.val + 1 := by
  unfold State.viewedSeg at h
  split at h
  · cases h
  · rename_i y e
    split at h
    · cases h; exact ixOf_eq_some _ _ _ e
    · cases h

/-- A stored segment shows in its own view entry alone, and there when its live words change. -/
theorem segViewOf_setSeg (s : State) (g : SegIx) (r : Seg) (n : Fin 256)
    (shown : n.val = g.val + 1 → segViewWords none r = segViewWords none (s.seg g)) :
    (s.setSeg g r).segViewOf n = s.segViewOf n := by
  have viewed : (s.setSeg g r).viewedSeg n = s.viewedSeg n := rfl
  cases named : s.viewedSeg n with
  | none => rw [segViewOf_none named, segViewOf_none (viewed.trans named)]
  | some h =>
    rw [segViewOf_some named, segViewOf_some (viewed.trans named), show (s.setSeg g r).fixed h = s.fixed h from rfl]
    by_cases e : g = h
    · subst e
      have words := shown (val_of_viewedSeg named)
      simp only [segViewWords, List.cons.injEq, and_true] at words
      simp only [seg_setSeg_same, segViewWords, segSummary_eq (s.fixed g).pinch, words]
    · rw [seg_setSeg_other s g h r e]

theorem shows_setSeg (s : State) (g : SegIx) (r : Seg) : s.shows (s.setSeg g r) := by
  intro q h
  rw [mem_dirty_setSeg, not_or] at h
  obtain ⟨view, clean⟩ := h
  refine ⟨clean, ?_⟩
  cases q with
  | control c => exact recordWords_control_congr c (by cases c <;> rfl)
  | segView n =>
    refine congrArg (fromAddr _) (segViewOf_setSeg s g r n fun e => by_contra fun ne => view ⟨ne, ?_⟩)
    rw [segRecord]
    congr 1
    exact Fin.ext e
  | _ => rfl

theorem recordWords_setSlot (s : State) (k : SlotIx) (r : Slot) (q : MirrorRec)
    (status : q = .slotStatus k → r.statusWord = (s.slot k).statusWord)
    (progress : q = .slotProgress k → r.progressWord = (s.slot k).progressWord) :
    (s.setSlot k r).recordWords q = s.recordWords q := by
  cases q with
  | control c => exact recordWords_control_congr c (by cases c <;> rfl)
  | slotStatus j =>
    simp only [State.recordWords, slot_setSlot]
    split
    · rename_i e; subst e; rw [status rfl]
    · rfl
  | slotProgress j =>
    simp only [State.recordWords, slot_setSlot]
    split
    · rename_i e; subst e; rw [progress rfl]
    · rfl
  | _ => rfl

theorem shows_setSlot (s : State) (k : SlotIx) (r : Slot) : s.shows (s.setSlot k r) := by
  intro q h
  rw [mem_dirty_setSlot, not_or, not_or] at h
  obtain ⟨status, progress, clean⟩ := h
  exact ⟨clean, recordWords_setSlot s k r q (fun e => by_contra fun ne => status ⟨ne, e⟩)
    (fun e => by_contra fun ne => progress ⟨ne, e⟩)⟩

theorem shows_setScrub (s : State) (x : ScrubIx) (r : Scrubber) : s.shows (s.setScrub x r) := by
  intro q h
  rw [mem_dirty_setScrub, not_or] at h
  obtain ⟨view, clean⟩ := h
  refine ⟨clean, ?_⟩
  cases q with
  | control c => exact recordWords_control_congr c (by cases c <;> rfl)
  | scrubView y =>
    simp only [State.recordWords, scrub_setScrub]
    split
    · rename_i e
      subst e
      rw [by_contra fun ne => view ⟨ne, rfl⟩]
    · rfl
  | _ => rfl

theorem shows_markDirty (s : State) (r : MirrorRec) : s.shows (s.markDirty r) :=
  shows_marked r rfl fun q _ => recordWords_same rfl rfl rfl rfl (by intro d; cases d <;> rfl) q

/-- A store of a control word's value that marks the word when its value changes. -/
theorem shows_putDsp (s : State) (v : BitVec 16) : s.shows (s.putDsp v) := by
  refine shows_changed (.control .dspStatus) _ ?_ ?_ rfl
  · exact recordWords_of_control _ rfl rfl rfl rfl (by intro d ne; cases d <;> first | rfl | exact absurd rfl ne)
  · intro same
    have e : v = s.dspFlags := by simpa using same
    exact recordWords_control_congr _ (by simp [State.controlValue, e])

theorem shows_putOps (s : State) (v : BitVec 5) : s.shows (s.putOps v) := by
  refine shows_changed (.control .opsStatus) _ ?_ ?_ rfl
  · exact recordWords_of_control _ rfl rfl rfl rfl (by intro d ne; cases d <;> first | rfl | exact absurd rfl ne)
  · intro same
    have e : v = s.opsFlags := by simpa using same
    exact recordWords_control_congr _ (by simp [State.controlValue, e])

/-- A run of stores shows every change in a marked record. -/
theorem Moves.shows {R : Slot → Slot → Prop} {s t : State} (m : Moves R s t) : s.shows t := by
  have apart (t u : State) (dirty : u.dirty = t.dirty) (segs : u.segs = t.segs) (slots : u.slots = t.slots)
      (scrubbers : u.scrubbers = t.scrubbers) (site : u.site = t.site)
      (control : ∀ d, u.controlValue d = t.controlValue d) : t.shows u :=
    shows_same dirty (recordWords_same segs slots scrubbers site control)
  induction m with
  | refl => exact shows_refl _
  | seg _ g r ih => exact ih.trans (shows_setSeg _ g r)
  | slot _ k r _ ih => exact ih.trans (shows_setSlot _ k r)
  | scrub _ x r ih => exact ih.trans (shows_setScrub _ x r)
  | pinch _ p r ih => exact ih.trans (apart _ _ rfl rfl rfl rfl rfl (by intro d; cases d <;> rfl))
  | zone _ z r ih => exact ih.trans (apart _ _ rfl rfl rfl rfl rfl (by intro d; cases d <;> rfl))
  | cell _ c r ih => exact ih.trans (apart _ _ rfl rfl rfl rfl rfl (by intro d; cases d <;> rfl))
  | drying _ l ih => exact ih.trans (apart _ _ rfl rfl rfl rfl rfl (by intro d; cases d <;> rfl))
  | queue _ l ih => exact ih.trans (apart _ _ rfl rfl rfl rfl rfl (by intro d; cases d <;> rfl))
  | staging _ l ih => exact ih.trans (apart _ _ rfl rfl rfl rfl rfl (by intro d; cases d <;> rfl))
  | noteFreeing _ ih => exact ih.trans (apart _ _ rfl rfl rfl rfl rfl (by intro d; cases d <;> rfl))
  | clearFreeing _ ih => exact ih.trans (apart _ _ rfl rfl rfl rfl rfl (by intro d; cases d <;> rfl))
  | markDirty _ r ih => exact ih.trans (shows_markDirty _ r)
  | setDsp _ f ih => exact ih.trans (shows_putDsp _ _)
  | setOps _ f ih => exact ih.trans (shows_putOps _ _)

end Sys2Proof.Machine
end

section
/-! SUPPORT. Words written in a row, and what the writers' grants leave in plan memory (R24, R33, R35, R169). -/
namespace Sys2Proof.Machine
open Sys2Proof
set_option Elab.async false

/-! ### Words written in a row -/

/-- Words written at different addresses all stand afterwards. -/
theorem readWord_writeWords (l : List (BitVec 18 × Word)) (s : State) (h : memWf s.mem = true)
    (distinct : (l.map Prod.fst).Nodup) (p : BitVec 18 × Word) (hp : p ∈ l) : (s.writeWords l).readWord p.1 = p.2 := by
  induction l generalizing s with
  | nil => cases hp
  | cons q l ih =>
    rw [List.map_cons, List.nodup_cons] at distinct
    obtain ⟨apart, rest⟩ := distinct
    rw [writeWords_cons]
    have wf := memWf_writeWord s q.1 q.2 h
    obtain rfl | later := List.mem_cons.mp hp
    · rw [readWord_writeWords_other l _ wf p.1 fun x hx e => apart (e ▸ List.mem_map_of_mem hx)]
      exact readWord_writeWord_same s p.1 p.2 h
    · exact ih _ wf rest later

/-- A written word has good parity, and the parity of other words stays (R24). -/
theorem wordBad_writeWords (l : List (BitVec 18 × Word)) (s : State) (b : BitVec 18) :
    (s.writeWords l).wordBad b = if b ∈ l.map Prod.fst then false else s.wordBad b := by
  induction l generalizing s with
  | nil => simp
  | cons q l ih =>
    rw [writeWords_cons, ih, wordBad_writeWord, List.map_cons]
    by_cases later : b ∈ l.map Prod.fst
    · rw [if_pos later, if_pos (List.mem_cons_of_mem _ later)]
    · rw [if_neg later]
      simp only [List.mem_cons, later, or_false]

theorem map_fst_fromAddr (a : Nat) (l : List Word) :
    (fromAddr a l).map Prod.fst = (List.range l.length).map (fun i => BitVec.ofNat 18 (a + i)) := by
  refine List.ext_getElem (by simp [fromAddr]) fun i h _ => ?_
  simp [fromAddr]

theorem nodup_fromAddr (a : Nat) (l : List Word) (h : a + l.length ≤ 2 ^ 18) : ((fromAddr a l).map Prod.fst).Nodup := by
  rw [map_fst_fromAddr]
  refine List.Nodup.map_on (fun i hi j hj e => ?_) List.nodup_range
  rw [List.mem_range] at hi hj
  have numbers := congrArg BitVec.toNat e
  rw [BitVec.toNat_ofNat, BitVec.toNat_ofNat, Nat.mod_eq_of_lt (by omega), Nat.mod_eq_of_lt (by omega)] at numbers
  omega

/-- The words of a record stand at different addresses. -/
theorem nodup_recordWords (s : State) (r : MirrorRec) : ((s.recordWords r).map Prod.fst).Nodup := by
  cases r with
  | control c =>
    refine nodup_fromAddr _ _ ?_
    cases c <;> simp only [MirrorRec.addr, CtlWord.addr, List.length_singleton] <;> omega
  | slotActed k =>
    have apart : ∀ k : SlotIx, [slotAddr k 11, slotAddr k 15].Nodup := by decide
    exact apart k
  | slotStatus k => exact nodup_fromAddr _ _ (by simp only [MirrorRec.addr, List.length_singleton]; omega)
  | slotProgress k => exact nodup_fromAddr _ _ (by simp only [MirrorRec.addr, List.length_singleton]; omega)
  | segView n => exact nodup_fromAddr _ _ (by rw [length_segViewOf]; simp only [MirrorRec.addr]; omega)
  | scrubView x => exact nodup_fromAddr _ _ (by simp only [MirrorRec.addr, Scrubber.viewWords, List.length]; omega)

/-! ### Addresses that no record and no draft has -/

/-- An address that is no word of a mirror record and no header or route word of a slot. -/
def freeAddr (a : BitVec 18) : Prop :=
  recordAt (placeOf a) = none ∧ ∀ (k : SlotIx) (w : Fin 16), w.val ≤ 10 → placeOf a ≠ .slot k w

theorem freeAddr_ring (o : BitVec 10) : freeAddr (ringAddr o) := by
  unfold freeAddr
  rw [placeOf_ringAddr]
  exact ⟨rfl, fun _ _ _ e => by cases e⟩

theorem freeAddr_noticeWords (g : NoticeGrant) (p : BitVec 18 × Word) (h : p ∈ g.words) : freeAddr p.1 := by
  unfold NoticeGrant.words at h
  obtain ⟨q, _, rfl⟩ := List.mem_map.mp h
  exact freeAddr_ring _

/-- An address of no record is none of a record's that is one of the mirror records. -/
theorem ne_of_noRecord {s : State} {r : MirrorRec} (hr : r ∈ allRecords) {p : BitVec 18 × Word}
    (hp : p ∈ s.recordWords r) {a : BitVec 18} (free : recordAt (placeOf a) = none) : p.1 ≠ a := by
  rintro rfl
  have owned := recordAt_places r _ (placeOf_recordWords s r p hp)
  rw [free, if_pos hr] at owned
  cases owned

/-- Two records share no address. -/
theorem ne_of_records {s t : State} {q r : MirrorRec} (ne : q ≠ r) (hq : q ∈ allRecords)
    {p : BitVec 18 × Word} (hp : p ∈ s.recordWords q) {x : BitVec 18 × Word} (hx : x ∈ t.recordWords r) : x.1 ≠ p.1 := by
  intro e
  have one := recordAt_places q _ (placeOf_recordWords s q p hp)
  have two := recordAt_places r _ (placeOf_recordWords t r x hx)
  rw [e, one, if_pos hq] at two
  split at two
  · cases two; exact ne rfl
  · cases two

/-! ### What the port leaves of memory -/

/-- The word at route index i + 1 of a slot (R58). -/
theorem placeOf_routeWord (k : SlotIx) (i : Nat) (h : i < 10) : placeOf (slotAddr k (i + 1)) = .slot k ⟨i + 1, by omega⟩ :=
  placeOf_slot k ⟨i + 1, by omega⟩

/-- Plan memory agrees with the part as well as before: the mirrors stand, and the route words of the slots, whose
records stay, are untouched. -/
structure PortAgree (s t : State) : Prop where
  memory : s.memoryLaw → t.memoryLaw
  mirror : s.memoryLaw → s.mirrorLaw → t.mirrorLaw
  words : s.memoryLaw → ∀ (k : SlotIx) (i : Nat), i < 10 →
    t.readWord (slotAddr k (i + 1)) = s.readWord (slotAddr k (i + 1))
  slots : t.slots = s.slots
  site : t.site = s.site

theorem PortAgree.refl (s : State) : PortAgree s s := ⟨id, fun _ => id, fun _ _ _ _ => rfl, rfl, rfl⟩

theorem PortAgree.trans {s t u : State} (a : PortAgree s t) (b : PortAgree t u) : PortAgree s u :=
  ⟨b.memory ∘ a.memory, fun m l => b.mirror (a.memory m) (a.mirror m l),
    fun m k i h => (b.words (a.memory m) k i h).trans (a.words m k i h), b.slots.trans a.slots,
    b.site.trans a.site⟩

theorem PortAgree.ite {s t u : State} (c : Prop) [Decidable c] (ht : c → PortAgree s t) (hu : ¬ c → PortAgree s u) :
    PortAgree s (if c then t else u) := by
  split
  · exact ht ‹_›
  · exact hu ‹_›

/-- A clean record that shows what it showed still stands in memory. -/
theorem mirrorLaw_of_shows {s t : State} (mem : t.mem = s.mem) (mode : t.mode = .loading → s.mode = .loading)
    (shows : s.shows t) (law : s.mirrorLaw) : t.mirrorLaw := by
  obtain ⟨stands, loading⟩ := law
  constructor
  · intro r listed clean p hp
    obtain ⟨clean', same⟩ := shows r clean
    rw [same] at hp
    exact (congrArg (memWord · p.1.toNat) mem).trans (stands r listed clean' p hp)
  · intro ht r listed
    by_contra clean
    exact (shows r clean).1 (loading (mode ht) r listed)

/-- An update that leaves memory and the slots and marks the records it shows in. -/
theorem PortAgree.of_shows {s t : State} (mem : t.mem = s.mem) (mode : t.mode = .loading → s.mode = .loading)
    (slots : t.slots = s.slots) (site : t.site = s.site) (shows : s.shows t) : PortAgree s t where
  memory m := by rw [State.memoryLaw, mem]; exact m
  mirror _ := mirrorLaw_of_shows mem mode shows
  words _ _ _ _ := congrArg (memWord · _) mem
  slots := slots
  site := site

/-- An update of fields that no record shows. -/
theorem PortAgree.apart {s t : State} (mem : t.mem = s.mem := by rfl)
    (mode : t.mode = .loading → s.mode = .loading := by exact id) (slots : t.slots = s.slots := by rfl)
    (segs : t.segs = s.segs := by rfl) (scrubbers : t.scrubbers = s.scrubbers := by rfl)
    (site : t.site = s.site := by rfl) (dirty : t.dirty = s.dirty := by rfl)
    (control : ∀ d, t.controlValue d = s.controlValue d := by intro d; cases d <;> rfl) :
    PortAgree s t :=
  .of_shows mem mode slots site (shows_same dirty (recordWords_same segs slots scrubbers site control))

/-- A word written at an address of no record leaves the mirrors standing. -/
theorem mirrorLaw_writeWord (s : State) (a : BitVec 18) (w : Word) (free : recordAt (placeOf a) = none)
    (m : s.memoryLaw) (law : s.mirrorLaw) : (s.writeWord a w).mirrorLaw := by
  refine ⟨fun r listed clean p hp => ?_, law.2⟩
  have same : (s.writeWord a w).recordWords r = s.recordWords r :=
    recordWords_same rfl rfl rfl rfl (by intro d; cases d <;> rfl) r
  rw [same] at hp
  rw [readWord_writeWord_other s a p.1 w m (ne_of_noRecord listed hp free)]
  exact law.1 r listed clean p hp

theorem agree_writeWord (s : State) (a : BitVec 18) (w : Word) (free : freeAddr a) : PortAgree s (s.writeWord a w) where
  memory m := memWf_writeWord s a w m
  mirror := mirrorLaw_writeWord s a w free.1
  words m k i h := readWord_writeWord_other s a _ w m fun e =>
    free.2 k ⟨i + 1, by omega⟩ (by dsimp only; omega) (e ▸ placeOf_routeWord k i h)
  slots := rfl
  site := rfl

theorem agree_writeWords (l : List (BitVec 18 × Word)) (s : State) (free : ∀ p ∈ l, freeAddr p.1) :
    PortAgree s (s.writeWords l) := by
  induction l generalizing s with
  | nil => exact .refl s
  | cons p l ih =>
    rw [writeWords_cons]
    exact (agree_writeWord s p.1 p.2 (free p List.mem_cons_self)).trans
      (ih _ fun q hq => free q (List.mem_cons_of_mem _ hq))

theorem agree_served (s : State) (u : PortUser) : PortAgree s (s.served u) := .apart

theorem agree_answered (s : State) (b : BusAnswer) : PortAgree s (s.answered b) := .apart

/-- A run of stores that stores no slot. -/
theorem PortAgree.of_moves {R : Slot → Slot → Prop} {s t : State} (m : Moves R s t) (slots : t.slots = s.slots) :
    PortAgree s t :=
  .of_shows (congrArg Outside.mem m.outside) (fun h => (congrArg Outside.mode m.outside).symm.trans h) slots
    (congrArg Outside.site m.outside) m.shows

theorem agree_setDsp (s : State) (f : DspFlag) : PortAgree s (s.setDsp f) :=
  .of_shows rfl id rfl rfl (shows_putDsp s _)

/-- A new value of one control word, whose record is marked. -/
theorem PortAgree.control {s t : State} (c : CtlWord) (mem : t.mem = s.mem := by rfl)
    (mode : t.mode = .loading → s.mode = .loading := by exact id) (slots : t.slots = s.slots := by rfl)
    (segs : t.segs = s.segs := by rfl) (scrubbers : t.scrubbers = s.scrubbers := by rfl)
    (site : t.site = s.site := by rfl) (dirty : t.dirty = s.dirty := by rfl)
    (others : ∀ d, d ≠ c → t.controlValue d = s.controlValue d := by
      intro d ne; cases d <;> first | rfl | exact absurd rfl ne) :
    PortAgree s (t.markDirty (.control c)) := by
  refine .of_shows mem mode slots site (shows_marked (.control c) (by rw [← dirty]; rfl) fun r ne => ?_)
  have same : (t.markDirty (.control c)).recordWords r = t.recordWords r :=
    recordWords_same rfl rfl rfl rfl (by intro d; cases d <;> rfl) r
  exact same.trans (recordWords_of_control c segs slots scrubbers site others r ne)

theorem agree_judgeThreshold (s : State) : PortAgree s s.judgeThreshold :=
  .ite _ (fun _ => agree_setDsp s _) (fun _ => .refl s)

theorem agree_publish (s : State) : PortAgree s s.publish := by
  unfold State.publish
  split
  case h_1 => exact .refl s
  case h_2 n _ =>
    have indexed : PortAgree s (({ s with held := none, writeIx := s.writeIx + BitVec.ofNat 10 n.length } :
        State).markDirty (.control .writeIx)) :=
      .control .writeIx
    exact (indexed.trans (agree_setDsp _ _)).trans (agree_judgeThreshold _)

theorem agree_endGrant (s : State) : PortAgree s s.endGrant := by
  obtain ⟨_, e⟩ | ⟨g, _, e⟩ := endGrant_cases s
  · rw [e]; exact .refl s
  · have freed : PortAgree s { s with noticeGrant := none } := .apart
    have written := freed.trans (agree_writeWords g.words _ (freeAddr_noticeWords g))
    rw [e]
    exact .ite _ (fun _ => written.trans (agree_publish _)) (fun _ => written)

theorem agree_beginGrant (s : State) : PortAgree s s.beginGrant := by
  unfold State.beginGrant
  split
  · exact .refl s
  · exact .apart

theorem recordWords_takeRecord (s : State) (q r : MirrorRec) : (s.takeRecord q).recordWords r = s.recordWords r :=
  recordWords_same rfl rfl rfl rfl (by intro d; cases d <;> rfl) r

theorem recordWords_writeWords (s : State) (l : List (BitVec 18 × Word)) (r : MirrorRec) :
    (s.writeWords l).recordWords r = s.recordWords r := by
  rw [writeWords_eq]
  exact recordWords_same rfl rfl rfl rfl (by intro d; cases d <;> rfl) r

/-- The mirror writer's grant, outside LOADING, makes the record it takes stand in memory (R35). -/
theorem agree_mirrorGrant (s : State) (work : s.mode ≠ .loading) : PortAgree s s.mirrorGrant := by
  obtain ⟨_, e⟩ | ⟨r, _, e⟩ := mirrorGrant_cases s
  · rw [e]; exact .refl s
  rw [e]
  refine PortAgree.trans ?_ (agree_served _ _)
  refine ⟨fun m => memWf_writeWords _ _ m, fun m law => ⟨fun q listed clean p hp => ?_, fun loading => ?_⟩,
    fun m k i h => ?_, by rw [writeWords_eq]; rfl, by rw [writeWords_eq]; rfl⟩
  · rw [recordWords_writeWords, recordWords_takeRecord] at hp
    have clean' : q ∉ s.dirty.erase r := by rw [writeWords_eq] at clean; exact clean
    by_cases same : q = r
    · subst same
      exact readWord_writeWords _ (s.takeRecord q) m (nodup_recordWords s q) p hp
    · rw [readWord_writeWords_other _ (s.takeRecord r) m p.1 fun x hx => ne_of_records same listed hp hx]
      exact law.1 q listed (fun dirty => clean' ((List.mem_erase_of_ne same).mpr dirty)) p hp
  · rw [writeWords_eq] at loading; exact absurd loading work
  · refine readWord_writeWords_other _ (s.takeRecord r) m _ fun x hx e => ?_
    have place := placeOf_recordWords s r x hx
    rw [e, placeOf_routeWord k i h] at place
    exact places_above_draft r k ⟨i + 1, by omega⟩ (by dsimp only; omega) place

/-- The mirror writer gets the port only when it waits for it, which in LOADING it does not (R37). -/
theorem not_loading_of_grant (s : State) (l : List PortUser) (h : s.grantNext (l ++ s.portWaiters) = some .mirror)
    (hl : PortUser.mirror ∉ l) : s.mode ≠ .loading := by
  intro loading
  have waits : PortUser.mirror ∈ l ++ s.portWaiters := by simpa using List.find?_some h
  simp [State.portWaiters, State.mirrorWaits, loading, hl] at waits

theorem agree_serveAhead (s : State) : PortAgree s s.serveAhead := by
  unfold State.serveAhead
  split
  case h_1 mirror => exact agree_mirrorGrant s (not_loading_of_grant s [.passage] mirror (by decide))
  case h_2 => exact (agree_beginGrant s).trans (agree_endGrant _)
  case h_3 => exact .refl s
  case h_4 => exact .refl s

theorem agree_awaitPort (s : State) : PortAgree s s.awaitPort :=
  ((agree_endGrant s).trans (agree_serveAhead _)).trans (agree_serveAhead _)

theorem agree_atTurn (s : State) (ready : Bool) : PortAgree s (s.atTurn ready) :=
  .ite _ (fun _ => .refl s) (fun _ => agree_awaitPort s)

theorem agree_arbitrate (s : State) : PortAgree s s.arbitrate :=
  .ite _ (fun _ => agree_beginGrant s) (fun _ => .refl s)

theorem agree_mirrorWrite (s : State) : PortAgree s s.mirrorWrite := by
  refine .ite _ (fun turn => ?_) (fun _ => .refl s)
  rw [Bool.and_eq_true, decide_eq_true_eq] at turn
  exact (agree_mirrorGrant s (not_loading_of_grant s [] turn.2 (by decide))).trans (agree_arbitrate _)

theorem agree_noticeAdmission (s : State) : PortAgree s s.noticeAdmission := by
  refine .ite _ (fun _ => .refl s) (fun _ => ?_)
  split
  case h_1 => exact .refl s
  case h_2 n rest _ =>
    refine .ite _ (fun _ => PortAgree.trans ?_ (agree_arbitrate _)) (fun _ => PortAgree.trans ?_ (agree_setDsp _ _))
    · exact .apart
    · exact .apart

theorem agree_noticePublish (s : State) : PortAgree s s.noticePublish :=
  .ite _ (fun _ => (agree_endGrant s).trans (agree_arbitrate _)) (fun _ => .refl s)

end Sys2Proof.Machine
end

section
/-! SUPPORT. Commits, and what they leave of the drafts in plan memory (R58, R60). -/
namespace Sys2Proof.Machine
open Sys2Proof
set_option Elab.async false

/-! ### The rest of the events at the core and the tracker -/

section Rest
variable {s t : State}

theorem mv_refuseCommit (h : Moves Slot.KeepsRoute s t) (k : SlotIx) (f : Result × Nat) :
    Moves Slot.KeepsRoute s (t.refuseCommit k f) := mv_notifySlot ((mv_setResult h k _ _).markDirty _) _ _ _ _

theorem mv_restartWet {R : Slot → Slot → Prop} (h : Moves R s t) : Moves R s t.restartWet :=
  mv_foldl _ (fun _ g m => mv_ite _ (fun _ => mv_markWet m g) (fun _ => m)) _ h

theorem mv_invalidReport {R : Slot → Slot → Prop} (h : Moves R s t) (c : CellIx) (r : Report) :
    Moves R s (t.invalidReport c r) := mv_notify (h.setDsp _) _ _

theorem mv_reseedZone (h : Moves Slot.KeepsRoute s t) (z : ZoneIx) :
    Moves Slot.KeepsRoute s (t.event (State.reseed z)) := mv_event _ (fun _ m => mv_reseed m z) h

end Rest

/-! ### Captured routes -/

/-- Every segment of the route is the draft's value at its index (R60). -/
def Slot.drafted (r : Slot) : Prop :=
  ∀ (i : Nat) (g : SegIx), r.route[i]? = some g → ∃ h : i < 10, r.draft.route[i] = BitVec.ofNat 32 (g.val + 1)

/-- The draft stays, and a slot that is live after the change keeps the route that it had, live or captured; a route is
captured value by value if the site has no more segments than there are numbers, which is `few` (R58, R60). -/
structure Slot.KeepsWords (few : Prop) (r t : Slot) : Prop where
  draft : t.draft = r.draft
  live : t.state ≠ .idle → t.route = r.route ∧ (r.state ≠ .idle ∨ (few → r.drafted))

theorem Slot.KeepsRoute.words {few : Prop} {r t : Slot} (h : r.KeepsRoute t) : Slot.KeepsWords few r t :=
  ⟨h.draft, fun l => ⟨(h.live l).2, .inl (h.live l).1⟩⟩

theorem Slot.keepsWords_of_drafted {few : Prop} {r t : Slot} (drafted : few → r.drafted)
    (draft : t.draft = r.draft := by rfl) (route : t.route = r.route := by rfl) : Slot.KeepsWords few r t :=
  ⟨draft, fun _ => ⟨route, .inr drafted⟩⟩

/-- A run that keeps routes, after a run that keeps the words of drafts. -/
theorem Moves.andKeeps {few : Prop} {s t u : State} (a : Moves (Slot.KeepsWords few) s t)
    (b : Moves Slot.KeepsRoute t u) : Moves (Slot.KeepsWords few) s u := a.trans (b.weaken fun _ _ h => h.words)

theorem n_le_of_siteLaw (s : State) (law : s.siteLaw) : s.n ≤ 255 := by
  unfold State.n
  cases site : s.site with
  | none => exact Nat.zero_le _
  | some m =>
    obtain ⟨_, bound, _⟩ := law m site
    exact bound

theorem entries_getElem (d : Draft) (i : Nat) (e : Word × Nat) (h : d.entries[i]? = some e) :
    ∃ hi : i < 10, d.route[i] = e.1 := by
  simp only [Draft.entries, List.getElem?_zipIdx, Option.map_eq_some_iff, List.getElem?_take] at h
  obtain ⟨w, taken, rfl⟩ := h
  split at taken
  · obtain ⟨hi, here⟩ := List.getElem?_eq_some_iff.mp taken
    exact ⟨by simpa using hi, by simpa using here⟩
  · cases taken

/-- Every entry of a draft names a segment, so the captured route has its entries at the draft's own indices (R60). -/
theorem captured_drafted (s : State) (d : Draft) (few : s.n ≤ 255) (sound : s.firstOutOfRange d = none) (i : Nat)
    (g : SegIx) (h : d.captured[i]? = some g) : ∃ hi : i < 10, d.route[i] = BitVec.ofNat 32 (g.val + 1) := by
  have inside : ∀ e ∈ d.entries, 1 ≤ e.1.toNat ∧ e.1.toNat ≤ s.n := by
    simpa [State.firstOutOfRange, Nat.one_le_iff_ne_zero] using sound
  have named : ∀ e ∈ d.entries, ∃ g, ixOf 255 e.1.toNat = some g := fun e he => by
    obtain ⟨low, high⟩ := inside e he
    exact (ixOf_in_range 255 e.1.toNat low (high.trans few)).imp fun _ h => h.1
  obtain ⟨e, here, names⟩ : ∃ e, d.entries[i]? = some e ∧ ixOf 255 e.1.toNat = some g := by
    have whole : d.captured.map some = d.entries.map (fun e => ixOf 255 e.1.toNat) := by
      unfold Draft.captured
      generalize d.entries = l at named
      induction l with
      | nil => rfl
      | cons e l ih =>
        obtain ⟨g, eg⟩ := named e List.mem_cons_self
        simp only [List.filterMap_cons, eg, List.map_cons, ih fun x hx => named x (List.mem_cons_of_mem _ hx)]
    have at_i := congrArg (·[i]?) whole
    simp only [List.getElem?_map, h, Option.map_some] at at_i
    obtain ⟨e, he, eg⟩ := Option.map_eq_some_iff.mp at_i.symm
    exact ⟨e, he, eg⟩
  obtain ⟨hi, word⟩ := entries_getElem d i e here
  refine ⟨hi, word.trans (BitVec.eq_of_toNat_eq ?_)⟩
  have number := ixOf_eq_some 255 _ _ names
  rw [BitVec.toNat_ofNat, ← number, Nat.mod_eq_of_lt e.1.isLt]

section Commits
variable {few : Prop} {s t : State}

theorem mw_captureFleet (h : Moves (Slot.KeepsWords few) s t) (k : SlotIx) (x : ScrubIx) (m : AuthMode)
    (idle : (t.slot k).state = .idle) : Moves (Slot.KeepsWords few) s (t.captureFleet k x m) :=
  h.slot k _ ⟨rfl, fun live => absurd idle live⟩

theorem mw_capturePassenger (h : Moves (Slot.KeepsWords few) s t) (k : SlotIx) (idle : (t.slot k).state = .idle) :
    Moves (Slot.KeepsWords few) s (t.capturePassenger k) := h.slot k _ ⟨rfl, fun live => absurd idle live⟩

theorem mw_beginWaiting (h : Moves (Slot.KeepsWords few) s t) (k : SlotIx) (f : Result × Nat) (limit : Nat)
    (drafted : few → (t.slot k).drafted) : Moves (Slot.KeepsWords few) s (t.beginWaiting k f limit) :=
  mv_notify (((h.slot k _ (Slot.keepsWords_of_drafted drafted)).queue _).markDirty _) _ _

theorem firstOutOfRange_of_fleet {k : SlotIx} {r : ScrubIx × AuthMode} (h : s.structuralFleet k = .ok r) :
    s.firstOutOfRange (s.slot k).draft = none := by
  unfold State.structuralFleet at h
  dsimp only at h
  split at h
  · split at h
    · cases h
    · assumption
  · cases h

theorem firstOutOfRange_of_passenger {k : SlotIx} (h : s.structuralPassenger k = none) :
    s.firstOutOfRange (s.slot k).draft = none := by
  unfold State.structuralPassenger at h
  dsimp only at h
  split at h
  · cases h
  · split at h
    · cases h
    · assumption

theorem mw_commitFleet (h : Moves (Slot.KeepsWords few) s t) (k : SlotIx) (wait : Bool) (counts : few → t.n ≤ 255)
    (idle : (t.slot k).state = .idle) : Moves (Slot.KeepsWords few) s (t.commitFleet k wait) := by
  unfold State.commitFleet
  split
  case h_1 => exact h.andKeeps (mv_refuseCommit (.refl t) k _)
  case h_2 x m passes =>
  have captured := mw_captureFleet h k x m idle
  have drafted : few → ((t.captureFleet k x m).slot k).drafted := fun h => by
    rw [State.captureFleet, slot_setSlot_same]
    exact captured_drafted t _ (counts h) (firstOutOfRange_of_fleet passes)
  dsimp only
  split
  case h_1 => exact mv_grant captured k (Slot.keepsWords_of_drafted drafted)
  case h_2 =>
    refine mv_ite _ (fun _ => ?_) (fun _ => h.andKeeps (mv_refuseCommit (.refl t) k _))
    exact mw_beginWaiting (mv_setLive captured _ _) k _ _ drafted

theorem mw_commitPassenger (h : Moves (Slot.KeepsWords few) s t) (k : SlotIx) (counts : few → t.n ≤ 255)
    (idle : (t.slot k).state = .idle) : Moves (Slot.KeepsWords few) s (t.commitPassenger k) := by
  unfold State.commitPassenger
  split
  case h_1 => exact h.andKeeps (mv_refuseCommit (.refl t) k _)
  case h_2 passes =>
  have captured := mw_capturePassenger h k idle
  have drafted : few → ((t.capturePassenger k).slot k).drafted := fun h => by
    rw [State.capturePassenger, slot_setSlot_same]
    exact captured_drafted t _ (counts h) (firstOutOfRange_of_passenger passes)
  dsimp only
  split
  case h_1 => exact mv_activate captured k (Slot.keepsWords_of_drafted drafted)
  case h_2 f _ =>
    have waiting := mw_beginWaiting captured k f t.passengerWaitLimit drafted
    exact (mv_foldl _ (fun _ g m => mv_addClaim m k g) _ waiting).andKeeps (mv_preempt (.refl _) _)

theorem mw_commitWrite (h : Moves (Slot.KeepsWords few) s t) (k : SlotIx) (v : Word) (counts : few → t.n ≤ 255) :
    Moves (Slot.KeepsWords few) s (t.commitWrite k v) := by
  refine Moves.andKeeps ?_ (mv_settle (.refl _))
  have begun := h.clearFreeing
  have refused (f : Result × Nat) := begun.andKeeps (mv_refuseCommit (.refl t.clearFreeing) k f)
  refine mv_ite _ (fun _ => refused _) fun _ => mv_ite _ (fun _ => ?_) fun idle => mv_ite _ (fun _ => refused _) fun _ => ?_
  · exact begun.andKeeps (mv_refuseOnly (.refl _) k _)
  have free : (t.clearFreeing.slot k).state = .idle := by
    simpa [SlotState.live] using idle
  exact mv_ite _ (fun _ => mw_commitFleet begun k _ counts free) (fun _ => mw_commitPassenger begun k counts free)

end Commits

end Sys2Proof.Machine
end

section
/-! SUPPORT. What every command leaves of the agreement of plan memory with the part (R34, R35, R37, R58, R60). -/
namespace Sys2Proof.Machine
open Sys2Proof
set_option Elab.async false

/-! ### The agreement of memory with drafts and routes -/

/-- The law of the drafts at the route indices that a draft has (R58, R60). -/
def State.draftsShown (s : State) : Prop :=
  (∀ (k : SlotIx) (i : Fin 10), (s.slot k).draft.route[i.val] ≠ 0 →
      s.readWord (slotAddr k (i.val + 1)) = (s.slot k).draft.route[i.val])
    ∧ ∀ k : SlotIx, (s.slot k).state ≠ .idle → ∀ i g, i < 10 → (s.slot k).route[i]? = some g →
        s.readWord (slotAddr k (i + 1)) = BitVec.ofNat 32 (g.val + 1)

theorem draftsShown_of_draftLaw {s : State} (law : s.draftLaw) : s.draftsShown :=
  ⟨law.1, fun k live i g _ here => law.2 k live i g here⟩

/-- No route is longer than a draft (R60). -/
theorem draftLaw_of_draftsShown {s : State} (short : s.routeLaw) (law : s.draftsShown) : s.draftLaw := by
  refine ⟨law.1, fun k live i g here => law.2 k live i g ?_ here⟩
  obtain ⟨bound, _⟩ := List.getElem?_eq_some_iff.mp here
  exact bound.trans_le (short k).1

/-- Plan memory agrees with the part as well as before. -/
structure Agree (s t : State) : Prop where
  memory : s.memoryLaw → t.memoryLaw
  counts : s.n ≤ 255 → t.n ≤ 255
  mirror : s.memoryLaw → s.mirrorLaw → t.mirrorLaw
  drafts : s.memoryLaw → s.n ≤ 255 → s.draftsShown → t.draftsShown

theorem Agree.refl (s : State) : Agree s s := ⟨id, id, fun _ => id, fun _ _ => id⟩

theorem Agree.trans {s t u : State} (a : Agree s t) (b : Agree t u) : Agree s u :=
  ⟨b.memory ∘ a.memory, b.counts ∘ a.counts, fun m l => b.mirror (a.memory m) (a.mirror m l),
    fun m n l => b.drafts (a.memory m) (a.counts n) (a.drafts m n l)⟩

theorem Agree.ite {s t u : State} (c : Prop) [Decidable c] (ht : c → Agree s t) (hu : ¬ c → Agree s u) :
    Agree s (if c then t else u) := by
  split
  · exact ht ‹_›
  · exact hu ‹_›

theorem PortAgree.agree {s t : State} (h : PortAgree s t) : Agree s t where
  memory := h.memory
  counts few := by rw [n_congr h.site]; exact few
  mirror := h.mirror
  drafts m _ law := by
    have slot (k : SlotIx) : t.slot k = s.slot k := by unfold State.slot; rw [h.slots]
    constructor
    · intro k i drafted
      rw [slot] at drafted ⊢
      rw [h.words m k i.val i.isLt]
      exact law.1 k i drafted
    · intro k live i g bound here
      rw [slot] at live here
      rw [h.words m k i bound]
      exact law.2 k live i g bound here

/-- A slot whose draft and routes show in memory still has them there after a store that keeps their words. -/
theorem draftsShown_setSlot {few : Prop} (h : few) {s : State} (k : SlotIx) (r : Slot)
    (keeps : Slot.KeepsWords few (s.slot k) r) (law : s.draftsShown) : (s.setSlot k r).draftsShown := by
  obtain ⟨drafts, routes⟩ := law
  constructor
  · intro j i drafted
    have draft : ((s.setSlot k r).slot j).draft = (s.slot j).draft := by
      rw [slot_setSlot]
      split
      · rename_i e; subst e; exact keeps.draft
      · rfl
    rw [draft] at drafted ⊢
    exact drafts j i drafted
  · intro j live i g bound here
    rw [slot_setSlot] at live here
    split at live
    · rename_i e
      subst e
      obtain ⟨route, was⟩ := keeps.live live
      rw [if_pos rfl, route] at here
      obtain wasLive | drafted := was
      · exact routes k wasLive i g bound here
      · obtain ⟨hi, word⟩ := drafted h i g here
        have nonzero : (s.slot k).draft.route[i] ≠ 0 := by
          rw [word]
          have range := g.isLt
          intro zero
          have number := congrArg BitVec.toNat zero
          rw [BitVec.toNat_ofNat, Nat.mod_eq_of_lt (by omega)] at number
          exact absurd number (Nat.succ_ne_zero _)
        exact (drafts k ⟨i, hi⟩ nonzero).trans word
    · rename_i ne
      rw [if_neg ne] at here
      exact routes j live i g bound here

/-- A run of stores that keeps the words of drafts leaves them agreeing with memory. -/
theorem Moves.draftsShown {few : Prop} (h : few) {s t : State} (m : Moves (Slot.KeepsWords few) s t)
    (law : s.draftsShown) : t.draftsShown := by
  induction m with
  | refl => exact law
  | slot _ k r keeps ih => exact draftsShown_setSlot h k r keeps ih
  | _ => assumption

theorem Agree.of_words {s t : State} (m : Moves (Slot.KeepsWords (s.n ≤ 255)) s t) : Agree s t where
  memory law := by
    have same : t.mem = s.mem := congrArg Outside.mem m.outside
    rw [State.memoryLaw, same]
    exact law
  counts few := by rw [n_congr (congrArg Outside.site m.outside)]; exact few
  mirror _ := mirrorLaw_of_shows (congrArg Outside.mem m.outside)
    (fun h => (congrArg Outside.mode m.outside).symm.trans h) m.shows
  drafts _ few := m.draftsShown few

theorem Agree.of_moves {s t : State} (m : Moves Slot.KeepsRoute s t) : Agree s t :=
  .of_words (m.weaken fun _ _ h => h.words)

theorem agree_commitWrite (s : State) (k : SlotIx) (v : Word) : Agree s (s.commitWrite k v) :=
  .of_words (mw_commitWrite (.refl s) k v id)

/-! ### Restarts and the entry to SERVICE -/

/-- A restart marks every record and empties every slot (R37, R172). -/
theorem agree_restarted {s t : State} (memory : s.memoryLaw → t.memoryLaw) (dirty : t.dirty = allRecords)
    (slots : t.slots = Vector.replicate 24 {}) (site : t.site = none) : Agree s t where
  memory := memory
  counts _ := by rw [State.n, site]; exact Nat.zero_le _
  mirror _ _ := ⟨fun r listed clean => absurd (dirty ▸ listed) clean, fun _ r listed => dirty ▸ listed⟩
  drafts _ _ _ := by
    have empty (k : SlotIx) : t.slot k = {} := by simp [State.slot, slots]
    constructor
    · intro k i drafted
      simp only [empty] at drafted
      exact absurd (by simp) drafted
    · intro k live
      rw [empty] at live
      exact absurd rfl live

theorem agree_restart (s : State) (c : Cause) : Agree s (s.restart c) := agree_restarted id rfl rfl rfl

theorem agree_restartWith (s : State) (c : Cause) (f : InFlight) : Agree s (s.restartWith c f) :=
  agree_restarted (memWf_writeWords _ s) rfl rfl rfl

theorem agree_enterService (s : State) : Agree s s.enterService := by
  have mode : PortAgree s { s with mode := .service } := .apart (mode := fun h => by cases h)
  exact mode.agree.trans (.of_moves (mv_notify (mv_restartWet (.refl _)) _ _))

theorem agree_judgeService (s : State) : Agree s s.judgeService :=
  .ite _ (fun _ => agree_enterService s) (fun _ => .refl s)

theorem agree_acknowledge (s : State) : Agree s s.acknowledge := by
  have remembered : PortAgree s { s with ackRestart := true } := .apart
  exact remembered.agree.trans (agree_judgeService _)

theorem agree_reportEvent (s : State) (c : CellIx) (v : Word) : Agree s (s.reportEvent c v) := by
  have emptied : Moves Slot.KeepsRoute s (s.setCell c {}) := (Moves.refl s).cell c {}
  unfold State.reportEvent
  dsimp only
  split
  case h_1 => exact .of_moves (mv_invalidReport emptied c _)
  case h_2 x p _ =>
    refine .ite _ (fun _ => .of_moves (mv_notify emptied _ _)) fun _ => ?_
    exact (Agree.of_moves (mv_event _ (fun _ m => mv_processReport m x p _) emptied)).trans (agree_judgeService _)

/-! ### Control words -/

theorem agree_tune (s : State) (i : Fin 8) (v : Word) : PortAgree s (s.tune i v) := by
  have stored : PortAgree s (({ s with tuning := s.tuning.set i.val (tuningStored i v) } : State).markDirty
      (.control (.tuning i))) := by
    refine .control (.tuning i) (others := fun d ne => ?_)
    cases d with
    | tuning j =>
      have apart : i.val ≠ j.val := fun e => ne (by rw [Fin.ext e])
      exact Vector.getElem_set_ne i.isLt j.isLt apart
    | _ => rfl
  exact .ite _ (fun _ => stored.trans (agree_judgeThreshold _)) (fun _ => stored)

theorem agree_clearDsp (s : State) (v : Word) : PortAgree s (s.clearDsp v) := by
  have cleared : PortAgree s (s.putDsp (s.dspFlags &&& ~~~(v.setWidth 16 &&& ~~~s.heldPlaces))) :=
    .of_shows rfl id rfl rfl (shows_putDsp s _)
  refine .ite _ (fun _ => cleared.trans ?_) (fun _ => cleared)
  exact .control .refused

theorem agree_clearOps (s : State) (v : Word) : PortAgree s (s.clearOps v) :=
  .of_shows rfl id rfl rfl (shows_putOps s _)

theorem agree_setDspMask (s : State) (v : Word) : PortAgree s (s.setDspMask v) :=
  .control .dspMask

theorem agree_setOpsMask (s : State) (v : Word) : PortAgree s (s.setOpsMask v) :=
  .control .opsMask

theorem agree_setGwyMask (s : State) (v : Word) : PortAgree s (s.setGwyMask v) :=
  .control .gwyMask

theorem agree_takeReadIx (s : State) (v : Word) : PortAgree s (s.takeReadIx v) :=
  .control .readIx

theorem agree_setResultRec (s : State) (i : Issuer) (r : CmdResult) : PortAgree s (s.setResultRec i r) := by
  cases i
  · exact .control .dspResult
  · exact .control .opsResult

theorem agree_fillCapture (s : State) (a : Access) : PortAgree s (s.fillCapture a) := by
  unfold State.fillCapture
  split
  · exact .refl s
  · exact .control .refused

theorem agree_notify (s : State) (kind : NoticeKind) (p : List Word) : PortAgree s (s.notify kind p) := by
  refine .of_moves (R := Slot.KeepsRoute) (mv_notify (.refl s) kind p) ?_
  unfold State.notify State.stage
  split
  · rfl
  · split <;> rfl

/-- RESET_NOTICES sets both indices of the ring and marks their words (R171). -/
theorem agree_resetNotices (s : State) : PortAgree s s.resetNotices := by
  have written : PortAgree s (({ s with writeIx := 0 } : State).markDirty (.control .writeIx)) := .control .writeIx
  have read : PortAgree (({ s with writeIx := 0 } : State).markDirty (.control .writeIx))
      (({ (({ s with writeIx := 0 } : State).markDirty (.control .writeIx)) with
          readIx := 0, held := none, staging := s.held.toList ++ s.staging,
          noticeGrant := s.noticeGrant.map (fun g => { g with publish := false }) } : State).markDirty
            (.control .readIx)) := .control .readIx
  exact (written.trans read).trans (agree_notify _ _ _)

/-! ### Commands (R160, R161) -/

section Commands
variable {s t : State}

theorem agree_cmdAckRestart (h : s.cmdAckRestart = .ok t) : Agree s t := by
  unfold State.cmdAckRestart at h
  split at h
  · cases h; exact agree_acknowledge s
  · cases h

theorem agree_cmdWithdraw (f : CmdFields) (h : s.cmdWithdraw f = .ok t) : Agree s t := by
  have leaves (x : ScrubIx) (g : Option SegIx) : Agree s (s.withdraw x g).judgeService :=
    (Agree.of_moves (mv_withdraw (.refl s) x g)).trans (agree_judgeService _)
  unfold State.cmdWithdraw at h
  split at h
  · cases h
  split at h
  · cases h
  split at h
  · cases h
  split at h
  · cases h; exact leaves _ none
  split at h
  · cases h
  · cases h; exact leaves _ (some _)

theorem agree_cmdReadmit (f : CmdFields) (h : s.cmdReadmit f = .ok t) : Agree s t := by
  unfold State.cmdReadmit at h
  split at h
  · cases h
  split at h
  · cases h
  split at h
  · cases h; exact .of_moves (((Moves.refl s).scrub _ _).markDirty _)
  · cases h

theorem agree_cmdClearViolation (f : CmdFields) (h : s.cmdClearViolation f = .ok t) : Agree s t := by
  unfold State.cmdClearViolation at h
  split at h
  · cases h
  split at h
  · cases h
  split at h
  · cases h; exact (Agree.of_moves (((Moves.refl s).scrub _ _).markDirty _)).trans (agree_judgeService _)
  · cases h

theorem agree_cmdCloseSegment (i : Issuer) (f : CmdFields) (h : s.cmdCloseSegment i f = .ok t) : Agree s t := by
  unfold State.cmdCloseSegment at h
  split at h
  · cases h
  split at h
  · cases h
  · cases h; exact .of_moves (mv_closeSegment (.refl s) i _)

theorem agree_cmdReopenSegment (i : Issuer) (f : CmdFields) (h : s.cmdReopenSegment i f = .ok t) : Agree s t := by
  unfold State.cmdReopenSegment at h
  split at h
  · cases h
  split at h
  · cases h
  split at h
  · cases h; exact .of_moves (mv_reopenSegment (.refl s) i _)
  · cases h

theorem agree_cmdCloseZone (f : CmdFields) (h : s.cmdCloseZone f = .ok t) : Agree s t := by
  unfold State.cmdCloseZone at h
  split at h
  · cases h
  split at h
  · cases h
  · cases h; exact .of_moves (mv_closeZone (.refl s) _)

theorem agree_cmdReopenZone (f : CmdFields) (h : s.cmdReopenZone f = .ok t) : Agree s t := by
  unfold State.cmdReopenZone at h
  split at h
  · cases h
  split at h
  · cases h
  · cases h; exact .of_moves (mv_reopenZone (.refl s) _)

theorem agree_cmdReseedZone (f : CmdFields) (h : s.cmdReseedZone f = .ok t) : Agree s t := by
  unfold State.cmdReseedZone at h
  split at h
  · cases h
  split at h
  · cases h
  split at h
  · cases h; exact .of_moves (mv_reseedZone (.refl s) _)
  · cases h

theorem agree_cmdResetNotices (h : s.cmdResetNotices = .ok t) : Agree s t := by
  unfold State.cmdResetNotices at h
  split at h
  · cases h
  · cases h; exact (agree_resetNotices s).agree

theorem agree_cmdReloadSite (h : s.cmdReloadSite = .ok t) : Agree s t := by
  unfold State.cmdReloadSite at h
  split at h
  · cases h; exact agree_restart s _
  split at h
  · split at h
    · cases h; exact agree_restart s _
    · cases h
  · cases h

theorem agree_cmdOf (i : Issuer) (code : Nat) (f : CmdFields) (h : s.cmdOf i code f = .ok t) : Agree s t := by
  unfold State.cmdOf at h
  split at h
  · exact agree_cmdAckRestart h
  · exact agree_cmdWithdraw f h
  · exact agree_cmdReadmit f h
  · exact agree_cmdClearViolation f h
  · exact agree_cmdCloseSegment i f h
  · exact agree_cmdReopenSegment i f h
  · exact agree_cmdCloseZone f h
  · exact agree_cmdReopenZone f h
  · exact agree_cmdReseedZone f h
  · exact agree_cmdResetNotices h
  · exact agree_cmdReloadSite h
  · cases h

end Commands

theorem agree_setOps (s : State) (f : OpsFlag) : PortAgree s (s.setOps f) :=
  .of_shows rfl id rfl rfl (shows_putOps s _)

theorem agree_flagRefused (s : State) (i : Issuer) : PortAgree s (s.flagRefused i) := by
  cases i
  · exact agree_setDsp s _
  · exact agree_setOps s _

theorem agree_issue (s : State) (i : Issuer) (code : Byte) (f : CmdFields) : Agree s (s.issue i code f) := by
  unfold State.issue
  split
  case h_1 t taken =>
    have done : Agree s t := by
      split at taken
      · exact agree_cmdOf i _ f taken
      · cases taken
    exact .ite _ (fun _ => done) (fun _ => done.trans (agree_setResultRec t i _).agree)
  case h_2 =>
    exact (((agree_setResultRec s i _).trans (agree_flagRefused _ i)).trans (agree_notify _ _ _)).agree

/-! ### Accesses (R18 to R33) -/

theorem agree_controlWrite (s : State) (c : CtlWord) (v : Word) : Agree s (s.controlWrite c v) := by
  cases c with
  | dspCommand => exact agree_issue s .dispatch _ _
  | opsCommand => exact agree_issue s .operations _ _
  | tuning i => exact (agree_tune s i v).agree
  | dspClear => exact (agree_clearDsp s v).agree
  | opsClear => exact (agree_clearOps s v).agree
  | dspMask => exact (agree_setDspMask s v).agree
  | opsMask => exact (agree_setOpsMask s v).agree
  | gwyMask => exact (agree_setGwyMask s v).agree
  | readIx => exact (agree_takeReadIx s v).agree
  | mode | clock | changedSlots | dspResult | opsResult | dspStatus | opsStatus | writeIx | refused | unassigned =>
    exact .refl s

theorem agree_actedWrite (s : State) (p : Place) (v : Word) : Agree s (s.actedWrite p v) := by
  cases p with
  | control c => exact agree_controlWrite s c v
  | slot k w =>
    exact .ite _ (fun _ => agree_commitWrite s k v) fun _ =>
      .ite _ (fun _ => .of_moves (mv_cancelWrite (.refl s) k v)) (fun _ => .refl s)
  | general | cell | figure | segView | scrubView | ring => exact .refl s

theorem agree_handoverRead (s : State) (t : Tag) (p : Place) : Agree s (s.handoverRead t p) := by
  cases p with
  | slot k w => exact .ite _ (fun _ => .of_moves (mv_gatewayHandover (.refl s) k)) (fun _ => .refl s)
  | general | control | cell | figure | segView | scrubView | ring => exact .refl s

theorem agree_deny (s : State) (a : Access) : PortAgree s (s.deny a) := by
  have flagged : PortAgree s (match a.tag with
      | .operations => s.setOps .accessRefused
      | .dispatch | .gateway | .three => s.setDsp .accessRefused) := by
    cases a.tag with
    | operations => exact agree_setOps s _
    | dispatch | gateway | three => exact agree_setDsp s _
  exact (flagged.trans (agree_fillCapture _ a)).trans (agree_answered _ _)

theorem agree_promote (s : State) (r : MirrorRec) : PortAgree s (s.promote r) :=
  .ite _ (fun _ => .refl s) (fun _ => .apart)

theorem agree_fetch (s : State) (l : List (BitVec 18)) : PortAgree s (s.fetch l) := by
  unfold State.fetch
  dsimp only
  refine PortAgree.trans ?_ ((agree_served _ _).trans (agree_answered _ _))
  exact .ite _ (fun _ => .refl s) (fun _ => agree_setDsp s _)

/-! ### Writes to memory (R24, R25) -/

theorem freeAddr_of_place {a : BitVec 18} (record : recordAt (placeOf a) = none)
    (apart : ∀ k w, placeOf a ≠ .slot k w) : freeAddr a := ⟨record, fun k w _ => apart k w⟩

theorem freeAddr_general {a : BitVec 18} (h : placeOf a = .general) : freeAddr a := by
  refine freeAddr_of_place (by rw [h]; rfl) fun k w => ?_
  rw [h]; exact Place.noConfusion

theorem freeAddr_cell {a : BitVec 18} {c : CellIx} {w : Fin 4} (h : placeOf a = .cell c w) : freeAddr a := by
  refine freeAddr_of_place (by rw [h]; rfl) fun k w => ?_
  rw [h]; exact Place.noConfusion

theorem freeAddr_figure {a : BitVec 18} {z : ZoneIx} {m : Bool} (h : placeOf a = .figure z m) : freeAddr a := by
  refine freeAddr_of_place (by rw [h]; rfl) fun k w => ?_
  rw [h]; exact Place.noConfusion

/-- The fate of a running access of tag 0 to 2 that is neither unsound nor refused is that of its transfer. -/
theorem fateOf_allowed {s : State} {a : Access} {f : Fate} (h : s.fateOf a = f) (answered : f ≠ .notReady)
    (allowed : f ≠ .denied) (sound : f ≠ .badParity) :
    s.allows a = true ∧ (match a.transfer with
      | .read _ => s.readFate a
      | .write _ _ => writeFate a) = f := by
  unfold State.fateOf at h
  split at h
  · exact absurd h.symm answered
  split at h
  · exact absurd h.symm allowed
  split at h
  · exact absurd h.symm sound
  split at h
  · exact absurd h.symm allowed
  · rename_i ok
    exact ⟨by simpa using ok, h⟩

theorem readFate_passes_nothing (s : State) (a : Access) :
    (∀ l, s.readFate a ≠ .pass l) ∧ ∀ v, s.readFate a ≠ .watch v := by
  unfold State.readFate
  dsimp only
  split
  · simp
  split
  · simp
  split <;> simp

theorem writeFate_pass {a : Access} {l : List (BitVec 18 × Word)} (h : writeFate a = .pass l) :
    placeOf a.addr = .general ∧ l = (takenWords a).map (fun w => (w.1, w.2.data)) := by
  unfold writeFate at h
  dsimp only at h
  split at h
  · rename_i place
    cases h
    exact ⟨place, rfl⟩
  split at h
  · cases h
  split at h <;> cases h

theorem writeFate_watch {a : Access} {v : Word} (h : writeFate a = .watch v) : classOf (placeOf a.addr) = .watched := by
  unfold writeFate at h
  dsimp only at h
  split at h
  · cases h
  split at h
  · cases h
  split at h
  · assumption
  all_goals cases h

/-- A memory write takes words of the general area alone (R19, R29). -/
theorem general_of_pass {s : State} {a : Access} {l : List (BitVec 18 × Word)} (h : s.fateOf a = .pass l) :
    ∀ p ∈ l, placeOf p.1 = .general := by
  obtain ⟨_, fate⟩ := fateOf_allowed h (by simp) (by simp) (by simp)
  split at fate
  · exact absurd fate ((readFate_passes_nothing s a).1 l)
  obtain ⟨first, rfl⟩ := writeFate_pass fate
  intro p hp
  obtain ⟨q, taken, rfl⟩ := List.mem_map.mp hp
  have addr : q.1 ∈ takenAddrs a := (List.of_mem_zip (a := q.1) (b := q.2) taken).1
  unfold takenAddrs at addr
  split at addr
  · rename_i whole
    simpa [isGeneral] using List.all_eq_true.mp whole q.1 addr
  · rw [List.mem_singleton.mp addr]; exact first

/-- A watched write is an allowed write of a watched word (R19, R25). -/
theorem allowed_of_watch {s : State} {a : Access} {v : Word} (h : s.fateOf a = .watch v) :
    classOf (placeOf a.addr) = .watched ∧ ∃ w more, a.transfer = .write w more ∧ s.stateAllows (placeOf a.addr) w.data = true := by
  obtain ⟨allowed, fate⟩ := fateOf_allowed h (by simp) (by simp) (by simp)
  split at fate
  · exact absurd fate ((readFate_passes_nothing s a).2 v)
  rename_i w more write
  refine ⟨writeFate_watch fate, w, more, write, ?_⟩
  unfold State.allows at allowed
  simp only [write, Bool.and_eq_true] at allowed
  exact allowed.1.2

/-- A header or route word of a slot has its own address (R58). -/
theorem addr_of_slotPlace {a : BitVec 18} {k : SlotIx} {w : Fin 16} (h : placeOf a = .slot k w) : a = slotAddr k w.val := by
  unfold placeOf at h
  dsimp only at h
  split at h
  · cases h
  split at h
  · cases h
  split at h
  · cases h
  split at h
  · cases h
  split at h
  · rename_i low high
    simp only [Place.slot.injEq] at h
    obtain ⟨rfl, rfl⟩ := h
    refine BitVec.eq_of_toNat_eq ?_
    simp only [slotAddr, BitVec.toNat_ofNat, Fin.ofNat]
    omega
  split at h
  · cases h
  split at h
  · cases h
  split at h
  · cases h
  split at h
  · cases h
  split at h <;> cases h

theorem slotAddr_inj {j k : SlotIx} {v w : Fin 16} (h : slotAddr j v.val = slotAddr k w.val) : j = k ∧ v = w := by
  have places := congrArg placeOf h
  rw [placeOf_slot, placeOf_slot] at places
  simpa using places

theorem route_written (d : Draft) (w : Fin 11) (v : Word) (i : Nat) (h : i < 10) :
    (d.written w v).route[i] = if w.val = i + 1 then v else d.route[i] := by
  unfold Draft.written
  split
  · rename_i header
    rw [if_neg (by omega)]
    rfl
  · rename_i header
    simp only [Vector.getElem_set]
    by_cases e : w.val = i + 1
    · rw [if_pos (by omega), if_pos e]
    · rw [if_neg (by omega), if_neg e]

theorem draftWrite_slot (s : State) (k j : SlotIx) (w : Fin 11) (v : Word) : (s.draftWrite k w v).slot j
    = if k = j then { s.slot k with draft := (s.slot k).draft.written w v } else s.slot j := slot_setSlot s k j _

/-- The draft word of an IDLE slot: the copy in the draft, then, with whatever the port did between, the word in memory
(R25, R58). -/
theorem draftsShown_written {s u : State} (k : SlotIx) (w : Fin 11) (v : Word) (idle : (s.slot k).state = .idle)
    (slots : u.slots = (s.draftWrite k w v).slots) (memory : u.memoryLaw)
    (words : ∀ (k : SlotIx) (i : Nat), i < 10 → u.readWord (slotAddr k (i + 1)) = s.readWord (slotAddr k (i + 1)))
    (law : s.draftsShown) : (u.writeWord (slotAddr k w.val) v).draftsShown := by
  obtain ⟨drafts, routes⟩ := law
  have slot (j : SlotIx) : (u.writeWord (slotAddr k w.val) v).slot j = (s.draftWrite k w v).slot j := by
    unfold State.slot; rw [← slots]; rfl
  have other (j : SlotIx) (i : Nat) (h : i < 10) (ne : ¬ (j = k ∧ i + 1 = w.val)) :
      (u.writeWord (slotAddr k w.val) v).readWord (slotAddr j (i + 1)) = s.readWord (slotAddr j (i + 1)) := by
    rw [readWord_writeWord_other u _ _ v memory, words j i h]
    intro e
    obtain ⟨slot, word⟩ := slotAddr_inj (v := ⟨i + 1, by omega⟩) (w := ⟨w.val, by omega⟩) e
    exact ne ⟨slot, Fin.mk.inj word⟩
  constructor
  · intro j i drafted
    simp only [slot, draftWrite_slot] at drafted ⊢
    by_cases e : k = j
    · subst e
      simp only [if_true, route_written _ _ _ _ i.isLt] at drafted ⊢
      by_cases here : w.val = i.val + 1
      · rw [if_pos here, ← here]
        exact readWord_writeWord_same u _ v memory
      · rw [if_neg here] at drafted ⊢
        rw [other k i.val i.isLt fun h => here h.2.symm]
        exact drafts k i drafted
    · simp only [if_neg e] at drafted ⊢
      rw [other j i.val i.isLt fun h => e h.1.symm]
      exact drafts j i drafted
  · intro j live i g bound here
    rw [slot, draftWrite_slot] at live here
    by_cases e : k = j
    · rw [if_pos e] at live
      exact absurd idle live
    · rw [if_neg e] at live here
      rw [other j i bound fun h => e h.1.symm]
      exact routes j live i g bound here

theorem agree_storeWatched (s : State) (a : BitVec 18) (v : Word) (free : freeAddr a) :
    PortAgree s (s.storeWatched a v) :=
  ((agree_writeWord s a v free).trans (agree_served _ _)).trans (agree_answered _ _)

theorem agree_draftWritten (s : State) (k : SlotIx) (w : Fin 11) (v : Word) (ready : Bool)
    (idle : (s.slot k).state = .idle) :
    Agree s (((s.draftWrite k w v).atTurn ready).storeWatched (slotAddr k w.val) v) := by
  have turn := agree_atTurn (s.draftWrite k w v) ready
  have record : recordAt (placeOf (slotAddr k w.val)) = none := by
    rw [placeOf_slot k ⟨w.val, by omega⟩]
    simp only [recordAt, slotRecord, Fin.ext_iff]
    have bound := w.isLt
    rw [if_neg (by simp; omega), if_neg (by simp; omega), if_neg (by simp; omega)]
  refine Agree.trans ?_ ((agree_served _ _).trans (agree_answered _ _)).agree
  refine ⟨fun m => memWf_writeWord _ _ v (turn.memory m), fun few => ?_, fun m law => ?_, fun m few law => ?_⟩
  · exact (n_congr (s := s) (t := (((s.draftWrite k w v).atTurn ready).writeWord _ v)) turn.site).trans_le few
  · refine mirrorLaw_writeWord _ _ v record (turn.memory m) (turn.mirror m ?_)
    exact mirrorLaw_of_shows (s := s) rfl id (shows_setSlot s k _) law
  · exact draftsShown_written k w v idle turn.slots (turn.memory m) (turn.words m) law

/-- A watched write in its turn: the copy to the owner, then the word to memory (R25). -/
theorem agree_watch (s : State) (a : BitVec 18) (v : Word) (ready : Bool) (watched : classOf (placeOf a) = .watched)
    (allowed : ∀ k w, placeOf a = .slot k w → w.val ≤ 10 → (s.slot k).state = .idle) :
    Agree s (((s.watchedCopy (placeOf a) v).atTurn ready).storeWatched a v) := by
  have stored (free : freeAddr a) (copied : Agree s (s.watchedCopy (placeOf a) v)) :
      Agree s (((s.watchedCopy (placeOf a) v).atTurn ready).storeWatched a v) :=
    copied.trans ((agree_atTurn _ ready).trans (agree_storeWatched _ a v free)).agree
  cases place : placeOf a with
  | cell c w =>
    refine place ▸ stored (freeAddr_cell place) ?_
    rw [place]
    unfold State.watchedCopy
    dsimp only
    split
    · exact .of_moves ((Moves.refl s).cell c _)
    · exact agree_reportEvent s c v
  | figure z m =>
    refine place ▸ stored (freeAddr_figure place) ?_
    rw [place]
    exact .ite _ (fun _ => .of_moves (mv_moisture (.refl s) z _)) (fun _ => .of_moves (mv_zoneSample (.refl s) z _))
  | slot k w =>
    have low : w.val ≤ 10 := by
      rw [place] at watched
      by_contra high
      simp only [classOf, slotWordClass, if_neg high] at watched
      split at watched
      · cases watched
      · split at watched <;> cases watched
    have copy : s.watchedCopy (.slot k w) v = s.draftWrite k ⟨w.val, by omega⟩ v := dif_pos (by omega)
    rw [copy, addr_of_slotPlace place]
    exact agree_draftWritten s k ⟨w.val, by omega⟩ v ready (allowed k w place low)
  | control c => rw [place] at watched; cases c <;> cases watched
  | general | segView | scrubView | ring => rw [place] at watched; cases watched

/-- The carrying out of an access that hands nothing over. -/
theorem agree_carryOut (s u : State) (a : Access) (other : ∀ v, u.fateOf a ≠ .watch v) :
    Agree s (s.carryOut a (u.fateOf a)) := by
  cases fate : u.fateOf a with
  | notReady => exact (agree_answered s _).agree
  | denied => exact (agree_deny s a).agree
  | badParity => exact (agree_answered s _).agree
  | pass l =>
    have written := agree_writeWords l s fun p hp => freeAddr_general (general_of_pass fate p hp)
    exact ((written.trans (agree_served _ _)).trans (agree_answered _ _)).agree
  | watch v => exact absurd fate (other v)
  | act v => exact (agree_actedWrite s _ v).trans (agree_answered _ _).agree
  | substitute => exact (agree_handoverRead s _ _).trans (agree_answered _ _).agree
  | shut => exact (agree_handoverRead s _ _).trans (agree_answered _ _).agree
  | dirtyRead r => exact ((agree_promote s r).trans (agree_answered _ _)).agree
  | fetch l => exact (agree_fetch s l).agree

theorem handOver_of_not_watch (s : State) (a : Access) {f : Fate} (other : ∀ v, f ≠ .watch v) : s.handOver a f = s := by
  cases f with
  | watch v => exact absurd rfl (other v)
  | _ => rfl

theorem agree_flagParity (s : State) (bad : Bool) : PortAgree s (s.flagParity bad) :=
  .ite _ (fun _ => agree_setDsp s _) (fun _ => .refl s)

theorem agree_busAccess (s : State) (a : Access) : Agree s (s.busAccess a) := by
  have flagged := (agree_flagParity s (s.busParityFails a))
  by_cases watch : ∃ v, s.fateOf a = .watch v
  · obtain ⟨v, fate⟩ := watch
    have step : s.busAccess a = ((((s.flagParity (s.busParityFails a)).watchedCopy (placeOf a.addr) v).atTurn
        s.portReady).storeWatched a.addr v).arbitrate := by
      unfold State.busAccess
      rw [fate]
      rfl
    obtain ⟨watched, w, more, _, free⟩ := allowed_of_watch fate
    rw [step]
    refine (flagged.agree.trans (agree_watch _ _ v _ watched fun k x place low => ?_)).trans (agree_arbitrate _).agree
    have same : (s.flagParity (s.busParityFails a)).slot k = s.slot k := by unfold State.slot; rw [flagged.slots]
    rw [place] at free
    have notLive : (s.slot k).state.live = false := by simpa [State.stateAllows, Nat.not_lt.mpr low] using free
    rw [same]
    simpa [SlotState.live] using notLive
  · have other : ∀ v, s.fateOf a ≠ .watch v := fun v e => watch ⟨v, e⟩
    unfold State.busAccess
    dsimp only
    rw [handOver_of_not_watch _ a other]
    refine .ite _ (fun _ => ?_) (fun _ => flagged.agree.trans (agree_carryOut _ s a other))
    exact ((flagged.trans (agree_atTurn _ _)).agree.trans (agree_carryOut _ s a other)).trans (agree_arbitrate _).agree

/-- Words of a record written anew leave plan memory in agreement: a clean record's words stand there already (R172). -/
theorem agree_recordWords (s : State) (r : MirrorRec) (m : Nat) : PortAgree s (s.writeWords ((s.recordWords r).take m)) := by
  have part {p : BitVec 18 × Word} (hp : p ∈ (s.recordWords r).take m) : p ∈ s.recordWords r := List.mem_of_mem_take hp
  refine ⟨fun l => memWf_writeWords _ _ l, fun l law => ⟨fun q listed clean p hp => ?_, fun loading => ?_⟩,
    fun l k i h => ?_, by rw [writeWords_eq], by rw [writeWords_eq]⟩
  · rw [recordWords_writeWords] at hp
    have clean' : q ∉ s.dirty := by rw [writeWords_eq] at clean; exact clean
    by_cases same : q = r
    · subst same
      by_cases again : p ∈ (s.recordWords q).take m
      · refine readWord_writeWords _ s l ?_ p again
        rw [List.map_take]
        exact (nodup_recordWords s q).sublist (List.take_sublist _ _)
      · rw [readWord_writeWords_other _ s l p.1 fun x hx e => ?_]
        · exact law.1 q listed clean' p hp
        · have sameWord := List.inj_on_of_nodup_map (nodup_recordWords s q) (part hx) hp e
          exact again (sameWord ▸ hx)
    · rw [readWord_writeWords_other _ s l p.1 fun x hx => ne_of_records same listed hp (part hx)]
      exact law.1 q listed clean' p hp
  · rw [writeWords_eq] at loading ⊢
    exact law.2 loading
  · refine readWord_writeWords_other _ s l _ fun x hx e => ?_
    have place := placeOf_recordWords s r x (part hx)
    rw [e, placeOf_routeWord k i h] at place
    exact places_above_draft r k ⟨i + 1, by omega⟩ (by dsimp only; omega) place

/-- The grant that a RELOAD_SITE cuts short has written ring words or words of a record (R172). -/
theorem agree_cutForReload (s : State) (cut : PortCut) : PortAgree s (s.cutForReload cut) := by
  refine .ite _ (fun _ => ?_) (fun _ => .refl s)
  unfold State.cutWords
  dsimp only
  split
  case h_1 g m _ =>
    exact agree_writeWords _ s fun p hp => freeAddr_noticeWords g p (List.mem_of_mem_take hp)
  case h_2 => contradiction
  case h_3 m _ =>
    unfold State.mirrorWords
    split
    · rw [List.take_nil]; exact .refl s
    split
    · rw [List.take_nil]; exact .refl s
    · exact agree_recordWords s _ m
  all_goals exact .refl s

theorem agree_upset (s : State) (u : List (BitVec 20)) : PortAgree s (s.upset u) := .apart

/-! ### The load (R13 to R17) -/

theorem agree_failLoad (s : State) (f : SiteFault) : PortAgree s (s.failLoad f) :=
  .apart (mode := fun h => by cases h)

theorem agree_headerIn (s : State) (store : List Byte) : PortAgree s (s.headerIn store) := by
  refine .ite _ (fun _ => ?_) (fun _ => .refl s)
  dsimp only
  split
  · exact agree_failLoad s _
  · exact .apart

/-- An image names at most 255 segments, for it counts them in one byte (R180). -/
theorem segs_siteOf_le (b : List Byte) : (siteOf b).segs.length ≤ 255 := by
  rw [length_segs_siteOf]
  exact Nat.le_of_lt_succ (b.getD 5 0xFF).isLt

/-- An installation comes in LOADING, when every record is dirty (R1, R37). -/
theorem agree_install (s : State) (m : Site) (loading : s.mode = .loading) (few : m.segs.length ≤ 255) :
    Agree s (s.install m) := by
  have installed : Agree s { s with site := some m, mode := .initialising, load := .idle } := by
    refine ⟨id, fun _ => few, fun _ law => ⟨fun r listed clean => ?_, fun h => by cases h⟩, fun _ _ => id⟩
    exact absurd (law.2 loading r listed) clean
  refine installed.trans (.of_moves (mv_foldl _ (fun t x m => ?_) _ (.refl _)))
  exact mv_ite _ (fun _ => m.scrub x _) (fun _ => m)

theorem agree_imageIn (s : State) (store : List Byte) : Agree s (s.imageIn store) := by
  cases body : s.load with
  | idle => rw [State.imageIn, body]; exact .refl s
  | header => rw [State.imageIn, body]; exact .refl s
  | body h =>
    by_cases now : s.mode = .loading ∧ s.lineHeld = false
    · obtain ⟨loading, released⟩ := now
      cases verdict : imageFault (wholeImage h store) with
      | some f =>
        rw [imageIn_refused s store h loading released body f verdict]
        exact (agree_failLoad s f).agree
      | none =>
        rw [imageIn_installed s store h loading released body verdict]
        exact agree_install s _ loading (segs_siteOf_le _)
    · simp only [State.imageIn, body, if_neg now]; exact .refl s

theorem agree_flushEnd (s : State) : PortAgree s s.flushEnd :=
  .ite _ (fun _ => .apart (mode := fun h => by cases h)) (fun _ => .refl s)

theorem agree_tick (s : State) : PortAgree s s.tick := .ite _ (fun _ => .refl s) (fun _ => .apart)

/-! ### Every command -/

theorem agree_exec (s : State) (c : Instr) (t : State) (h : exec c s = .next t) : Agree s t := by
  cases c with
  | power f => cases h; exact agree_restartWith s .power f
  | line f =>
    cases h
    exact (agree_restartWith s .line f).trans (PortAgree.apart (s := s.restartWith .line f)).agree
  | resetRelease => cases h; exact (PortAgree.apart (s := s)).agree
  | headerRead store => cases h; exact (agree_headerIn s store).agree
  | siteLoadComplete store => cases h; exact agree_imageIn s store
  | flushEnd => cases h; exact (agree_flushEnd s).agree
  | planBusAccess a upsets => cases h; exact (agree_upset s upsets).agree.trans (agree_busAccess _ a)
  | reloadSite f cut => cases h; exact (agree_cutForReload s cut).agree.trans (agree_busAccess _ _)
  | confirmOverdue k => cases h; exact .of_moves (mv_confirmExpiry (.refl s) _)
  | shortenOverdue k => cases h; exact .of_moves (mv_shortenExpiry (.refl s) _)
  | waitExpired k => cases h; exact .of_moves (mv_waitExpiry (.refl s) k)
  | scrubberLost x => cases h; exact .of_moves (mv_lostExpiry (.refl s) x)
  | dryingExpiry g => cases h; exact .of_moves (mv_dryingExpiry (.refl s) g)
  | quietTimerExpiry z => cases h; exact .of_moves (mv_quietExpiry (.refl s) z)
  | zoneStale z => cases h; exact .of_moves (mv_staleExpiry (.refl s) z)
  | stuckTimerExpiry z => cases h; exact .of_moves (mv_stuckExpiry (.refl s) z)
  | haltTimerExpiry z => cases h; exact .of_moves (mv_haltExpiry (.refl s) z)
  | noticeAdmission => cases h; exact (agree_noticeAdmission s).agree
  | noticePublish => cases h; exact (agree_noticePublish s).agree
  | mirrorRecordWrite => cases h; exact (agree_mirrorWrite s).agree
  | interlockClockTick => cases h; exact (agree_tick s).agree
  | _ => cases h; exact agree_busAccess s _

/-- Settles O60: every command keeps the mirrors and the words of drafts; routes stay within a draft by O56. -/
theorem planMemoryAgrees : Obligations.PlanMemoryAgrees := by
  intro s t memory h
  have agree : Agree s t := by
    unfold step at h
    split at h
    case h_1 => cases h; exact .refl s
    case h_2 c rest _ =>
      have queued : PortAgree s { s with pending := rest } := .apart
      exact queued.agree.trans (agree_exec _ c t h)
  refine ⟨agree.mirror memory, fun site short law => ?_⟩
  obtain ⟨_, _, _, route, _⟩ := structuralLawsAreKept s t h
  exact draftLaw_of_draftsShown (route short)
    (agree.drafts memory (n_le_of_siteLaw s site) (draftsShown_of_draftLaw law))

end Sys2Proof.Machine
end

section
/-! SUPPORT. The law of held floor, slot by slot: what one slot record says of the segments that its slot holds, and how
the changes of a slot record keep it (R38, R40, R99, R113 to R117). -/
namespace Sys2Proof.Machine
open Sys2Proof
set_option Elab.async false

/-- What the law of held floor says of slot k, whose record is r and which holds the segments `held`; `pend` are the
release-pending ones. -/
structure HoldsFloor (k : SlotIx) (r : Slot) (held pend : SegIx → Prop) : Prop where
  mine : ∀ g, held g → g ∈ r.route ∧ (if k.val < 20 then r.state.authority = true else r.state = .active)
  whole : k.val < 20 → r.state.authority = true → ∀ e ∈ r.entries, r.progress ≤ e.2 →
    (held e.1 ↔ e.2 ≤ r.endIx ∨ e.2 ∈ r.pendingSet)
  above : ∀ i ∈ r.pendingSet, k.val < 20 ∧ r.state = .shortening ∧ r.endIx < i ∧ i ≤ r.route.length
  pending : ∀ g, held g → (pend g ↔ ∃ e ∈ r.entries, e.1 = g ∧ e.2 ∈ r.pendingSet)
  evidence : k.val < 20 → r.state.authority = true → r.evidence.length = r.route.length
  distinct : r.route.Nodup

/-- The law of held floor, with the law that no segment stands twice in a route; but for LOADING. -/
def State.floorLaw (s : State) : Prop :=
  (∀ k, HoldsFloor k (s.slot k) (fun g => (s.seg g).holder = some k) (fun g => (s.seg g).pendingRel = true))
    ∧ ∀ g, (s.seg g).holder = none → (s.seg g).pendingRel = false

theorem floorLaw_of_holdingLaw {s : State} (distinct : s.distinctLaw) (law : s.holdingLaw) : s.floorLaw := by
  obtain ⟨mine, whole, above, pending, evidence, _⟩ := law
  refine ⟨fun k => ⟨fun g h => mine g k h, whole k, above k, fun g h => ?_, evidence k, distinct k⟩, fun g free => ?_⟩
  · refine (pending g).trans ⟨fun ⟨j, holder, e, he⟩ => ?_, fun he => ⟨k, h, he⟩⟩
    have same : j = k := Option.some.inj (holder.symm.trans h)
    exact ⟨e, same ▸ he⟩
  · by_contra marked
    obtain ⟨j, holder, _⟩ := (pending g).mp (by simpa using marked)
    rw [free] at holder
    cases holder

theorem holdingLaw_of_floorLaw {s : State} (law : s.floorLaw)
    (loading : s.mode = .loading → ∀ g : SegIx, (s.seg g).occupant = none) : s.holdingLaw := by
  obtain ⟨slots, free⟩ := law
  refine ⟨fun g k h => (slots k).mine g h, fun k => (slots k).whole, fun k => (slots k).above, fun g => ⟨fun marked => ?_,
    fun ⟨k, holder, he⟩ => ((slots k).pending g holder).mpr he⟩, fun k => (slots k).evidence, loading⟩
  cases holder : (s.seg g).holder with
  | none => rw [free g holder] at marked; cases marked
  | some k => exact ⟨k, rfl, ((slots k).pending g holder).mp marked⟩

theorem distinctLaw_of_floorLaw {s : State} (law : s.floorLaw) : s.distinctLaw := fun k => (law.1 k).distinct

/-! ### Entries of a route -/

theorem mem_entries (r : Slot) (e : SegIx × Nat) : e ∈ r.entries ↔ 1 ≤ e.2 ∧ r.route[e.2 - 1]? = some e.1 :=
  List.mk_mem_zipIdx_iff_le_and_getElem?_sub

theorem fst_mem_of_entries {r : Slot} {e : SegIx × Nat} (h : e ∈ r.entries) : e.1 ∈ r.route :=
  List.mem_of_getElem? ((mem_entries r e).mp h).2

theorem le_length_of_entries {r : Slot} {e : SegIx × Nat} (h : e ∈ r.entries) : e.2 ≤ r.route.length := by
  obtain ⟨low, here⟩ := (mem_entries r e).mp h
  have bound := (List.getElem?_eq_some_iff.mp here).1
  omega

theorem exists_entry {r : Slot} {g : SegIx} (h : g ∈ r.route) : ∃ e ∈ r.entries, e.1 = g := by
  obtain ⟨i, here⟩ := List.mem_iff_getElem?.mp h
  exact ⟨(g, i + 1), (mem_entries r _).mpr ⟨Nat.le_add_left 1 i, by simpa using here⟩, rfl⟩

/-- A route without repetition has one entry for each of its segments. -/
theorem entry_unique {r : Slot} (distinct : r.route.Nodup) {e f : SegIx × Nat} (he : e ∈ r.entries) (hf : f ∈ r.entries)
    (same : e.1 = f.1) : e = f := by
  obtain ⟨le, here⟩ := (mem_entries r e).mp he
  obtain ⟨lf, there⟩ := (mem_entries r f).mp hf
  rw [same] at here
  obtain ⟨be, ge⟩ := List.getElem?_eq_some_iff.mp here
  obtain ⟨bf, gf⟩ := List.getElem?_eq_some_iff.mp there
  have index := (List.Nodup.getElem_inj_iff distinct).mp (ge.trans gf.symm)
  exact Prod.ext same (by omega)

/-! ### Changes of a slot record -/

section Changes
variable {k : SlotIx} {r t : Slot} {held pend kept : SegIx → Prop}

/-- A slot that holds nothing and is no authority. -/
theorem holdsFloor_empty (none : ∀ g, ¬ held g) (idle : t.state.authority = false) (set : t.pendingSet = [])
    (distinct : t.route.Nodup) : HoldsFloor k t held pend where
  mine g h := absurd h (none g)
  whole _ h := by rw [idle] at h; cases h
  above i h := by rw [set] at h; cases h
  pending g h := absurd h (none g)
  evidence _ h := by rw [idle] at h; cases h
  distinct := distinct

/-- A change of what the law does not speak of. -/
theorem HoldsFloor.alike (h : HoldsFloor k r held pend) (state : t.state = r.state := by rfl)
    (route : t.route = r.route := by rfl) (endIx : t.endIx = r.endIx := by rfl)
    (progress : t.progress = r.progress := by rfl) (set : t.pendingSet = r.pendingSet := by rfl)
    (evidence : t.evidence.length = r.evidence.length := by rfl) : HoldsFloor k t held pend := by
  have entries : t.entries = r.entries := by unfold Slot.entries; rw [route]
  constructor
  · rw [state, route]; exact h.mine
  · rw [state, entries, progress, endIx, set]; exact h.whole
  · rw [state, endIx, route, set]; exact h.above
  · rw [entries, set]; exact h.pending
  · rw [state, route, evidence]; exact h.evidence
  · rw [route]; exact h.distinct

/-- Only a SHORTENING slot has pending entries. -/
theorem HoldsFloor.set_nil (h : HoldsFloor k r held pend) (state : r.state ≠ .shortening) : r.pendingSet = [] := by
  rw [List.eq_nil_iff_forall_not_mem]
  intro i hi
  obtain ⟨_, short, _⟩ := h.above i hi
  exact state short

/-- A fleet slot without an authority holds nothing. -/
theorem HoldsFloor.none (h : HoldsFloor k r held pend) (idle : r.state.authority = false) (g : SegIx) (mine : held g) :
    20 ≤ k.val ∧ r.state = .active := by
  obtain ⟨_, state⟩ := h.mine g mine
  split at state
  · rw [idle] at state; cases state
  · exact ⟨by omega, state⟩

/-- An authority's state moves on, neither from nor to SHORTENING. -/
theorem HoldsFloor.rename (h : HoldsFloor k r held pend) (fleet : k.val < 20) (old : r.state.authority = true)
    (new : t.state.authority = true) (unpending : r.state ≠ .shortening) (route : t.route = r.route := by rfl)
    (endIx : t.endIx = r.endIx := by rfl) (progress : t.progress = r.progress := by rfl)
    (set : t.pendingSet = r.pendingSet := by rfl) (evidence : t.evidence = r.evidence := by rfl) :
    HoldsFloor k t held pend := by
  have entries : t.entries = r.entries := by unfold Slot.entries; rw [route]
  have empty := h.set_nil unpending
  constructor
  · intro g mine
    rw [if_pos fleet, route]
    exact ⟨(h.mine g mine).1, new⟩
  · intro _ _
    rw [entries, progress, endIx, set]
    exact h.whole fleet old
  · rw [set, empty]; intro i hi; cases hi
  · rw [entries, set]; exact h.pending
  · intro _ _
    rw [route, evidence]
    exact h.evidence fleet old
  · rw [route]; exact h.distinct

/-- The progress index moves on within the end (R98). -/
theorem HoldsFloor.advanced (h : HoldsFloor k r held pend) (span : r.state.authority = true → r.progress ≤ r.endIx)
    (j : Nat) : HoldsFloor k (r.advanced j) held pend := by
  refine ⟨h.mine, fun fleet authority e he reached => ?_, h.above, h.pending, h.evidence, h.distinct⟩
  refine h.whole fleet authority e he ?_
  have within := span authority
  simp only [Slot.advanced] at reached
  omega

/-- The evidence of a report is one item for each entry of the route (R100). -/
theorem HoldsFloor.evidenced (h : HoldsFloor k r held pend) (p : Position) (scrubbing : Bool) :
    HoldsFloor k (r.evidenced p scrubbing) held pend := by
  refine ⟨h.mine, h.whole, h.above, h.pending, fun fleet authority => ?_, h.distinct⟩
  have length := h.evidence fleet authority
  simp [Slot.evidenced, length]

/-- A granted slot holds its whole route (R65). -/
theorem holdsFloor_granted (distinct : r.route.Nodup) (fleet : k.val < 20) (all : ∀ g, held g ↔ g ∈ r.route)
    (clear : ∀ g, held g → ¬ pend g) : HoldsFloor k r.granted held pend where
  mine g h := ⟨(all g).mp h, by rw [if_pos fleet]; rfl⟩
  whole _ _ e he _ := by
    have here := (all e.1).mpr (fst_mem_of_entries he)
    have length := le_length_of_entries he
    exact ⟨fun _ => .inl length, fun _ => here⟩
  above i h := by cases h
  pending g h := ⟨fun p => absurd p (clear g h), fun ⟨_, _, _, set⟩ => by cases set⟩
  evidence _ _ := by simp [Slot.granted]
  distinct := distinct

/-- An active passenger slot holds its whole route (R67). -/
theorem holdsFloor_activated (distinct : r.route.Nodup) (passenger : ¬ k.val < 20) (set : r.pendingSet = [])
    (all : ∀ g, held g ↔ g ∈ r.route) (clear : ∀ g, held g → ¬ pend g) : HoldsFloor k r.activated held pend where
  mine g h := ⟨(all g).mp h, by rw [if_neg passenger]; rfl⟩
  whole fleet := absurd fleet passenger
  above i h := by
    have h : i ∈ r.pendingSet := h
    rw [set] at h
    cases h
  pending g h := ⟨fun p => absurd p (clear g h), fun ⟨_, _, _, set'⟩ => by
    have set' : _ ∈ r.pendingSet := set'
    rw [set] at set'
    cases set'⟩
  evidence fleet := absurd fleet passenger
  distinct := distinct

/-- A GRANTED slot gives back the entries past its new end (R113). -/
theorem HoldsFloor.shortenedGranted (h : HoldsFloor k r held pend) (granted : r.state = .granted) (fleet : k.val < 20)
    (e' : Nat) (low : e' < r.endIx)
    (rest : ∀ g, kept g ↔ held g ∧ ¬ ∃ e ∈ r.entries, e' < e.2 ∧ e.1 = g) :
    HoldsFloor k (r.shortenedGranted e') kept pend := by
  have empty := h.set_nil (by rw [granted]; decide)
  have authority : r.state.authority = true := by rw [granted]; rfl
  refine ⟨fun g hg => h.mine g ((rest g).mp hg).1, fun _ _ e he reached => ?_, fun i hi => ?_,
    fun g hg => h.pending g ((rest g).mp hg).1, fun _ _ => h.evidence fleet authority, h.distinct⟩
  · have before := h.whole fleet authority e he reached
    rw [rest, before, empty]
    simp only [Slot.shortenedGranted, empty, List.not_mem_nil, or_false]
    constructor
    · rintro ⟨_, apart⟩
      by_contra high
      exact apart ⟨e, he, by omega, rfl⟩
    · intro within
      refine ⟨by omega, ?_⟩
      rintro ⟨f, hf, past, same⟩
      have one := entry_unique h.distinct hf he same
      subst one
      omega
  · have hi : i ∈ r.pendingSet := hi
    rw [empty] at hi
    cases hi

theorem mem_foldl_insert (newly set : List Nat) (i : Nat) :
    i ∈ newly.foldl (fun p i => insertBy id i p) set ↔ i ∈ newly ∨ i ∈ set := by
  induction newly generalizing set with
  | nil => simp
  | cons j l ih =>
    rw [List.foldl_cons, ih, mem_insertBy id (fun _ _ h => h)]
    simp only [List.mem_cons]
    constructor
    · rintro (a | a | a)
      · exact .inl (.inr a)
      · exact .inl (.inl a)
      · exact .inr a
    · rintro ((a | a) | a)
      · exact .inr (.inl a)
      · exact .inl a
      · exact .inr (.inr a)

theorem entry_of_index {e f : SegIx × Nat} (he : e ∈ r.entries) (hf : f ∈ r.entries) (same : e.2 = f.2) : e = f := by
  obtain ⟨_, here⟩ := (mem_entries r e).mp he
  obtain ⟨_, there⟩ := (mem_entries r f).mp hf
  rw [same] at here
  exact Prod.ext (Option.some.inj (here.symm.trans there)) same

/-- An authority that has been sent keeps what it holds past its new end as pending (R114). -/
theorem HoldsFloor.shortenedSent {marked : SegIx → Prop} (h : HoldsFloor k r held pend) (fleet : k.val < 20)
    (authority : r.state.authority = true) (e' : Nat) (low : e' < r.endIx) (newly : List Nat) (expiry : Word)
    (listed : ∀ i, i ∈ newly ↔ ∃ e ∈ r.entries, e.2 = i ∧ e' < i ∧ held e.1)
    (marks : ∀ g, held g → (marked g ↔ pend g ∨ ∃ e ∈ r.entries, e' < e.2 ∧ e.1 = g)) :
    HoldsFloor k (r.shortenedSent e' newly expiry) held marked := by
  have set (i : Nat) : i ∈ (r.shortenedSent e' newly expiry).pendingSet ↔ i ∈ newly ∨ i ∈ r.pendingSet :=
    mem_foldl_insert newly r.pendingSet i
  have isNew {e : SegIx × Nat} (he : e ∈ r.entries) : e.2 ∈ newly ↔ e' < e.2 ∧ held e.1 := by
    rw [listed]
    constructor
    · rintro ⟨f, hf, same, past, mine⟩
      exact ⟨past, entry_of_index hf he same ▸ mine⟩
    · rintro ⟨past, mine⟩
      exact ⟨e, he, rfl, past, mine⟩
  refine ⟨fun g hg => ⟨(h.mine g hg).1, by rw [if_pos fleet]; rfl⟩, fun _ _ e he reached => ?_, fun i hi => ?_,
    fun g hg => ?_, fun _ _ => h.evidence fleet authority, h.distinct⟩
  · have before := h.whole fleet authority e he reached
    rw [set, isNew he]
    constructor
    · intro mine
      by_cases within : e.2 ≤ e'
      · exact .inl within
      · exact .inr (.inl ⟨by omega, mine⟩)
    · rintro (within | new | old)
      · have within : e.2 ≤ e' := within
        exact before.mpr (.inl (by omega))
      · exact new.2
      · exact before.mpr (.inr old)
  · rcases (set i).mp hi with new | old
    · obtain ⟨e, he, rfl, past, _⟩ := (listed i).mp new
      exact ⟨fleet, rfl, past, le_length_of_entries he⟩
    · obtain ⟨_, _, past, length⟩ := h.above i old
      exact ⟨fleet, rfl, show e' < i by omega, length⟩
  · rw [marks g hg, h.pending g hg]
    constructor
    · rintro (⟨e, he, same, old⟩ | ⟨e, he, past, same⟩)
      · exact ⟨e, he, same, (set e.2).mpr (.inr old)⟩
      · exact ⟨e, he, same, (set e.2).mpr (.inl ((isNew he).mpr ⟨past, same ▸ hg⟩))⟩
    · rintro ⟨e, he, same, member⟩
      rcases (set e.2).mp member with new | old
      · exact .inr ⟨e, he, ((isNew he).mp new).1, same⟩
      · exact .inl ⟨e, he, same, old⟩

/-- A confirmed shortening gives back the pending entries and ends pending nothing (R116). -/
theorem HoldsFloor.confirmed (h : HoldsFloor k r held pend) (fleet : k.val < 20) (authority : r.state.authority = true)
    (state : t.state = .active) (set : t.pendingSet = []) (route : t.route = r.route := by rfl)
    (endIx : t.endIx = r.endIx := by rfl) (progress : t.progress = r.progress := by rfl)
    (evidence : t.evidence = r.evidence := by rfl)
    (rest : ∀ g, kept g ↔ held g ∧ ¬ ∃ e ∈ r.entries, e.2 ∈ r.pendingSet ∧ e.1 = g) : HoldsFloor k t kept pend := by
  have entries : t.entries = r.entries := by unfold Slot.entries; rw [route]
  refine ⟨fun g hg => ?_, fun _ _ e he reached => ?_, fun i hi => ?_, fun g hg => ?_, fun _ _ => ?_, ?_⟩
  · rw [if_pos fleet, route, state]
    exact ⟨(h.mine g ((rest g).mp hg).1).1, rfl⟩
  · rw [entries] at he
    rw [progress] at reached
    rw [rest, h.whole fleet authority e he reached, endIx, set]
    simp only [List.not_mem_nil, or_false]
    constructor
    · rintro ⟨within | member, apart⟩
      · exact within
      · exact absurd ⟨e, he, member, rfl⟩ apart
    · intro within
      refine ⟨.inl within, ?_⟩
      rintro ⟨f, hf, member, same⟩
      obtain ⟨_, _, past, _⟩ := h.above _ member
      have one := entry_unique h.distinct hf he same
      subst one
      omega
  · rw [set] at hi; cases hi
  · obtain ⟨mine, apart⟩ := (rest g).mp hg
    rw [h.pending g mine, set]
    constructor
    · rintro ⟨e, he, same, member⟩
      exact absurd ⟨e, he, member, same⟩ apart
    · rintro ⟨_, _, _, member⟩
      cases member
  · rw [evidence, route]; exact h.evidence fleet authority
  · rw [route]; exact h.distinct

/-- A slot may give back segments behind its progress index (R99). -/
theorem HoldsFloor.behind (h : HoldsFloor k r held pend) (pick : SegIx × Nat → Prop)
    (low : ∀ e, pick e → e.2 < r.progress) (rest : ∀ g, kept g ↔ held g ∧ ¬ ∃ e ∈ r.entries, pick e ∧ e.1 = g) :
    HoldsFloor k r kept pend := by
  refine ⟨fun g hg => h.mine g ((rest g).mp hg).1, fun fleet authority e he reached => ?_, h.above,
    fun g hg => h.pending g ((rest g).mp hg).1, h.evidence, h.distinct⟩
  rw [rest, ← h.whole fleet authority e he reached]
  refine ⟨fun ⟨mine, _⟩ => mine, fun mine => ⟨mine, ?_⟩⟩
  rintro ⟨f, hf, picked, same⟩
  have one := entry_unique h.distinct hf he same
  subst one
  exact absurd (low f picked) (by omega)

end Changes

end Sys2Proof.Machine
end

section
/-! SUPPORT. What the requests to the segment table do to holder, pending release and occupant (R39 to R43). -/
namespace Sys2Proof.Machine
open Sys2Proof
set_option Elab.async false

/-- What the laws of held floor and of the pinch table read of a segment: holder, pending release, occupant. -/
def Seg.grip (r : Seg) : Option SlotIx × Bool × Option ScrubIx := (r.holder, r.pendingRel, r.occupant)

theorem grip_eq {r t : Seg} (h : t.grip = r.grip) :
    t.holder = r.holder ∧ t.pendingRel = r.pendingRel ∧ t.occupant = r.occupant := by
  simp only [Seg.grip, Prod.mk.injEq] at h
  exact h

/-- A store that leaves a segment's grip. -/
theorem grip_setSeg_same (s : State) (g h : SegIx) (r : Seg) (same : r.grip = (s.seg g).grip) :
    ((s.setSeg g r).seg h).grip = (s.seg h).grip := by
  rw [seg_setSeg]
  split
  · rename_i e; rw [same, e]
  · rfl

theorem grip_markWet (s : State) (g h : SegIx) : ((s.markWet g).seg h).grip = (s.seg h).grip :=
  grip_setSeg_same (s.setDrying _) g h _ rfl

theorem grip_suspendWet (s : State) (g h : SegIx) : ((s.suspendWet g).seg h).grip = (s.seg h).grip := by
  unfold State.suspendWet
  split
  · rfl
  · exact grip_setSeg_same (s.dropEntry g) g h _ rfl

theorem grip_setOccupant (s : State) (x : ScrubIx) (g h : SegIx) : ((s.setOccupant x g).seg h).grip
    = if h = g ∧ (s.seg g).occupant = none then ((s.seg h).holder, (s.seg h).pendingRel, some x)
      else (s.seg h).grip := by
  unfold State.setOccupant
  split
  · rename_i y e
    rw [if_neg (by simp [e])]
  · rename_i e
    rw [seg_refreshPinchOf, seg_setSeg]
    by_cases here : g = h
    · subst here; rw [if_pos rfl, if_pos ⟨rfl, e⟩]; rfl
    · rw [if_neg here, if_neg (fun c => here c.1.symm)]

theorem grip_clearOccupant (s : State) (x : ScrubIx) (g h : SegIx) : ((s.clearOccupant x g).seg h).grip
    = if h = g ∧ (s.seg g).occupant = some x then ((s.seg h).holder, (s.seg h).pendingRel, none)
      else (s.seg h).grip := by
  unfold State.clearOccupant
  split
  · rename_i e
    rw [seg_refreshPinchOf, seg_noteFreeing, seg_setSeg]
    by_cases here : g = h
    · subst here; rw [if_pos rfl, if_pos ⟨rfl, e⟩]; rfl
    · rw [if_neg here, if_neg (fun c => here c.1.symm)]
  · rename_i e
    rw [if_neg fun c => e c.2]

theorem grip_takeFleet (s : State) (k : SlotIx) (e : SegIx × Nat) (h : SegIx) : ((s.takeFleet k e).seg h).grip
    = if h = e.1 then (some k, (s.seg h).pendingRel, (s.seg h).occupant) else (s.seg h).grip := by
  have held : (((s.setSeg e.1 { s.seg e.1 with holder := some k }).refreshPinchOf e.1 (s.slot k).scrubber).seg h).grip
      = if h = e.1 then (some k, (s.seg h).pendingRel, (s.seg h).occupant) else (s.seg h).grip := by
    rw [seg_refreshPinchOf, seg_setSeg]
    by_cases here : e.1 = h
    · subst here; rw [if_pos rfl, if_pos rfl]; rfl
    · rw [if_neg here, if_neg (fun c => here c.symm)]
  unfold State.takeFleet
  dsimp only
  split
  · rw [grip_suspendWet, held]
  · exact held

theorem grip_removeClaim (s : State) (k : SlotIx) (g h : SegIx) :
    ((s.removeClaim k g).seg h).grip = (s.seg h).grip := by
  unfold State.removeClaim
  split
  · exact grip_setSeg_same s g h _ rfl
  · rfl

theorem grip_addClaim (s : State) (k : SlotIx) (g h : SegIx) : ((s.addClaim k g).seg h).grip = (s.seg h).grip :=
  grip_setSeg_same s g h _ rfl

theorem grip_takePassenger (s : State) (k : SlotIx) (g h : SegIx) : ((s.takePassenger k g).seg h).grip
    = if h = g then (some k, (s.seg h).pendingRel, (s.seg h).occupant) else (s.seg h).grip := by
  unfold State.takePassenger
  rw [grip_removeClaim, seg_setSeg]
  by_cases here : g = h
  · subst here; rw [if_pos rfl, if_pos rfl]; rfl
  · rw [if_neg here, if_neg (fun c => here c.symm)]

/-- A taken segment is the slot's, whatever else it is taken for. -/
theorem grip_taking {α : Type} (f : State → α → State) (seg : α → SegIx) (k : SlotIx)
    (one : ∀ s a h, ((f s a).seg h).grip
      = if h = seg a then (some k, (s.seg h).pendingRel, (s.seg h).occupant) else (s.seg h).grip)
    (l : List α) (s : State) (h : SegIx) : ((l.foldl f s).seg h).grip
      = if h ∈ l.map seg then (some k, (s.seg h).pendingRel, (s.seg h).occupant) else (s.seg h).grip := by
  induction l generalizing s with
  | nil => simp
  | cons a l ih =>
    rw [List.foldl_cons, ih, List.map_cons]
    have first := one s a h
    by_cases here : h = seg a
    · rw [if_pos here] at first
      obtain ⟨_, pending, occupant⟩ : _ ∧ _ ∧ _ := by simpa only [Seg.grip, Prod.mk.injEq] using first
      rw [pending, occupant, first, ite_self, if_pos (here ▸ List.mem_cons_self)]
    · rw [if_neg here] at first
      obtain ⟨_, pending, occupant⟩ := grip_eq first
      simp only [List.mem_cons, here, false_or, first, pending, occupant]

theorem map_fst_entries (r : Slot) : r.entries.map Prod.fst = r.route := by simp [Slot.entries]

theorem grip_takeHold (s : State) (k : SlotIx) (h : SegIx) : ((s.takeHold k).seg h).grip
    = if h ∈ (s.slot k).route then (some k, (s.seg h).pendingRel, (s.seg h).occupant) else (s.seg h).grip := by
  unfold State.takeHold
  split
  · rw [grip_taking _ Prod.fst k (fun s e h => grip_takeFleet s k e h), map_fst_entries]
  · rw [grip_taking _ id k (fun s g h => grip_takePassenger s k g h), List.map_id]

theorem grip_release (s : State) (k : SlotIx) (wet : Bool) (g h : SegIx) : ((s.release k wet g).seg h).grip
    = if h = g ∧ (s.seg h).holder = some k then (none, false, (s.seg h).occupant) else (s.seg h).grip := by
  by_cases mine : (s.seg g).holder = some k
  · have freed : ((s.setSeg g { s.seg g with holder := none, pendingRel := false }).seg h).grip
        = if h = g ∧ (s.seg h).holder = some k then (none, false, (s.seg h).occupant) else (s.seg h).grip := by
      rw [seg_setSeg]
      by_cases here : g = h
      · subst here; rw [if_pos rfl, if_pos ⟨rfl, mine⟩]; rfl
      · rw [if_neg here, if_neg (fun c => here c.1.symm)]
    have counted (u : State) : (if isFleet k then u.refreshPinchOf g none else u).seg h = u.seg h := by
      split
      · exact seg_refreshPinchOf u g h none
      · rfl
    unfold State.release
    rw [if_pos mine, ← freed]
    dsimp only
    have same := counted (s.setSeg g { s.seg g with holder := none, pendingRel := false }).noteFreeing
    rw [seg_noteFreeing] at same
    rw [← same]
    generalize (if isFleet k then ((s.setSeg g { s.seg g with holder := none, pendingRel := false }).noteFreeing).refreshPinchOf
      g none else (s.setSeg g { s.seg g with holder := none, pendingRel := false }).noteFreeing) = u
    split
    · rw [grip_markWet]
      exact grip_setSeg_same u g h _ rfl
    · split
      · rw [grip_markWet]
      · rfl
  · rw [if_neg (fun c : h = g ∧ (s.seg h).holder = some k => mine (c.1 ▸ c.2))]
    unfold State.release
    rw [if_neg mine]

/-- The segments of the picked entries are no longer the slot's. -/
theorem grip_releaseWhere (s : State) (k : SlotIx) (pick : SegIx × Nat → Bool) (h : SegIx) :
    ((s.releaseWhere k pick).seg h).grip
      = if (s.seg h).holder = some k ∧ ∃ e ∈ (s.slot k).entries, pick e = true ∧ e.1 = h
        then (none, false, (s.seg h).occupant) else (s.seg h).grip := by
  have general (l : List (SegIx × Nat)) (w : State → SegIx × Nat → Bool) (s : State) :
      ((l.foldl (fun s e => s.release k (w s e) e.1) s).seg h).grip
        = if (s.seg h).holder = some k ∧ ∃ e ∈ l, e.1 = h then (none, false, (s.seg h).occupant)
          else (s.seg h).grip := by
    induction l generalizing s with
    | nil => simp
    | cons e l ih =>
      rw [List.foldl_cons, ih]
      have first := grip_release s k (w s e) e.1 h
      by_cases now : h = e.1 ∧ (s.seg h).holder = some k
      · rw [if_pos now] at first
        obtain ⟨holder, _, _⟩ : _ ∧ _ ∧ _ := by simpa only [Seg.grip, Prod.mk.injEq] using first
        rw [if_neg (by simp [holder]), first, if_pos ⟨now.2, e, List.mem_cons_self, now.1.symm⟩]
      · rw [if_neg now] at first
        obtain ⟨holder, _, occupant⟩ := grip_eq first
        rw [holder, occupant, first]
        refine if_congr (and_congr_right fun mine => ?_) rfl rfl
        simp only [List.mem_cons, exists_eq_or_imp]
        exact ⟨.inr, fun c => c.resolve_left fun same => now ⟨same.symm, mine⟩⟩
  unfold State.releaseWhere
  rw [general _ fun s e => isFleet k && (s.slot k).wetChoice e.2]
  refine if_congr (and_congr_right fun _ => ?_) rfl rfl
  simp only [List.mem_filter, and_assoc]

theorem grip_markPending (s : State) (k : SlotIx) (i : Nat) (h : SegIx) : ((s.markPending k i).seg h).grip
    = if (s.seg h).holder = some k ∧ ∃ e ∈ (s.slot k).entries, i < e.2 ∧ e.1 = h
      then ((s.seg h).holder, true, (s.seg h).occupant) else (s.seg h).grip := by
  have general (l : List (SegIx × Nat)) (s : State) : ((l.foldl (fun s e => s.pend e.1) s).seg h).grip
      = if ∃ e ∈ l, e.1 = h then ((s.seg h).holder, true, (s.seg h).occupant) else (s.seg h).grip := by
    induction l generalizing s with
    | nil => simp
    | cons e l ih =>
      rw [List.foldl_cons, ih]
      have first : ((s.pend e.1).seg h) = if e.1 = h then { s.seg e.1 with pendingRel := true } else s.seg h :=
        seg_setSeg s e.1 h _
      by_cases here : e.1 = h
      · subst here
        rw [if_pos rfl] at first
        simp [first, Seg.grip]
      · rw [if_neg here] at first
        simp only [first, List.mem_cons, exists_eq_or_imp, here, false_or]
  unfold State.markPending
  rw [general]
  refine if_congr ?_ rfl rfl
  simp only [State.heldAbove, List.mem_filter, Bool.and_eq_true, decide_eq_true_eq, beq_iff_eq]
  constructor
  · rintro ⟨e, ⟨he, past, mine⟩, rfl⟩
    exact ⟨mine, e, he, past, rfl⟩
  · rintro ⟨mine, e, he, past, rfl⟩
    exact ⟨e, ⟨he, past, mine⟩, rfl⟩

theorem grip_setClosure (s : State) (g h : SegIx) (c : Closure) : ((s.setClosure g c).seg h).grip = (s.seg h).grip := by
  have stored := grip_setSeg_same s g h { s.seg g with closure := c } rfl
  unfold State.setClosure
  dsimp only
  split
  · rw [seg_noteFreeing, stored]
  · exact stored

end Sys2Proof.Machine
end

section
/-! SUPPORT. The law of the pinch table, group by group, and how the requests to the segment table keep it (R47 to R49). -/
namespace Sys2Proof.Machine
open Sys2Proof
set_option Elab.async false

/-! ### One group -/

/-- Every fleet slot that holds a segment of a group names the scrubber. -/
def groupNames (s : State) (p : PinchIx) (h : ScrubIx) : Prop :=
  ∀ g : SegIx, inGroup s p g → ∀ k, (s.seg g).holder = some k → k.val < 20 → (s.slot k).scrubber = some h

/-- None of a group's segments is occupied or held by a fleet slot. -/
def groupFree (s : State) (p : PinchIx) : Prop :=
  ∀ g : SegIx, inGroup s p g → (s.seg g).occupant = none ∧ ∀ k, (s.seg g).holder = some k → 20 ≤ k.val

/-- The law of the pinch table, of an entry for a group. -/
def pinchHolds (s : State) (p : PinchIx) (e : Pinch) : Prop :=
  match e.holder with
  | none => e.count = 0 ∧ groupFree s p
  | some h => e.count = pinchUse s p h ∧ 1 ≤ e.count ∧ groupNames s p h

theorem pinchLaw_iff (s : State) : s.pinchLaw ↔ ∀ p, pinchHolds s p (s.pinchEntry p) := Iff.rfl

theorem pinchHolds_none {s : State} {p : PinchIx} {e : Pinch} (none : e.holder = none) :
    pinchHolds s p e ↔ e.count = 0 ∧ groupFree s p := by unfold pinchHolds; rw [none]

theorem pinchHolds_some {s : State} {p : PinchIx} {e : Pinch} {h : ScrubIx} (some : e.holder = some h) :
    pinchHolds s p e ↔ e.count = pinchUse s p h ∧ 1 ≤ e.count ∧ groupNames s p h := by unfold pinchHolds; rw [some]

/-- A group uses the same segments in another state: the same occupants, fleet holders, and names. -/
structure SameGroup (s t : State) (p : PinchIx) : Prop where
  site : t.site = s.site
  occupant : ∀ g, inGroup s p g → (t.seg g).occupant = (s.seg g).occupant
  holder : ∀ g, inGroup s p g → ∀ k : SlotIx, k.val < 20 → ((t.seg g).holder = some k ↔ (s.seg g).holder = some k)
  names : ∀ g, inGroup s p g → ∀ k : SlotIx, k.val < 20 → (s.seg g).holder = some k →
    (t.slot k).scrubber = (s.slot k).scrubber

theorem inGroup_congr {s t : State} (site : t.site = s.site) (p : PinchIx) (g : SegIx) : inGroup t p g ↔ inGroup s p g := by
  unfold inGroup
  rw [n_congr site, fixed_congr site]

/-- Whether a scrubber uses a segment of a group (R47). -/
theorem mem_pinchUse (s : State) (p : PinchIx) (x : ScrubIx) (g : SegIx) :
    (decide (g.val < s.n) && (s.fixed g).pinch == some p && ((s.seg g).occupant == some x
      || (s.seg g).holder.any (fun k => decide (k.val < 20) && (s.slot k).scrubber == some x))) = true
    ↔ inGroup s p g ∧ ((s.seg g).occupant = some x
      ∨ ∃ k, (s.seg g).holder = some k ∧ k.val < 20 ∧ (s.slot k).scrubber = some x) := by
  simp only [Bool.and_eq_true, decide_eq_true_eq, beq_iff_eq, Bool.or_eq_true, Option.any_eq_true, inGroup]

theorem pinchUse_congr {s t : State} {p : PinchIx} (same : SameGroup s t p) (x : ScrubIx) :
    pinchUse t p x = pinchUse s p x := by
  unfold pinchUse
  congr 1
  refine List.filter_congr fun g _ => ?_
  rw [Bool.eq_iff_iff, mem_pinchUse, mem_pinchUse, inGroup_congr same.site]
  refine and_congr_right fun here => or_congr (by rw [same.occupant g here]) (exists_congr fun k => ?_)
  constructor
  · rintro ⟨holder, fleet, names⟩
    have before := (same.holder g here k fleet).mp holder
    exact ⟨before, fleet, by rw [← same.names g here k fleet before]; exact names⟩
  · rintro ⟨holder, fleet, names⟩
    exact ⟨(same.holder g here k fleet).mpr holder, fleet, by rw [same.names g here k fleet holder]; exact names⟩

theorem groupNames_congr {s t : State} {p : PinchIx} (same : SameGroup s t p) {x : ScrubIx} (law : groupNames s p x) :
    groupNames t p x := by
  intro g here k holder fleet
  rw [inGroup_congr same.site] at here
  have before := (same.holder g here k fleet).mp holder
  rw [same.names g here k fleet before]
  exact law g here k before fleet

theorem pinchHolds_congr {s t : State} {p : PinchIx} (same : SameGroup s t p) {e : Pinch} (law : pinchHolds s p e) :
    pinchHolds t p e := by
  cases holder : e.holder with
  | none =>
    rw [pinchHolds_none holder] at law ⊢
    obtain ⟨count, free⟩ := law
    refine ⟨count, fun g here => ?_⟩
    rw [inGroup_congr same.site] at here
    obtain ⟨vacant, passengers⟩ := free g here
    refine ⟨by rw [same.occupant g here]; exact vacant, fun k held => ?_⟩
    by_contra fleet
    exact fleet (passengers k ((same.holder g here k (by omega)).mp held))
  | some h =>
    rw [pinchHolds_some holder] at law ⊢
    obtain ⟨count, used, names⟩ := law
    rw [pinchUse_congr same]
    exact ⟨count, used, groupNames_congr same names⟩

/-- A scrubber uses a group exactly when it uses one of its segments. -/
theorem pinchUse_pos (s : State) (p : PinchIx) (x : ScrubIx) : 1 ≤ pinchUse s p x ↔ ∃ g, inGroup s p g
    ∧ ((s.seg g).occupant = some x ∨ ∃ k, (s.seg g).holder = some k ∧ k.val < 20 ∧ (s.slot k).scrubber = some x) := by
  unfold pinchUse
  rw [Nat.one_le_iff_ne_zero, Nat.ne_zero_iff_zero_lt, List.length_pos_iff_exists_mem]
  refine exists_congr fun g => ?_
  rw [List.mem_filter, mem_pinchUse]
  exact and_iff_right (List.mem_finRange g)

theorem pinchCount_eq (s : State) (p : PinchIx) (x : ScrubIx) : s.pinchCount p x = pinchUse s p x := by
  unfold State.pinchCount State.groupSegs State.segIxs pinchUse
  rw [List.filter_filter, List.filter_filter]
  congr 1
  refine List.filter_congr fun g _ => ?_
  rw [Bool.eq_iff_iff, mem_pinchUse]
  simp only [Bool.and_eq_true, decide_eq_true_eq, beq_iff_eq, State.usedBy, Bool.or_eq_true, inGroup]
  cases (s.seg g).holder with
  | none => simp; tauto
  | some k => simp [isFleet]; tauto

theorem mem_groupSegs (s : State) (p : PinchIx) (g : SegIx) : g ∈ s.groupSegs p ↔ inGroup s p g := by
  simp only [State.groupSegs, State.segIxs, List.mem_filter, List.mem_finRange, true_and, decide_eq_true_eq, beq_iff_eq,
    inGroup]

theorem groupOccupant_some {s : State} {p : PinchIx} {y : ScrubIx} (h : s.groupOccupant p = some y) :
    ∃ g, inGroup s p g ∧ (s.seg g).occupant = some y := by
  obtain ⟨g, member, here⟩ := List.exists_of_findSome?_eq_some h
  exact ⟨g, (mem_groupSegs s p g).mp member, here⟩

theorem groupOccupant_none {s : State} {p : PinchIx} (h : s.groupOccupant p = none) (g : SegIx) (here : inGroup s p g) :
    (s.seg g).occupant = none := List.findSome?_eq_none_iff.mp h g ((mem_groupSegs s p g).mpr here)

/-! ### A group brought up to date -/

theorem sameGroup_setPinch (s : State) (p q : PinchIx) (e : Pinch) : SameGroup s (s.setPinch p e) q :=
  ⟨rfl, fun _ _ => rfl, fun _ _ _ _ => Iff.rfl, fun _ _ _ _ _ => rfl⟩

/-- An update that no group reads. -/
theorem sameGroup_of_same {s t : State} (site : t.site = s.site) (segs : t.segs = s.segs) (slots : t.slots = s.slots)
    (p : PinchIx) : SameGroup s t p := by
  have seg (g : SegIx) : t.seg g = s.seg g := by unfold State.seg; rw [segs]
  have slot (k : SlotIx) : t.slot k = s.slot k := by unfold State.slot; rw [slots]
  exact ⟨site, fun g _ => by rw [seg], fun g _ k _ => by rw [seg], fun _ _ k _ _ => by rw [slot]⟩

/-- What a group's segments must be like when it is brought up to date: they name the holder that the group has, or the
scrubber that it gains. -/
structure Refreshable (s : State) (p : PinchIx) (gain : Option ScrubIx) : Prop where
  names : ∀ h, (s.pinchEntry p).holder = some h → groupNames s p h
  free : (s.pinchEntry p).holder = none → gain = none → pinchHolds s p (s.pinchEntry p)
  gains : (s.pinchEntry p).holder = none → ∀ x, gain = some x → groupNames s p x ∧ 1 ≤ pinchUse s p x

/-- A group brought up to date obeys the law (R48, R49). -/
theorem pinchHolds_refreshPinch (s : State) (p : PinchIx) (gain : Option ScrubIx) (ready : Refreshable s p gain) :
    pinchHolds (s.refreshPinch p gain) p ((s.refreshPinch p gain).pinchEntry p) := by
  have counted (h : ScrubIx) (names : groupNames s p h) (used : 1 ≤ pinchUse s p h) (t : State)
      (same : SameGroup s t p) : pinchHolds t p { holder := some h, count := s.pinchCount p h } := by
    refine pinchHolds_congr same ((pinchHolds_some rfl).mpr ⟨pinchCount_eq s p h, ?_, names⟩)
    rw [pinchCount_eq]; exact used
  unfold State.refreshPinch
  split
  case h_1 nobody =>
    split
    case h_1 => exact ready.free nobody rfl
    case h_2 x =>
      obtain ⟨names, used⟩ := ready.gains nobody x rfl
      rw [pinchEntry_setPinch_same]
      exact counted x names used _ (sameGroup_setPinch s p p _)
  case h_2 h holder =>
    have names := ready.names h holder
    split
    case isTrue some =>
      rw [pinchCount_eq] at some
      rw [pinchEntry_setPinch_same]
      exact counted h names (Nat.one_le_iff_ne_zero.mpr some) _ (sameGroup_setPinch s p p _)
    case isFalse zero =>
      have unheld (g : SegIx) (here : inGroup s p g) (k : SlotIx) (held : (s.seg g).holder = some k) : 20 ≤ k.val := by
        by_contra fleet
        rw [pinchCount_eq] at zero
        have used := (pinchUse_pos s p h).mpr ⟨g, here, .inr ⟨k, held, by omega, names g here k held (by omega)⟩⟩
        omega
      split
      case h_1 y occupies =>
        rw [pinchEntry_noteFreeing, pinchEntry_setPinch_same]
        obtain ⟨g, here, occupant⟩ := groupOccupant_some occupies
        refine counted y (fun g here k held fleet => ?_) ((pinchUse_pos s p y).mpr ⟨g, here, .inl occupant⟩) _
          (sameGroup_of_same (by rfl) (by rfl) (by rfl) p)
        have passenger := unheld g here k held
        omega
      case h_2 vacant =>
        rw [pinchEntry_noteFreeing, pinchEntry_setPinch_same]
        refine pinchHolds_congr (sameGroup_of_same (by rfl) (by rfl) (by rfl) p) ((pinchHolds_none rfl).mpr ⟨rfl, fun g here => ?_⟩)
        exact ⟨groupOccupant_none vacant g here, unheld g here⟩

theorem pinchEntry_refreshPinch_other (s : State) (p q : PinchIx) (gain : Option ScrubIx) (ne : p ≠ q) :
    (s.refreshPinch p gain).pinchEntry q = s.pinchEntry q := by
  unfold State.refreshPinch
  split
  · split
    · rfl
    · exact pinchEntry_setPinch_other s p q _ ne
  · split
    · exact pinchEntry_setPinch_other s p q _ ne
    · split
      · exact pinchEntry_setPinch_other s p q _ ne
      · exact pinchEntry_setPinch_other s p q _ ne

theorem sameGroup_refreshPinch (s : State) (p q : PinchIx) (gain : Option ScrubIx) :
    SameGroup s (s.refreshPinch p gain) q := by
  obtain ⟨l, f, e⟩ := refreshPinch_eq s p gain
  rw [e]
  exact sameGroup_of_same (by rfl) (by rfl) (by rfl) q

theorem inGroup_of_pinch {s : State} {g : SegIx} {p : PinchIx} (h : (s.fixed g).pinch = some p) : inGroup s p g := by
  refine ⟨?_, h⟩
  by_contra above
  unfold State.fixed at h
  unfold State.n at above
  cases site : s.site with
  | none => rw [site] at h; cases h
  | some m =>
    rw [site] at h above
    dsimp only at h above
    rw [List.getD_eq_default _ _ (by omega)] at h
    cases h

/-- A change of one segment's grip, after which the segment's group is brought up to date (R48). -/
theorem pinchLaw_refreshPinchOf (s t : State) (g : SegIx) (gain : Option ScrubIx) (site : t.site = s.site)
    (slots : t.slots = s.slots) (pinch : t.pinch = s.pinch) (others : ∀ h, h ≠ g → t.seg h = s.seg h)
    (ready : ∀ p, (s.fixed g).pinch = some p → Refreshable t p gain) (law : s.pinchLaw) :
    (t.refreshPinchOf g gain).pinchLaw := by
  have entry (q : PinchIx) : t.pinchEntry q = s.pinchEntry q := by unfold State.pinchEntry; rw [pinch]
  have slot (k : SlotIx) : t.slot k = s.slot k := by unfold State.slot; rw [slots]
  have away (q : PinchIx) (ne : (s.fixed g).pinch ≠ some q) : pinchHolds t q (t.pinchEntry q) := by
    have other {h : SegIx} (here : inGroup s q h) : t.seg h = s.seg h := others h fun e => ne (e ▸ here.2)
    rw [entry]
    exact pinchHolds_congr ⟨site, fun h here => by rw [other here], fun h here k _ => by rw [other here],
      fun _ _ k _ _ => by rw [slot]⟩ (law q)
  intro q
  change pinchHolds _ q _
  unfold State.refreshPinchOf
  rw [fixed_congr site]
  split
  case h_1 none => exact away q (by rw [none]; simp)
  case h_2 p here =>
    by_cases same : p = q
    · subst same
      exact pinchHolds_refreshPinch t p gain (ready p here)
    · rw [pinchEntry_refreshPinch_other t p q gain same]
      exact pinchHolds_congr (sameGroup_refreshPinch t p q gain) (away q (by rw [here]; simpa using same))

end Sys2Proof.Machine
end

section
/-! SUPPORT. The pinch table through the requests to the segment table (R40, R41, R43, R47 to R49). -/
namespace Sys2Proof.Machine
open Sys2Proof
set_option Elab.async false

theorem pinchLaw_of_sameGroup {s t : State} (pinch : t.pinch = s.pinch) (same : ∀ p, SameGroup s t p)
    (law : s.pinchLaw) : t.pinchLaw := by
  intro p
  have entry : t.pinchEntry p = s.pinchEntry p := by unfold State.pinchEntry; rw [pinch]
  change pinchHolds t p _
  rw [entry]
  exact pinchHolds_congr (same p) (law p)

/-- A state with the same grips and names. -/
theorem pinchLaw_of_grip {s t : State} (pinch : t.pinch = s.pinch) (site : t.site = s.site)
    (grip : ∀ g, (t.seg g).grip = (s.seg g).grip) (names : ∀ k, (t.slot k).scrubber = (s.slot k).scrubber)
    (law : s.pinchLaw) : t.pinchLaw := by
  refine pinchLaw_of_sameGroup pinch (fun p => ⟨site, fun g _ => (grip_eq (grip g)).2.2, fun g _ k _ => ?_,
    fun _ _ k _ _ => names k⟩) law
  rw [(grip_eq (grip g)).1]

theorem pinchLaw_markWet (s : State) (g : SegIx) (law : s.pinchLaw) : (s.markWet g).pinchLaw :=
  pinchLaw_of_grip (by rfl) (by rfl) (grip_markWet s g) (fun _ => rfl) law

theorem pinchLaw_suspendWet (s : State) (g : SegIx) (law : s.pinchLaw) : (s.suspendWet g).pinchLaw := by
  have same : (s.suspendWet g).pinch = s.pinch ∧ (s.suspendWet g).site = s.site
      ∧ (s.suspendWet g).slots = s.slots := by
    unfold State.suspendWet
    split <;> exact ⟨rfl, rfl, rfl⟩
  obtain ⟨pinch, site, slots⟩ := same
  exact pinchLaw_of_grip pinch site (grip_suspendWet s g) (fun k => by unfold State.slot; rw [slots]) law

/-- A group with a fleet holder in it has a holder. -/
theorem pinchLaw_holder {s : State} (law : s.pinchLaw) {p : PinchIx} {g : SegIx} (here : inGroup s p g) {k : SlotIx}
    (held : (s.seg g).holder = some k) (fleet : k.val < 20) : (s.pinchEntry p).holder ≠ none := by
  intro nobody
  obtain ⟨_, free⟩ := (pinchHolds_none nobody).mp (law p)
  have passenger := (free g here).2 k held
  omega

theorem pinchLaw_names {s : State} (law : s.pinchLaw) {p : PinchIx} {h : ScrubIx}
    (holder : (s.pinchEntry p).holder = some h) : groupNames s p h := ((pinchHolds_some holder).mp (law p)).2.2

/-- A fleet slot that lets a segment go: its group is brought up to date (R41, R48). -/
theorem refreshable_released (s : State) (g : SegIx) (k : SlotIx) (r : Seg) (mine : (s.seg g).holder = some k)
    (fleet : k.val < 20) (freed : r.holder = none) (law : s.pinchLaw) (p : PinchIx) (here : (s.fixed g).pinch = some p) :
    Refreshable (s.setSeg g r) p none := by
  have nobody := pinchLaw_holder law (inGroup_of_pinch here) mine fleet
  refine ⟨fun h holder f grouped j held fl => ?_, fun none => absurd none nobody, fun none => absurd none nobody⟩
  rw [seg_setSeg] at held
  split at held
  · rw [freed] at held; cases held
  · exact pinchLaw_names law holder f grouped j held fl

theorem pinchLaw_release (s : State) (k : SlotIx) (wet : Bool) (g : SegIx) (law : s.pinchLaw) :
    (s.release k wet g).pinchLaw := by
  unfold State.release
  split
  case isFalse => exact law
  case isTrue mine =>
  have wetted (t : State) (law : t.pinchLaw) :
      (if (t.seg g).carried = true then (t.setSeg g { t.seg g with carried := false }).markWet g
        else if wet = true then t.markWet g else t).pinchLaw := by
    split
    · refine pinchLaw_markWet _ g (pinchLaw_of_grip (s := t) (by rfl) (by rfl) (fun h => ?_) (fun _ => rfl) law)
      exact grip_setSeg_same t g h _ rfl
    · split
      · exact pinchLaw_markWet t g law
      · exact law
  refine wetted _ ?_
  split
  · rename_i fleet
    refine pinchLaw_refreshPinchOf s _ g none rfl rfl rfl (fun h ne => seg_setSeg_other s g h _ ne.symm)
      (fun p here => ?_) law
    have ready := refreshable_released s g k { s.seg g with holder := none, pendingRel := false } mine
      (by simpa [isFleet] using fleet) rfl law p here
    exact ⟨ready.names, ready.free, ready.gains⟩
  · rename_i passenger
    refine pinchLaw_of_sameGroup (s := s) (by rfl) (fun p => ⟨rfl, fun h _ => ?_, fun h _ j fleet => ?_, fun _ _ _ _ _ => rfl⟩) law
    · rw [seg_noteFreeing, seg_setSeg]
      split
      · rename_i e; rw [e]
      · rfl
    · rw [seg_noteFreeing, seg_setSeg]
      split
      · rename_i e
        subst e
        rw [mine]
        have apart : k ≠ j := by
          rintro rfl
          exact passenger (by simpa [isFleet] using fleet)
        simpa using apart
      · rfl

theorem pinchLaw_foldl {α : Type} (f : State → α → State) (hf : ∀ t a, t.pinchLaw → (f t a).pinchLaw) (l : List α)
    (s : State) (law : s.pinchLaw) : (l.foldl f s).pinchLaw := by
  induction l generalizing s with
  | nil => exact law
  | cons a l ih => exact ih _ (hf s a law)

theorem pinchLaw_releaseWhere (s : State) (k : SlotIx) (pick : SegIx × Nat → Bool) (law : s.pinchLaw) :
    (s.releaseWhere k pick).pinchLaw := pinchLaw_foldl _ (fun t e l => pinchLaw_release t k _ e.1 l) _ s law

/-- A scrubber that comes to stand on a segment uses its group (R43, R47). -/
theorem pinchLaw_setOccupant (s : State) (x : ScrubIx) (g : SegIx) (law : s.pinchLaw) :
    (s.setOccupant x g).pinchLaw := by
  unfold State.setOccupant
  split
  · exact law
  · refine pinchLaw_refreshPinchOf s _ g (some x) rfl rfl rfl (fun h ne => seg_setSeg_other s g h _ ne.symm)
      (fun p here => ?_) law
    have holder (f : SegIx) : ((s.setSeg g { s.seg g with occupant := some x }).seg f).holder = (s.seg f).holder := by
      rw [seg_setSeg]
      split
      · rename_i e; rw [← e]
      · rfl
    refine ⟨fun h held f grouped j mine fleet => ?_, fun _ none => (by cases none), fun nobody y gain => ⟨?_, ?_⟩⟩
    · rw [holder] at mine
      exact pinchLaw_names law held f grouped j mine fleet
    · intro f grouped j mine fleet
      rw [holder] at mine
      exact absurd nobody (pinchLaw_holder law grouped mine fleet)
    · cases gain
      refine (pinchUse_pos _ p x).mpr ⟨g, inGroup_of_pinch here, .inl ?_⟩
      rw [seg_setSeg_same]

theorem pinchLaw_clearOccupant (s : State) (x : ScrubIx) (g : SegIx) (law : s.pinchLaw) :
    (s.clearOccupant x g).pinchLaw := by
  unfold State.clearOccupant
  split
  · rename_i occupies
    refine pinchLaw_refreshPinchOf s _ g none rfl rfl rfl (fun h ne => seg_setSeg_other s g h _ ne.symm)
      (fun p here => ?_) law
    have nobody : (s.pinchEntry p).holder ≠ none := fun none => by
      obtain ⟨_, free⟩ := (pinchHolds_none none).mp (law p)
      rw [(free g (inGroup_of_pinch here)).1] at occupies
      cases occupies
    refine ⟨fun h held f grouped j mine fleet => ?_, fun none => absurd none nobody, fun none => absurd none nobody⟩
    rw [seg_noteFreeing, seg_setSeg] at mine
    split at mine
    · rename_i e
      exact pinchLaw_names law held g (e ▸ grouped) j mine fleet
    · exact pinchLaw_names law held f grouped j mine fleet
  · exact law

/-! ### A slot that takes its route (R40) -/

/-- The pinch groups of a list of segments are free for a scrubber to take (R50, check 6). -/
def State.pinchOpen (s : State) (x : ScrubIx) (l : List SegIx) : Prop :=
  ∀ g ∈ l, ∀ p, (s.fixed g).pinch = some p → (s.pinchEntry p).holder = none ∨ (s.pinchEntry p).holder = some x

theorem pinchOpen_cons {s : State} {x : ScrubIx} {g : SegIx} {l : List SegIx} (h : s.pinchOpen x (g :: l)) :
    s.pinchOpen x l := fun f hf => h f (List.mem_cons_of_mem _ hf)

/-- A group of which a scrubber holds a segment is its own once it is brought up to date. -/
theorem pinchEntry_refreshPinch_own (s : State) (p : PinchIx) (x : ScrubIx) (used : 1 ≤ pinchUse s p x)
    (now : (s.pinchEntry p).holder = none ∨ (s.pinchEntry p).holder = some x) :
    ((s.refreshPinch p (some x)).pinchEntry p).holder = some x := by
  rw [← pinchCount_eq] at used
  unfold State.refreshPinch
  obtain nobody | own := now
  · rw [nobody]
    dsimp only
    rw [pinchEntry_setPinch_same]
  · rw [own]
    dsimp only
    rw [if_pos (by omega), pinchEntry_setPinch_same]

theorem takeFleet_same (s : State) (k : SlotIx) (e : SegIx × Nat) : (s.takeFleet k e).pinch
    = ((s.setSeg e.1 { s.seg e.1 with holder := some k }).refreshPinchOf e.1 (s.slot k).scrubber).pinch := by
  unfold State.takeFleet
  dsimp only
  split
  · unfold State.suspendWet
    split <;> rfl
  · rfl

theorem site_takeFleet (s : State) (k : SlotIx) (e : SegIx × Nat) : (s.takeFleet k e).site = s.site := by
  unfold State.takeFleet
  dsimp only
  obtain ⟨l, f, eq⟩ := refreshPinchOf_eq (s.setSeg e.1 { s.seg e.1 with holder := some k }) e.1 (s.slot k).scrubber
  rw [eq]
  split
  · unfold State.suspendWet
    split <;> rfl
  · rfl

/-- One segment taken by the slot of a scrubber for which its group is open. -/
theorem pinchLaw_takeFleet (s : State) (k : SlotIx) (e : SegIx × Nat) (x : ScrubIx) (fleet : k.val < 20)
    (named : (s.slot k).scrubber = some x) (free : s.pinchOpen x [e.1]) (law : s.pinchLaw) :
    (s.takeFleet k e).pinchLaw := by
  have held : ((s.setSeg e.1 { s.seg e.1 with holder := some k }).refreshPinchOf e.1 (s.slot k).scrubber).pinchLaw := by
    refine pinchLaw_refreshPinchOf s _ e.1 _ rfl rfl rfl (fun h ne => seg_setSeg_other s e.1 h _ ne.symm)
      (fun p here => ?_) law
    have names (y : ScrubIx) (own : groupNames s p y) (same : x = y) :
        groupNames (s.setSeg e.1 { s.seg e.1 with holder := some k }) p y := by
      intro f grouped j mine fl
      rw [seg_setSeg] at mine
      split at mine
      · cases mine; exact same ▸ named
      · exact own f grouped j mine fl
    have mine := free e.1 List.mem_cons_self p here
    refine ⟨fun h holder => ?_, fun _ none => ?_, fun nobody y gain => ⟨?_, ?_⟩⟩
    · obtain nobody | own := mine
      · have holder : (s.pinchEntry p).holder = some h := holder
        rw [nobody] at holder; cases holder
      · have same : x = h := Option.some.inj (own.symm.trans holder)
        exact names h (pinchLaw_names law holder) same
    · rw [named] at none; cases none
    · have same : x = y := Option.some.inj (named.symm.trans gain)
      refine names y (fun f grouped j held fl => ?_) same
      exact absurd nobody (pinchLaw_holder law grouped held fl)
    · refine (pinchUse_pos _ p y).mpr ⟨e.1, inGroup_of_pinch here, .inr ⟨k, ?_, fleet, gain⟩⟩
      rw [seg_setSeg_same]
  unfold State.takeFleet
  dsimp only
  split
  · exact pinchLaw_suspendWet _ _ held
  · exact held

/-- The groups of the rest of the route stay open to the scrubber that takes a segment. -/
theorem pinchOpen_takeFleet (s : State) (k : SlotIx) (e : SegIx × Nat) (x : ScrubIx) (l : List SegIx) (fleet : k.val < 20)
    (named : (s.slot k).scrubber = some x) (free : s.pinchOpen x (e.1 :: l)) : (s.takeFleet k e).pinchOpen x l := by
  intro g hg p here
  rw [fixed_congr (site_takeFleet s k e)] at here
  have before := pinchOpen_cons free g hg p here
  have entry : (s.takeFleet k e).pinchEntry p
      = ((s.setSeg e.1 { s.seg e.1 with holder := some k }).refreshPinchOf e.1 (s.slot k).scrubber).pinchEntry p := by
    unfold State.pinchEntry
    rw [takeFleet_same]
  rw [entry, named]
  unfold State.refreshPinchOf
  split
  case h_1 => exact before
  case h_2 q there =>
    by_cases same : q = p
    · subst same
      refine .inr (pinchEntry_refreshPinch_own _ q x ?_ before)
      refine (pinchUse_pos _ q x).mpr ⟨e.1, inGroup_of_pinch there, .inr ⟨k, ?_, fleet, named⟩⟩
      rw [seg_setSeg_same]
    · rw [pinchEntry_refreshPinch_other _ q p _ same]
      exact before

theorem pinchLaw_takeAll (k : SlotIx) (x : ScrubIx) (fleet : k.val < 20) (l : List (SegIx × Nat)) (s : State)
    (named : (s.slot k).scrubber = some x) (free : s.pinchOpen x (l.map Prod.fst)) (law : s.pinchLaw) :
    (l.foldl (fun s e => s.takeFleet k e) s).pinchLaw := by
  induction l generalizing s with
  | nil => exact law
  | cons e l ih =>
    have slot : (s.takeFleet k e).slot k = s.slot k := by unfold State.slot; rw [slots_takeFleet]
    refine ih _ (slot ▸ named) (pinchOpen_takeFleet s k e x _ fleet named free) ?_
    refine pinchLaw_takeFleet s k e x fleet named (fun g hg => ?_) law
    rw [List.mem_singleton.mp hg]
    exact free e.1 List.mem_cons_self

/-- A passenger slot takes segments that no fleet slot holds. -/
theorem pinchLaw_takePassenger (s : State) (k : SlotIx) (g : SegIx) (passenger : ¬ k.val < 20)
    (free : ∀ j, (s.seg g).holder = some j → ¬ j.val < 20) (law : s.pinchLaw) : (s.takePassenger k g).pinchLaw := by
  have same : (s.takePassenger k g).pinch = s.pinch ∧ (s.takePassenger k g).site = s.site := by
    unfold State.takePassenger State.removeClaim
    split <;> exact ⟨rfl, rfl⟩
  obtain ⟨pinch, site⟩ := same
  refine pinchLaw_of_sameGroup pinch (fun p => ⟨site, fun h _ => ?_, fun h _ j fleet => ?_, fun _ _ j _ _ => ?_⟩) law
  · have taken := grip_takePassenger s k g h
    split at taken
    · simp only [Seg.grip, Prod.mk.injEq] at taken; exact taken.2.2
    · exact (grip_eq taken).2.2
  · have taken := grip_takePassenger s k g h
    split at taken
    · rename_i here
      subst here
      simp only [Seg.grip, Prod.mk.injEq] at taken
      rw [taken.1]
      constructor
      · intro e; cases e; exact absurd fleet passenger
      · intro e; exact absurd fleet (free j e)
    · rw [(grip_eq taken).1]
  · unfold State.slot; rw [slots_takePassenger]

theorem pinchLaw_takePassengers (k : SlotIx) (passenger : ¬ k.val < 20) (l : List SegIx) (s : State)
    (free : ∀ g ∈ l, ∀ j, (s.seg g).holder = some j → ¬ j.val < 20) (law : s.pinchLaw) :
    (l.foldl (fun s g => s.takePassenger k g) s).pinchLaw := by
  induction l generalizing s with
  | nil => exact law
  | cons g l ih =>
    refine ih _ (fun f hf j holder => ?_)
      (pinchLaw_takePassenger s k g passenger (free g List.mem_cons_self) law)
    have taken := grip_takePassenger s k g f
    split at taken
    · simp only [Seg.grip, Prod.mk.injEq] at taken
      rw [taken.1] at holder
      cases holder
      exact passenger
    · rw [(grip_eq taken).1] at holder
      exact free f (List.mem_cons_of_mem _ hf) j holder

/-! ### Availability (R50 to R53) -/

theorem fleetTest_none {s : State} {x : ScrubIx} {m : AuthMode} {i : Nat} {g : SegIx} (h : s.fleetTest x m i g = none) :
    (s.seg g).holder = none ∧ s.pinchedFrom x g = false := by
  unfold State.fleetTest at h
  dsimp only at h
  split at h
  · cases h
  split at h
  · cases h
  split at h
  · cases h
  rename_i unheld
  split at h
  · cases h
  split at h
  · cases h
  split at h
  · cases h
  rename_i unpinched
  exact ⟨by simpa using unheld, by simpa using unpinched⟩

/-- An available route is held by nobody, and a fleet slot's has its pinch groups open. -/
theorem available_route {s : State} {k : SlotIx} (named : k.val < 20 → (s.slot k).scrubber.isSome = true)
    (h : s.availability k = none) : (∀ g ∈ (s.slot k).route, (s.seg g).holder = none)
      ∧ (k.val < 20 → ∀ x, (s.slot k).scrubber = some x → s.pinchOpen x (s.slot k).route) := by
  unfold State.availability at h
  dsimp only at h
  split at h
  · rename_i fleet
    have fleet : k.val < 20 := by simpa [isFleet] using fleet
    split at h
    case h_1 x name =>
      have passes (g : SegIx) (hg : g ∈ (s.slot k).route) : ∃ i, s.fleetTest x (s.slot k).mode i g = none := by
        obtain ⟨e, he, rfl⟩ := exists_entry hg
        exact ⟨e.2, firstFailure_none _ _ h e he⟩
      refine ⟨fun g hg => ?_, fun _ y name' g hg p here => ?_⟩
      · obtain ⟨i, test⟩ := passes g hg
        exact (fleetTest_none test).1
      · have same : x = y := Option.some.inj (name.symm.trans name')
        subst same
        obtain ⟨i, test⟩ := passes g hg
        have open_ := (fleetTest_none test).2
        unfold State.pinchedFrom at open_
        rw [here] at open_
        dsimp only at open_
        cases holder : (s.pinchEntry p).holder with
        | none => exact .inl rfl
        | some y =>
          rw [holder] at open_
          exact .inr (by simpa using open_)
    case h_2 name =>
      have some := named fleet
      rw [name] at some
      cases some
  · rename_i passenger
    refine ⟨fun g hg => ?_, fun fleet => absurd (by simpa [isFleet] using fleet) passenger⟩
    obtain ⟨e, he, rfl⟩ := exists_entry hg
    exact (dry_of_passengerTest s e.1 (firstFailure_none _ _ h e he)).2

/-- A slot that takes its available route (R40, R48). -/
theorem pinchLaw_takeHold (s : State) (k : SlotIx) (named : k.val < 20 → (s.slot k).scrubber.isSome = true)
    (available : s.availability k = none) (law : s.pinchLaw) : (s.takeHold k).pinchLaw := by
  obtain ⟨free, groups⟩ := available_route named available
  unfold State.takeHold
  split
  · rename_i fleet
    have fleet : k.val < 20 := by simpa [isFleet] using fleet
    obtain ⟨x, name⟩ := Option.isSome_iff_exists.mp (named fleet)
    refine pinchLaw_takeAll k x fleet _ s name ?_ law
    rw [map_fst_entries]
    exact groups fleet x name
  · rename_i passenger
    refine pinchLaw_takePassengers k (fun fleet => passenger (by simpa [isFleet] using fleet)) _ s (fun g hg j holder => ?_) law
    rw [free g hg] at holder
    cases holder

end Sys2Proof.Machine
end

section
/-! SUPPORT. The requests of the events that keep the law of held floor and, under it, the law of the pinch table. -/
namespace Sys2Proof.Machine
open Sys2Proof
set_option Elab.async false

/-- From the law of held floor a run leads to Q, and to the law of the pinch table when it stood; nothing outside the
event changes, and if `vac` no segment comes to be occupied. -/
structure Leads (vac : Prop) (Q : State → Prop) (s t : State) : Prop where
  outside : t.outside = s.outside
  vacant : vac → ∀ g, (s.seg g).occupant = none → (t.seg g).occupant = none
  floor : s.floorLaw → Q t
  pinch : s.floorLaw → s.pinchLaw → t.pinchLaw

/-- A run that keeps the law of held floor, and under it the law of the pinch table. -/
abbrev Safe (vac : Prop) : State → State → Prop := Leads vac State.floorLaw

/-- Slot k holds nothing, and the law of held floor stands but for its record. -/
def State.emptyFloor (k : SlotIx) (s : State) : Prop :=
  (∀ j, j ≠ k → HoldsFloor j (s.slot j) (fun g => (s.seg g).holder = some j) (fun g => (s.seg g).pendingRel = true))
    ∧ (∀ g, (s.seg g).holder = none → (s.seg g).pendingRel = false) ∧ ∀ g, (s.seg g).holder ≠ some k

section Runs
variable {vac : Prop} {Q : State → Prop} {s t : State}

theorem Leads.refl (s : State) : Safe vac s s := ⟨rfl, fun _ _ => id, id, fun _ => id⟩

theorem Leads.next {P : State → Prop} {u : State} (h : Leads vac Q s t) (outside : u.outside = t.outside)
    (vacant : vac → ∀ g, (t.seg g).occupant = none → (u.seg g).occupant = none) (floor : Q t → P u)
    (pinch : Q t → t.pinchLaw → u.pinchLaw) : Leads vac P s u :=
  ⟨outside.trans h.outside, fun v g e => vacant v g (h.vacant v g e), fun l => floor (h.floor l),
    fun l p => pinch (h.floor l) (h.pinch l p)⟩

theorem Leads.trans {u : State} (a : Safe vac s t) (b : Safe vac t u) : Safe vac s u :=
  a.next b.outside b.vacant b.floor b.pinch

theorem Leads.weaken (h : Leads vac Q s t) : Leads False Q s t := ⟨h.outside, fun f => f.elim, h.floor, h.pinch⟩

/-! ### Changes of one slot's hold -/

/-- Slot k's hold and record change; what other slots hold stays theirs. -/
theorem floorLaw_rehold {u : State} (k : SlotIx) (slots : ∀ j, j ≠ k → u.slot j = t.slot j)
    (others : ∀ j, j ≠ k → ∀ g, (u.seg g).holder = some j ↔ (t.seg g).holder = some j)
    (pend : ∀ j, j ≠ k → ∀ g, (t.seg g).holder = some j → (u.seg g).pendingRel = (t.seg g).pendingRel)
    (free : ∀ g, (u.seg g).holder = none → (u.seg g).pendingRel = false)
    (own : HoldsFloor k (u.slot k) (fun g => (u.seg g).holder = some k) (fun g => (u.seg g).pendingRel = true))
    (law : ∀ j, j ≠ k → HoldsFloor j (t.slot j) (fun g => (t.seg g).holder = some j)
      (fun g => (t.seg g).pendingRel = true)) : u.floorLaw := by
  refine ⟨fun j => ?_, free⟩
  by_cases same : j = k
  · subst same; exact own
  obtain ⟨mine, whole, above, pending, evidence, distinct⟩ := law j same
  rw [slots j same]
  refine ⟨fun g held => mine g ((others j same g).mp held), fun fleet authority e he reached => ?_, above,
    fun g held => ?_, evidence, distinct⟩
  · exact (others j same e.1).trans (whole fleet authority e he reached)
  · have before := (others j same g).mp held
    rw [pend j same g before]
    exact pending g before

/-- An update that no law reads. -/
theorem floorLaw_of_grip {u : State} (slots : ∀ j, u.slot j = t.slot j) (grip : ∀ g, (u.seg g).grip = (t.seg g).grip)
    (law : t.floorLaw) : u.floorLaw := by
  refine ⟨fun j => ?_, fun g => ?_⟩
  · have held : (fun g => (u.seg g).holder = some j) = fun g => (t.seg g).holder = some j :=
      funext fun g => by rw [(grip_eq (grip g)).1]
    have pend : (fun g => (u.seg g).pendingRel = true) = fun g => (t.seg g).pendingRel = true :=
      funext fun g => by rw [(grip_eq (grip g)).2.1]
    rw [held, pend, slots]
    exact law.1 j
  · obtain ⟨holder, pend, _⟩ := grip_eq (grip g)
    rw [holder, pend]
    exact law.2 g

theorem sf_grip {u : State} (h : Safe vac s t) (grip : ∀ g, (u.seg g).grip = (t.seg g).grip)
    (outside : u.outside = t.outside := by rfl) (slots : u.slots = t.slots := by rfl)
    (pinch : u.pinch = t.pinch := by rfl) : Safe vac s u := by
  have slot (j : SlotIx) : u.slot j = t.slot j := by unfold State.slot; rw [slots]
  refine h.next outside (fun _ g e => (grip_eq (grip g)).2.2.trans e) (floorLaw_of_grip slot grip) fun _ l => ?_
  exact pinchLaw_of_grip pinch (congrArg Outside.site outside) grip (fun k => by rw [slot]) l

/-- An update beside segments, slots and the pinch table. -/
theorem sf_aside {u : State} (h : Safe vac s t) (outside : u.outside = t.outside := by rfl)
    (segs : u.segs = t.segs := by rfl) (slots : u.slots = t.slots := by rfl) (pinch : u.pinch = t.pinch := by rfl) :
    Safe vac s u := sf_grip h (fun g => by unfold State.seg; rw [segs]) outside slots pinch

theorem sf_setSeg (h : Safe vac s t) (g : SegIx) (r : Seg) (same : r.grip = (t.seg g).grip := by rfl) :
    Safe vac s (t.setSeg g r) := sf_grip h fun f => grip_setSeg_same t g f r same

/-- A slot record whose claims on the floor are those of the record before it. -/
theorem sf_setSlot (h : Safe vac s t) (k : SlotIx) (r : Slot)
    (claims : ∀ held pend, HoldsFloor k (t.slot k) held pend → HoldsFloor k r held pend)
    (named : r.scrubber = (t.slot k).scrubber := by rfl) : Safe vac s (t.setSlot k r) := by
  refine h.next (by rfl) (fun _ _ => id) (fun law => ?_) fun _ law => ?_
  · refine floorLaw_rehold (t := t) k (fun j ne => slot_setSlot_other t k j r ne.symm) (fun _ _ _ => Iff.rfl)
      (fun _ _ _ _ => rfl) law.2 ?_ fun j _ => law.1 j
    rw [slot_setSlot_same]
    exact claims _ _ (law.1 k)
  · refine pinchLaw_of_grip (s := t) (by rfl) (by rfl) (fun _ => rfl) (fun j => ?_) law
    rw [slot_setSlot]
    split
    · rename_i e; rw [named, e]
    · rfl

theorem sf_keepSlot (h : Safe vac s t) (k : SlotIx) (r : Slot) (state : r.state = (t.slot k).state := by rfl)
    (route : r.route = (t.slot k).route := by rfl) (endIx : r.endIx = (t.slot k).endIx := by rfl)
    (progress : r.progress = (t.slot k).progress := by rfl) (set : r.pendingSet = (t.slot k).pendingSet := by rfl)
    (evidence : r.evidence.length = (t.slot k).evidence.length := by rfl)
    (named : r.scrubber = (t.slot k).scrubber := by rfl) : Safe vac s (t.setSlot k r) :=
  sf_setSlot h k r (fun _ _ law => law.alike state route endIx progress set evidence) named

theorem sf_ite (c : Prop) [Decidable c] {a b : State} (ha : c → Leads vac Q s a) (hb : ¬ c → Leads vac Q s b) :
    Leads vac Q s (if c then a else b) := by
  split
  · exact ha ‹_›
  · exact hb ‹_›

theorem sf_foldl {α : Type} (f : State → α → State) (hf : ∀ t a, Safe vac s t → Safe vac s (f t a)) (l : List α)
    (h : Safe vac s t) : Safe vac s (l.foldl f t) := by
  induction l generalizing t with
  | nil => exact h
  | cons a l ih => exact ih (hf t a h)

/-! ### Notices and flags -/

theorem sf_stage (h : Safe vac s t) (n : Notice) : Safe vac s (t.stage n) :=
  sf_ite _ (fun _ => sf_aside h) (fun _ => sf_aside h)

theorem sf_notify (h : Safe vac s t) (kind : NoticeKind) (p : List Word) : Safe vac s (t.notify kind p) :=
  sf_ite _ (fun _ => h) (fun _ => sf_stage h _)

theorem sf_notifySlot (h : Safe vac s t) (kind : NoticeKind) (k : SlotIx) (b c : Nat) :
    Safe vac s (t.notifySlot kind k b c) := sf_notify h _ _

theorem sf_raising (f : State → State) (hf : Safe vac s (f t)) : Safe vac s (t.raising f) :=
  sf_ite _ (fun _ => sf_aside hf) (fun _ => hf)

theorem sf_shortenedNotice (h : Safe vac s t) (k : SlotIx) : Safe vac s (t.shortenedNotice k) :=
  sf_notifySlot (sf_aside h) _ _ _ _

theorem sf_confirmedNotice (h : Safe vac s t) (k : SlotIx) : Safe vac s (t.confirmedNotice k) :=
  sf_notifySlot (sf_aside h) _ _ _ _

/-! ### The floor (R40 to R46) -/

theorem sf_setOccupant (h : Safe vac s t) (moves : ¬ vac) (x : ScrubIx) (g : SegIx) :
    Safe vac s (t.setOccupant x g) := by
  have slot (j : SlotIx) : (t.setOccupant x g).slot j = t.slot j := by
    unfold State.setOccupant
    split
    · rfl
    · unfold State.slot; rw [slots_refreshPinchOf]; rfl
  have grip (f : SegIx) : ((t.setOccupant x g).seg f).holder = (t.seg f).holder
      ∧ ((t.setOccupant x g).seg f).pendingRel = (t.seg f).pendingRel := by
    have now := grip_setOccupant t x g f
    split at now
    · simp only [Seg.grip, Prod.mk.injEq] at now; exact ⟨now.1, now.2.1⟩
    · exact ⟨(grip_eq now).1, (grip_eq now).2.1⟩
  refine h.next (outside_setOccupant t x g) (fun v => absurd v moves) (fun law => ⟨fun j => ?_, fun f => ?_⟩)
    fun _ => pinchLaw_setOccupant t x g
  · simp only [slot, grip]; exact law.1 j
  · simp only [grip]; exact law.2 f

theorem sf_clearOccupant (h : Safe vac s t) (x : ScrubIx) (g : SegIx) : Safe vac s (t.clearOccupant x g) := by
  have slot (j : SlotIx) : (t.clearOccupant x g).slot j = t.slot j := by
    unfold State.clearOccupant
    split
    · unfold State.slot; rw [slots_refreshPinchOf]; rfl
    · rfl
  have grip (f : SegIx) : ((t.clearOccupant x g).seg f).holder = (t.seg f).holder
      ∧ ((t.clearOccupant x g).seg f).pendingRel = (t.seg f).pendingRel
      ∧ ((t.seg f).occupant = none → ((t.clearOccupant x g).seg f).occupant = none) := by
    have now := grip_clearOccupant t x g f
    split at now
    · simp only [Seg.grip, Prod.mk.injEq] at now; exact ⟨now.1, now.2.1, fun _ => now.2.2⟩
    · exact ⟨(grip_eq now).1, (grip_eq now).2.1, fun e => (grip_eq now).2.2.trans e⟩
  refine h.next (outside_clearOccupant t x g) (fun _ f => (grip f).2.2) (fun law => ⟨fun j => ?_, fun f => ?_⟩)
    fun _ => pinchLaw_clearOccupant t x g
  · simp only [slot, grip]; exact law.1 j
  · simp only [grip]; exact law.2 f

theorem sf_markWet (h : Safe vac s t) (g : SegIx) : Safe vac s (t.markWet g) := sf_grip h (grip_markWet t g)

theorem sf_noteFreeing (h : Safe vac s t) : Safe vac s t.noteFreeing := sf_aside h

theorem sf_removeClaim (h : Safe vac s t) (k : SlotIx) (g : SegIx) : Safe vac s (t.removeClaim k g) :=
  sf_ite _ (fun _ => sf_noteFreeing (sf_setSeg h g _)) (fun _ => h)

theorem sf_addClaim (h : Safe vac s t) (k : SlotIx) (g : SegIx) : Safe vac s (t.addClaim k g) := sf_setSeg h g _

theorem sf_dropClaims (h : Safe vac s t) (k : SlotIx) : Safe vac s (t.dropClaims k) :=
  sf_foldl _ (fun _ g m => sf_removeClaim m k g) _ h

theorem sf_setClosure (h : Safe vac s t) (g : SegIx) (c : Closure) : Safe vac s (t.setClosure g c) :=
  sf_ite _ (fun _ => sf_noteFreeing (sf_setSeg h g _)) (fun _ => sf_setSeg h g _)

theorem sf_leaveQueue (h : Safe vac s t) (k : SlotIx) : Safe vac s (t.leaveQueue k) := sf_aside h

theorem sf_setLive (h : Safe vac s t) (x : Option ScrubIx) (k : Option FleetIx) : Safe vac s (t.setLive x k) := by
  cases x with
  | none => exact h
  | some x => exact sf_aside h

theorem sf_clearLiveOf (h : Safe vac s t) (k : SlotIx) : Safe vac s (t.clearLiveOf k) :=
  sf_ite _ (fun _ => sf_setLive h _ _) (fun _ => h)

/-! ### Releases (R41, R99, R101, R113, R116) -/

/-- A release of picked entries: what others hold stays, and what slot k holds is less the picked segments. -/
theorem released_grip (t : State) (k : SlotIx) (pick : SegIx × Nat → Bool) (g : SegIx) :
    (∀ j, j ≠ k → (((t.releaseWhere k pick).seg g).holder = some j ↔ (t.seg g).holder = some j))
      ∧ (((t.releaseWhere k pick).seg g).holder = some k ↔ (t.seg g).holder = some k
          ∧ ¬ ∃ e ∈ (t.slot k).entries, pick e = true ∧ e.1 = g)
      ∧ (((t.releaseWhere k pick).seg g).holder ≠ none →
          ((t.releaseWhere k pick).seg g).pendingRel = (t.seg g).pendingRel)
      ∧ (((t.seg g).holder = none → (t.seg g).pendingRel = false) →
          ((t.releaseWhere k pick).seg g).holder = none → ((t.releaseWhere k pick).seg g).pendingRel = false)
      ∧ ((t.releaseWhere k pick).seg g).occupant = (t.seg g).occupant := by
  have now := grip_releaseWhere t k pick g
  split at now
  · rename_i picked
    simp only [Seg.grip, Prod.mk.injEq] at now
    obtain ⟨holder, pend, occupant⟩ := now
    rw [holder, pend, occupant, picked.1]
    refine ⟨fun j ne => ?_, ?_, fun e => absurd rfl e, fun _ _ => rfl, rfl⟩
    · exact ⟨fun e => (by cases e), fun e => absurd (Option.some.inj e).symm ne⟩
    · exact ⟨fun e => (by cases e), fun e => absurd picked.2 e.2⟩
  · rename_i apart
    obtain ⟨holder, pend, occupant⟩ := grip_eq now
    rw [holder, pend, occupant]
    refine ⟨fun _ _ => Iff.rfl, ?_, fun _ => rfl, id, rfl⟩
    exact ⟨fun e => ⟨e, fun picked => apart ⟨e, picked⟩⟩, fun e => e.1⟩

/-- A slot that gives back picked entries, and whose new record agrees with the rest (R99, R113, R116). -/
theorem sf_releaseThen (h : Safe vac s t) (k : SlotIx) (pick : SegIx × Nat → Bool) (r : Slot)
    (claims : ∀ held kept pend, (∀ g, kept g ↔ held g ∧ ¬ ∃ e ∈ (t.slot k).entries, pick e = true ∧ e.1 = g) →
      HoldsFloor k (t.slot k) held pend → HoldsFloor k r kept pend)
    (named : r.scrubber = (t.slot k).scrubber := by rfl) : Safe vac s ((t.releaseWhere k pick).setSlot k r) := by
  refine h.next (outside_releaseWhere t k pick) (fun _ g e => ?_) (fun law => ?_) fun _ law => ?_
  · exact (released_grip t k pick g).2.2.2.2.trans e
  · refine floorLaw_rehold (t := t) k (fun j ne => ?_) (fun j ne g => (released_grip t k pick g).1 j ne)
      (fun j ne g held => ?_) (fun g free => ?_) ?_ fun j _ => law.1 j
    · rw [slot_setSlot_other _ k j r ne.symm, slot_releaseWhere]
    · refine (released_grip t k pick g).2.2.1 ?_
      rw [((released_grip t k pick g).1 j ne).mpr held]
      simp
    · exact (released_grip t k pick g).2.2.2.1 (law.2 g) free
    · rw [slot_setSlot_same]
      have kept := claims _ (fun g => ((t.releaseWhere k pick).seg g).holder = some k) _
        (fun g => (released_grip t k pick g).2.1) (law.1 k)
      obtain ⟨mine, whole, above, pending, evidence, distinct⟩ := kept
      refine ⟨mine, whole, above, fun g held => ?_, evidence, distinct⟩
      have held' : ((t.releaseWhere k pick).seg g).holder = some k := held
      refine Iff.trans ?_ (pending g held)
      rw [seg_setSlot, (released_grip t k pick g).2.2.1 (by rw [held']; simp)]
  · refine pinchLaw_of_grip (s := t.releaseWhere k pick) (by rfl) (by rfl) (fun _ => rfl) (fun j => ?_)
      (pinchLaw_releaseWhere t k pick law)
    rw [slot_setSlot]
    split
    · rename_i e; subst e; rw [named, slot_releaseWhere]
    · rfl

/-- The release of segments behind the progress index (R99). -/
theorem sf_releasePast (h : Safe vac s t) (k : SlotIx) (pick : SegIx × Nat → Bool)
    (low : ∀ e, pick e = true → e.2 < (t.slot k).progress) : Safe vac s (t.releaseWhere k pick) := by
  refine h.next (outside_releaseWhere t k pick) (fun _ g e => ?_) (fun law => ?_) fun _ => pinchLaw_releaseWhere t k pick
  · exact (released_grip t k pick g).2.2.2.2.trans e
  · refine floorLaw_rehold (t := t) k (fun j _ => slot_releaseWhere t k j pick)
      (fun j ne g => (released_grip t k pick g).1 j ne) (fun j ne g held => ?_) (fun g free => ?_) ?_ fun j _ => law.1 j
    · refine (released_grip t k pick g).2.2.1 ?_
      rw [((released_grip t k pick g).1 j ne).mpr held]
      simp
    · exact (released_grip t k pick g).2.2.2.1 (law.2 g) free
    · rw [slot_releaseWhere]
      have kept := (law.1 k).behind (kept := fun g => ((t.releaseWhere k pick).seg g).holder = some k)
        (fun e => pick e = true) low fun g => (released_grip t k pick g).2.1
      obtain ⟨mine, whole, above, pending, evidence, distinct⟩ := kept
      refine ⟨mine, whole, above, fun g held => ?_, evidence, distinct⟩
      rw [(released_grip t k pick g).2.2.1 (by rw [held]; simp)]
      exact pending g held

/-! ### A slot that has given back everything -/

/-- What the others hold stays theirs, and slot k's segments lie on its route. -/
def State.looseFloor (k : SlotIx) (s : State) : Prop :=
  (∀ j, j ≠ k → HoldsFloor j (s.slot j) (fun g => (s.seg g).holder = some j) (fun g => (s.seg g).pendingRel = true))
    ∧ (∀ g, (s.seg g).holder = none → (s.seg g).pendingRel = false)
    ∧ ∀ g, (s.seg g).holder = some k → g ∈ (s.slot k).route

theorem looseFloor_of_floorLaw (k : SlotIx) (law : t.floorLaw) : t.looseFloor k :=
  ⟨fun j _ => law.1 j, law.2, fun g held => ((law.1 k).mine g held).1⟩

theorem Leads.loose (h : Safe vac s t) (k : SlotIx) : Leads vac (State.looseFloor k) s t :=
  h.next rfl (fun _ _ => id) (looseFloor_of_floorLaw k) fun _ => id

theorem looseFloor_releaseWhere (k : SlotIx) (pick : SegIx × Nat → Bool) (law : t.looseFloor k) :
    (t.releaseWhere k pick).looseFloor k := by
  obtain ⟨slots, free, route⟩ := law
  refine ⟨fun j ne => ?_, fun g => (released_grip t k pick g).2.2.2.1 (free g), fun g held => ?_⟩
  · rw [slot_releaseWhere]
    obtain ⟨mine, whole, above, pending, evidence, distinct⟩ := slots j ne
    refine ⟨fun g held => mine g (((released_grip t k pick g).1 j ne).mp held),
      fun fleet authority e he reached => ((released_grip t k pick e.1).1 j ne).trans (whole fleet authority e he reached),
      above, fun g held => ?_, evidence, distinct⟩
    rw [(released_grip t k pick g).2.2.1 (by rw [held]; simp)]
    exact pending g (((released_grip t k pick g).1 j ne).mp held)
  · rw [slot_releaseWhere]
    exact route g ((released_grip t k pick g).2.1.mp held).1

theorem ld_releaseWhere {k : SlotIx} (h : Leads vac (State.looseFloor k) s t) (pick : SegIx × Nat → Bool) :
    Leads vac (State.looseFloor k) s (t.releaseWhere k pick) :=
  h.next (outside_releaseWhere t k pick) (fun _ g e => (released_grip t k pick g).2.2.2.2.trans e)
    (looseFloor_releaseWhere k pick) fun _ => pinchLaw_releaseWhere t k pick

/-- After the release of its whole route a slot holds nothing (R41). -/
theorem em_releaseAll {k : SlotIx} (h : Leads vac (State.looseFloor k) s t) :
    Leads vac (State.emptyFloor k) s (t.releaseAll k) := by
  refine h.next (outside_releaseWhere t k _) (fun _ g e => (released_grip t k _ g).2.2.2.2.trans e) (fun law => ?_)
    fun _ => pinchLaw_releaseWhere t k _
  obtain ⟨slots, free, _⟩ := looseFloor_releaseWhere k (fun _ => true) law
  refine ⟨slots, free, fun g held => ?_⟩
  obtain ⟨before, apart⟩ := (released_grip t k (fun _ => true) g).2.1.mp held
  obtain ⟨e, he, same⟩ := exists_entry (law.2.2 g before)
  exact apart ⟨e, he, rfl, same⟩

/-- A slot that is neither an authority nor ACTIVE holds nothing. -/
theorem em_of_idle (h : Safe vac s t) (k : SlotIx) (idle : (t.slot k).state.authority = false) :
    Leads vac (State.emptyFloor k) s t := by
  refine h.next rfl (fun _ _ => id) (fun law => ⟨fun j _ => law.1 j, law.2, fun g held => ?_⟩) fun _ => id
  obtain ⟨_, active⟩ := (law.1 k).none idle g held
  rw [active] at idle
  cases idle

theorem emptyFloor_setSlot {k : SlotIx} (r : Slot) (law : t.emptyFloor k) : (t.setSlot k r).emptyFloor k := by
  obtain ⟨slots, free, none⟩ := law
  refine ⟨fun j ne => ?_, free, none⟩
  rw [slot_setSlot_other t k j r ne.symm]
  exact slots j ne

theorem pinchLaw_setSlot {k : SlotIx} (r : Slot) (named : r.scrubber = (t.slot k).scrubber) (law : t.pinchLaw) :
    (t.setSlot k r).pinchLaw := by
  refine pinchLaw_of_grip (s := t) (by rfl) (by rfl) (fun _ => rfl) (fun j => ?_) law
  rw [slot_setSlot]
  split
  · rename_i e; rw [named, e]
  · rfl

theorem em_setSlot {k : SlotIx} (h : Leads vac (State.emptyFloor k) s t) (r : Slot)
    (named : r.scrubber = (t.slot k).scrubber := by rfl) : Leads vac (State.emptyFloor k) s (t.setSlot k r) :=
  h.next (by rfl) (fun _ _ => id) (emptyFloor_setSlot r) fun _ => pinchLaw_setSlot r named

/-- A slot that holds nothing takes a record without an authority. -/
theorem sf_setEmpty {k : SlotIx} (h : Leads vac (State.emptyFloor k) s t) (r : Slot) (idle : r.state.authority = false)
    (set : r.pendingSet = []) (distinct : r.route.Nodup) (named : r.scrubber = (t.slot k).scrubber := by rfl) :
    Safe vac s (t.setSlot k r) := by
  refine h.next (by rfl) (fun _ _ => id) (fun law => ?_) fun _ => pinchLaw_setSlot r named
  obtain ⟨slots, free, none⟩ := law
  refine floorLaw_rehold (t := t) k (fun j ne => slot_setSlot_other t k j r ne.symm) (fun _ _ _ => Iff.rfl)
    (fun _ _ _ _ => rfl) free ?_ slots
  rw [slot_setSlot_same]
  exact holdsFloor_empty none idle set distinct

theorem em_aside {k : SlotIx} {u : State} (h : Leads vac (State.emptyFloor k) s t)
    (outside : u.outside = t.outside := by rfl) (segs : u.segs = t.segs := by rfl) (slots : u.slots = t.slots := by rfl)
    (pinch : u.pinch = t.pinch := by rfl) : Leads vac (State.emptyFloor k) s u := by
  have seg (g : SegIx) : u.seg g = t.seg g := by unfold State.seg; rw [segs]
  have slot (j : SlotIx) : u.slot j = t.slot j := by unfold State.slot; rw [slots]
  refine h.next outside (fun _ g e => by rw [seg]; exact e) (fun law => ?_) fun _ law => ?_
  · unfold State.emptyFloor
    simp only [seg, slot]
    exact law
  · exact pinchLaw_of_grip pinch (congrArg Outside.site outside) (fun g => by rw [seg]) (fun k => by rw [slot]) law

theorem em_confirmedNotice {k : SlotIx} (h : Leads vac (State.emptyFloor k) s t) :
    Leads vac (State.emptyFloor k) s (t.confirmedNotice k) := by
  have marked := em_aside (u := t.markDirty (.slotStatus k)) h
  exact sf_ite _ (fun _ => marked) (fun _ => sf_ite _ (fun _ => em_aside marked) (fun _ => em_aside marked))

/-! ### Slots that take their route (R65, R67) -/

/-- A route that is available and taken: the slot has exactly its route, the others what they had. -/
theorem taken_grip (t : State) (k : SlotIx) (free : ∀ g ∈ (t.slot k).route, (t.seg g).holder = none)
    (nothing : ∀ g, (t.seg g).holder ≠ some k) (g : SegIx) :
    (∀ j, j ≠ k → (((t.takeHold k).seg g).holder = some j ↔ (t.seg g).holder = some j))
      ∧ (((t.takeHold k).seg g).holder = some k ↔ g ∈ (t.slot k).route)
      ∧ ((t.takeHold k).seg g).pendingRel = (t.seg g).pendingRel
      ∧ ((t.takeHold k).seg g).occupant = (t.seg g).occupant
      ∧ (((t.takeHold k).seg g).holder = none → (t.seg g).holder = none) := by
  have now := grip_takeHold t k g
  split at now
  · rename_i here
    simp only [Seg.grip, Prod.mk.injEq] at now
    obtain ⟨holder, pend, occupant⟩ := now
    rw [holder, pend, occupant, free g here]
    refine ⟨fun j ne => ?_, by simpa using here, rfl, rfl, fun e => by cases e⟩
    exact ⟨fun e => absurd (Option.some.inj e).symm ne, fun e => by cases e⟩
  · rename_i apart
    obtain ⟨holder, pend, occupant⟩ := grip_eq now
    rw [holder, pend, occupant]
    exact ⟨fun _ _ => Iff.rfl, ⟨fun e => absurd e (nothing g), fun e => absurd e apart⟩, rfl, rfl, id⟩

/-- A slot without an authority takes its available route, with a record that claims it all. -/
theorem sf_take (h : Safe vac s t) (k : SlotIx) (r : Slot) (idle : (t.slot k).state.authority = false)
    (scrubber : k.val < 20 → (t.slot k).scrubber.isSome = true) (available : t.availability k = none)
    (claims : ∀ held pend, HoldsFloor k (t.slot k) (fun _ => False) pend →
      (∀ g, held g ↔ g ∈ (t.slot k).route) → (∀ g, held g → ¬ pend g) → HoldsFloor k r held pend)
    (named : r.scrubber = (t.slot k).scrubber := by rfl) : Safe vac s ((t.takeHold k).setSlot k r) := by
  obtain ⟨free, _⟩ := available_route scrubber available
  have nothing (law : t.floorLaw) (g : SegIx) : (t.seg g).holder ≠ some k := fun held => by
    obtain ⟨_, active⟩ := (law.1 k).none idle g held
    rw [active] at idle
    cases idle
  have vacant (g : SegIx) : ((t.takeHold k).seg g).occupant = (t.seg g).occupant := by
    have now := grip_takeHold t k g
    split at now
    · simp only [Seg.grip, Prod.mk.injEq] at now; exact now.2.2
    · exact (grip_eq now).2.2
  refine h.next (outside_takeHold t k) (fun _ g e => (vacant g).trans e) (fun law => ?_) fun _ law => ?_
  · have grip := taken_grip t k free (nothing law)
    refine floorLaw_rehold (t := t) k (fun j ne => ?_) (fun j ne g => (grip g).1 j ne) (fun j _ g _ => (grip g).2.2.1)
      (fun g unheld => ?_) ?_ fun j _ => law.1 j
    · rw [slot_setSlot_other _ k j r ne.symm, slot_takeHold]
    · exact (grip g).2.2.1.trans (law.2 g ((grip g).2.2.2.2 unheld))
    · rw [slot_setSlot_same]
      refine claims _ _ ?_ (fun g => (grip g).2.1) fun g held marked => ?_
      · have own := law.1 k
        exact ⟨fun g f => f.elim, fun _ authority => absurd (idle.symm.trans authority) (by decide), own.above,
          fun g f => f.elim, own.evidence, own.distinct⟩
      · have pend : ((t.takeHold k).seg g).pendingRel = true := marked
        rw [(grip g).2.2.1, law.2 g (free g ((grip g).2.1.mp held))] at pend
        cases pend
  · refine pinchLaw_setSlot r ?_ (pinchLaw_takeHold t k scrubber available law)
    rw [slot_takeHold]
    exact named

end Runs

end Sys2Proof.Machine
end

section
/-! SUPPORT. Every event keeps the law of held floor and, under it, the law of the pinch table. -/
namespace Sys2Proof.Machine
open Sys2Proof
set_option Elab.async false

section Runs
variable {vac : Prop} {s t : State}

/-! ### Slots that end -/

theorem sf_setChanged (h : Safe vac s t) (k : SlotIx) : Safe vac s (t.setChanged k) :=
  sf_ite _ (fun _ => sf_keepSlot h k _) (fun _ => h)

theorem sf_setResult (h : Safe vac s t) (k : SlotIx) (r : Result) (i : Nat) : Safe vac s (t.setResult k r i) :=
  sf_keepSlot h k _

theorem sf_markSlotWords (h : Safe vac s t) (k : SlotIx) : Safe vac s (t.markSlotWords k) := sf_aside h

theorem sf_toIdle {k : SlotIx} (h : Leads vac (State.emptyFloor k) s t) (res : Result) (i : Nat) :
    Safe vac s (t.toIdle k res i) := by
  have idle := sf_markSlotWords (sf_setEmpty h ((t.slot k).toIdle res i) rfl rfl List.nodup_nil) k
  exact sf_ite _ (fun _ => sf_setChanged idle k) (fun _ => idle)

theorem sf_endSlot {k : SlotIx} (h : Leads vac (State.emptyFloor k) s t) (res : Result) :
    Safe vac s (t.endSlot k res) := sf_clearLiveOf (sf_notifySlot (sf_toIdle h res 0) _ _ _ _) k

theorem sf_releaseAndEnd (h : Safe vac s t) (k : SlotIx) (res : Result) : Safe vac s (t.releaseAndEnd k res) :=
  sf_endSlot (em_releaseAll (h.loose k)) res

theorem sf_giveUp (h : Safe vac s t) (k : SlotIx) (res : Result) : Safe vac s (t.giveUp k res) :=
  sf_endSlot (em_setSlot (em_releaseAll (h.loose k)) _) res

theorem sf_endWaiting (h : Safe vac s t) (k : SlotIx) (f : Result × Nat) (idle : (t.slot k).state.authority = false) :
    Safe vac s (t.endWaiting k f) :=
  sf_notifySlot (sf_clearLiveOf (sf_toIdle (em_of_idle (sf_leaveQueue h k) k idle) _ _) k) _ _ _ _

/-! ### Grants and activations -/

theorem sf_grant (h : Safe vac s t) (k : SlotIx) (idle : (t.slot k).state.authority = false) (fleet : k.val < 20)
    (scrubber : (t.slot k).scrubber.isSome = true) (available : t.availability k = none) : Safe vac s (t.grant k) := by
  have taken : Safe vac s ((t.takeHold k).setSlot k ((t.takeHold k).slot k).granted) := by
    rw [slot_takeHold]
    exact sf_take h k _ idle (fun _ => scrubber) available
      fun held pend own all clear => holdsFloor_granted own.distinct fleet all clear
  exact sf_notifySlot (sf_markSlotWords (sf_setLive (sf_leaveQueue taken k) _ _) k) _ _ _ _

theorem sf_activate (h : Safe vac s t) (k : SlotIx) (idle : (t.slot k).state.authority = false)
    (passenger : ¬ k.val < 20) (available : t.availability k = none) : Safe vac s (t.activate k) := by
  have taken : Safe vac s ((t.takeHold k).setSlot k ((t.takeHold k).slot k).activated) := by
    rw [slot_takeHold]
    refine sf_take h k _ idle (fun fleet => absurd fleet passenger) available fun held pend own all clear => ?_
    refine holdsFloor_activated own.distinct passenger (own.set_nil fun short => ?_) all clear
    rw [short] at idle
    cases idle
  exact sf_notifySlot (sf_aside (sf_leaveQueue taken k)) _ _ _ _

/-! ### Shortening (R112 to R114) -/

/-- The entries past a new end that the slot holds become pending, and the record says so (R114). -/
theorem sf_pendThen (h : Safe vac s t) (k : SlotIx) (e' : Nat) (r : Slot)
    (claims : ∀ held pend marked, (∀ g, held g ↔ (t.seg g).holder = some k) →
      (∀ g, held g → (marked g ↔ pend g ∨ ∃ e ∈ (t.slot k).entries, e' < e.2 ∧ e.1 = g)) →
      HoldsFloor k (t.slot k) held pend → HoldsFloor k r held marked)
    (named : r.scrubber = (t.slot k).scrubber := by rfl) : Safe vac s ((t.markPending k e').setSlot k r) := by
  have grip (g : SegIx) : ((t.markPending k e').seg g).holder = (t.seg g).holder
      ∧ ((t.markPending k e').seg g).occupant = (t.seg g).occupant
      ∧ ((t.seg g).holder ≠ some k → ((t.markPending k e').seg g).pendingRel = (t.seg g).pendingRel)
      ∧ ((t.seg g).holder = some k → (((t.markPending k e').seg g).pendingRel = true ↔ (t.seg g).pendingRel = true
          ∨ ∃ e ∈ (t.slot k).entries, e' < e.2 ∧ e.1 = g)) := by
    have now := grip_markPending t k e' g
    split at now
    · rename_i here
      simp only [Seg.grip, Prod.mk.injEq] at now
      obtain ⟨holder, pend, occupant⟩ := now
      exact ⟨holder, occupant, fun ne => absurd here.1 ne, fun _ => by rw [pend]; exact ⟨fun _ => .inr here.2, fun _ => rfl⟩⟩
    · rename_i apart
      obtain ⟨holder, pend, occupant⟩ := grip_eq now
      refine ⟨holder, occupant, fun _ => pend, fun mine => ?_⟩
      rw [pend]
      exact ⟨.inl, fun e => e.resolve_right fun past => apart ⟨mine, past⟩⟩
  refine h.next (outside_markPending t k e') (fun _ g e => (grip g).2.1.trans e) (fun law => ?_) fun _ law => ?_
  · refine floorLaw_rehold (t := t) k (fun j ne => ?_) (fun j _ g => ?_) (fun j ne g held => (grip g).2.2.1 ?_)
      (fun g free => ?_) ?_ fun j _ => law.1 j
    · rw [slot_setSlot_other _ k j r ne.symm, slot_markPending]
    · rw [seg_setSlot, (grip g).1]
    · rw [held]; exact fun e => ne (Option.some.inj e)
    · rw [seg_setSlot] at free ⊢
      rw [(grip g).1] at free
      rw [(grip g).2.2.1 (by rw [free]; simp)]
      exact law.2 g free
    · rw [slot_setSlot_same]
      simp only [seg_setSlot, grip]
      exact claims _ _ _ (fun g => Iff.rfl) (fun g mine => (grip g).2.2.2 mine) (law.1 k)
  · refine pinchLaw_setSlot r (by rw [slot_markPending]; exact named) ?_
    refine pinchLaw_of_sameGroup (s := t) ?_ (fun p => ⟨?_, fun g _ => (grip g).2.1, fun g _ j _ => by rw [(grip g).1],
      fun _ _ j _ _ => by rw [slot_markPending]⟩) law
    · exact foldl_keeps State.pinch (fun (u : State) (e : SegIx × Nat) => u.pend e.1) (fun _ _ => rfl) _ t
    · exact foldl_keeps State.site (fun (u : State) (e : SegIx × Nat) => u.pend e.1) (fun _ _ => rfl) _ t

theorem sf_shorten (h : Safe vac s t) (k : SlotIx) (e : Nat) : Safe vac s (t.shorten k e) := by
  unfold State.shorten
  dsimp only
  refine sf_ite _ (fun _ => h) fun short => ?_
  simp only [Bool.or_eq_true, Bool.not_eq_true', decide_eq_true_eq, not_or, Bool.not_eq_false, Nat.not_le] at short
  obtain ⟨⟨fleet, authority⟩, low⟩ := short
  have fleet : k.val < 20 := by simpa [isFleet] using fleet
  refine sf_ite _ (fun granted => sf_shortenedNotice (sf_releaseThen h k _ _ (fun held kept pend rest own => ?_)
      (by rw [slot_releaseWhere]; rfl)) k)
    fun _ => sf_shortenedNotice (sf_pendThen h k _ _ (fun held pend marked mine marks own => ?_)
      (by rw [slot_markPending]; rfl)) k
  · rw [slot_releaseWhere]
    refine own.shortenedGranted granted fleet _ low fun g => ?_
    simpa using rest g
  · rw [slot_markPending]
    refine own.shortenedSent fleet authority _ low _ _ (fun i => ?_) marks
    simp only [State.heldAbove, List.mem_map, List.mem_filter, Bool.and_eq_true, decide_eq_true_eq, beq_iff_eq]
    constructor
    · rintro ⟨f, ⟨hf, past, here⟩, rfl⟩
      exact ⟨f, hf, rfl, past, (mine f.1).mpr here⟩
    · rintro ⟨f, hf, rfl, past, here⟩
      exact ⟨f, ⟨hf, past, (mine f.1).mp here⟩, rfl⟩

theorem sf_shortenHolder (h : Safe vac s t) (g : SegIx) (except : Option SlotIx) :
    Safe vac s (t.shortenHolder g except) := by
  unfold State.shortenHolder
  split
  · exact h
  · refine sf_ite _ (fun _ => ?_) (fun _ => h)
    split
    · exact sf_ite _ (fun _ => sf_shorten h _ _) (fun _ => h)
    · exact h

theorem sf_shortenToProgress (h : Safe vac s t) (k : SlotIx) : Safe vac s (t.shortenToProgress k) := sf_shorten h k _

theorem sf_shortenBefore (h : Safe vac s t) (k : SlotIx) (want : SegIx → Bool) :
    Safe vac s (t.shortenBefore k want) := by
  unfold State.shortenBefore
  split
  · exact sf_shorten h _ _
  · exact h

theorem sf_preempt (h : Safe vac s t) (route : List SegIx) : Safe vac s (t.preempt route) :=
  sf_foldl _ (fun _ _ m => sf_ite _ (fun _ => sf_shortenBefore m _ _) (fun _ => m)) _ h

/-! ### Re-evaluation (R70, R71) -/

theorem sf_reevalEntry (h : Safe vac s t) (k : SlotIx) : Safe vac s (t.reevalEntry k) := by
  refine sf_ite _ (fun _ => h) fun waits => ?_
  have waiting : (t.slot k).state = .waiting := by simpa using waits
  have idle : (t.slot k).state.authority = false := by rw [waiting]; rfl
  refine sf_ite _ (fun fleet => ?_) fun passenger => ?_
  · split
    case h_1 => exact h
    case h_2 x name =>
    split
    · exact sf_endWaiting h k _ idle
    split
    · exact sf_grant h k idle (by simpa [isFleet] using fleet) (by rw [name]; rfl) (by assumption)
    · exact sf_ite _ (fun _ => sf_setResult h k _ _) (fun _ => sf_endWaiting h k _ idle)
  · split
    · exact sf_activate h k idle (by simpa [isFleet] using passenger) (by assumption)
    · exact sf_setResult h k _ _

theorem sf_settle (h : Safe vac s t) : Safe vac s t.settle :=
  sf_ite _ (fun _ => sf_aside (sf_foldl _ (fun _ k m => sf_reevalEntry m k) _ h)) (fun _ => h)

/-! ### Commits and cancels -/

theorem sf_refuseOnly (h : Safe vac s t) (k : SlotIx) (r : Result) : Safe vac s (t.refuseOnly k r) :=
  sf_notifySlot h _ _ _ _

theorem sf_refuseCommit (h : Safe vac s t) (k : SlotIx) (f : Result × Nat) : Safe vac s (t.refuseCommit k f) := by
  have marked : Safe vac s ((t.setResult k f.1 f.2).markDirty (.slotStatus k)) := sf_aside (sf_setResult h k f.1 f.2)
  exact sf_notifySlot marked _ _ _ _

/-- A route without the failure REPEATED has no segment twice (R61, R62). -/
theorem nodup_of_firstRepeated (l : List (SegIx × Nat)) (seen : List SegIx) (h : firstRepeated seen l = none) :
    (l.map Prod.fst).Nodup ∧ ∀ g ∈ l.map Prod.fst, g ∉ seen := by
  induction l generalizing seen with
  | nil => simp
  | cons e l ih =>
    simp only [firstRepeated] at h
    split at h
    · cases h
    · rename_i new
      obtain ⟨distinct, apart⟩ := ih _ h
      simp only [List.map_cons, List.nodup_cons, List.mem_cons, forall_eq_or_imp]
      refine ⟨⟨fun again => apart e.1 again List.mem_cons_self, distinct⟩, new, fun g hg seen => ?_⟩
      exact apart g hg (List.mem_cons_of_mem _ seen)

theorem nodup_captured_of_fleet {k : SlotIx} {r : ScrubIx × AuthMode} (h : t.structuralFleet k = .ok r) :
    (t.slot k).draft.captured.Nodup := by
  unfold State.structuralFleet at h
  dsimp only at h
  split at h
  case h_2 => cases h
  split at h
  · cases h
  split at h
  · cases h
  rename_i passes
  unfold State.fleetChecks at passes
  dsimp only at passes
  split at passes
  · cases passes
  split at passes
  · cases passes
  split at passes
  · cases passes
  split at passes
  · cases passes
  split at passes
  · cases passes
  split at passes
  · cases passes
  split at passes
  · cases passes
  split at passes
  · cases passes
  rename_i distinct
  simpa using (nodup_of_firstRepeated _ _ distinct).1

theorem nodup_captured_of_passenger {k : SlotIx} (h : t.structuralPassenger k = none) :
    (t.slot k).draft.captured.Nodup := by
  unfold State.structuralPassenger at h
  dsimp only at h
  split at h
  · cases h
  split at h
  · cases h
  simpa using (nodup_of_firstRepeated _ _ (Option.map_eq_none_iff.mp h)).1

/-- An IDLE slot, which holds nothing, takes a captured record (R60). -/
theorem sf_capture (h : Safe vac s t) (k : SlotIx) (r : Slot) (idle : (t.slot k).state = .idle)
    (stays : r.state = .idle) (set : r.pendingSet = (t.slot k).pendingSet) (distinct : r.route.Nodup) :
    Safe vac s (t.setSlot k r) := by
  have nothing (law : t.floorLaw) (g : SegIx) : (t.seg g).holder ≠ some k := fun held => by
    obtain ⟨_, active⟩ := (law.1 k).none (by rw [idle]; rfl) g held
    rw [idle] at active
    cases active
  refine h.next (by rfl) (fun _ _ => id) (fun law => ?_) fun law pinch => ?_
  · refine floorLaw_rehold (t := t) k (fun j ne => slot_setSlot_other t k j r ne.symm) (fun _ _ _ => Iff.rfl)
      (fun _ _ _ _ => rfl) law.2 ?_ fun j _ => law.1 j
    rw [slot_setSlot_same]
    refine holdsFloor_empty (nothing law) (by rw [stays]; rfl) ?_ distinct
    rw [set]
    exact (law.1 k).set_nil (by rw [idle]; decide)
  · refine pinchLaw_of_sameGroup (s := t) (by rfl) (fun p => ⟨rfl, fun _ _ => rfl, fun _ _ _ _ => Iff.rfl,
      fun g _ j _ held => ?_⟩) pinch
    have other : k ≠ j := fun e => nothing law g (e ▸ held)
    rw [slot_setSlot_other t k j r other]

theorem sf_beginWaiting (h : Safe vac s t) (k : SlotIx) (f : Result × Nat) (limit : Nat)
    (idle : (t.slot k).state = .idle) : Safe vac s (t.beginWaiting k f limit) := by
  refine sf_notify (sf_aside (sf_setSlot h k { t.slot k with
    state := .waiting, deadline := some (t.after (10 * limit)), result := f.1, failIx := f.2 } fun held pend law => ?_))
    _ _
  refine holdsFloor_empty (fun g mine => ?_) rfl (law.set_nil (by rw [idle]; decide)) law.distinct
  obtain ⟨_, active⟩ := law.none (by rw [idle]; rfl) g mine
  rw [idle] at active
  cases active

theorem sf_commitFleet (h : Safe vac s t) (k : SlotIx) (wait : Bool) (fleet : k.val < 20)
    (idle : (t.slot k).state = .idle) : Safe vac s (t.commitFleet k wait) := by
  unfold State.commitFleet
  split
  case h_1 => exact sf_refuseCommit h k _
  case h_2 x m passes =>
  have captured : Safe vac s (t.captureFleet k x m) :=
    sf_capture h k _ idle idle rfl (nodup_captured_of_fleet passes)
  have slot : (t.captureFleet k x m).slot k
      = { t.slot k with scrubber := some x, mode := m, route := (t.slot k).draft.captured } := slot_setSlot_same t k _
  dsimp only
  split
  case h_1 available => exact sf_grant captured k (by rw [slot, idle]; rfl) fleet (by rw [slot]; rfl) available
  case h_2 =>
    refine sf_ite _ (fun _ => ?_) (fun _ => sf_refuseCommit h k _)
    exact sf_beginWaiting (sf_setLive captured _ _) k _ _ (by rw [State.setLive, slot_setScrub, slot, idle])

theorem sf_commitPassenger (h : Safe vac s t) (k : SlotIx) (passenger : ¬ k.val < 20)
    (idle : (t.slot k).state = .idle) : Safe vac s (t.commitPassenger k) := by
  unfold State.commitPassenger
  split
  case h_1 => exact sf_refuseCommit h k _
  case h_2 passes =>
  have captured : Safe vac s (t.capturePassenger k) :=
    sf_capture h k _ idle idle rfl (nodup_captured_of_passenger passes)
  have slot : (t.capturePassenger k).slot k = { t.slot k with route := (t.slot k).draft.captured } :=
    slot_setSlot_same t k _
  dsimp only
  split
  case h_1 available => exact sf_activate captured k (by rw [slot, idle]; rfl) passenger available
  case h_2 f _ =>
    have waiting := sf_beginWaiting captured k f t.passengerWaitLimit (by rw [slot, idle])
    exact sf_preempt (sf_foldl _ (fun _ g m => sf_addClaim m k g) _ waiting) _

theorem sf_commitWrite (h : Safe vac s t) (k : SlotIx) (v : Word) : Safe vac s (t.commitWrite k v) := by
  refine sf_settle ?_
  have begun : Safe vac s t.clearFreeing := sf_aside h
  refine sf_ite _ (fun _ => sf_refuseCommit begun k _) fun _ => sf_ite _ (fun _ => sf_refuseOnly begun k _) fun live =>
    sf_ite _ (fun _ => sf_refuseCommit begun k _) fun _ => ?_
  have idle : (t.clearFreeing.slot k).state = .idle := by simpa [SlotState.live] using live
  exact sf_ite _ (fun fleet => sf_commitFleet begun k _ (by simpa [isFleet] using fleet) idle)
    (fun passenger => sf_commitPassenger begun k (by simpa [isFleet] using passenger) idle)

theorem sf_releasePassenger (h : Safe vac s t) (k : SlotIx) : Safe vac s (t.releasePassenger k) :=
  sf_notifySlot (sf_toIdle (em_releaseAll (h.loose k)) _ _) _ _ _ _

theorem sf_cancelSent (h : Safe vac s t) (k : SlotIx) : Safe vac s (t.cancelSent k) :=
  sf_ite _ (fun _ => sf_shortenToProgress h k)
    (fun _ => sf_ite _ (fun _ => sf_releaseAndEnd h k _) (fun _ => sf_refuseOnly h k _))

theorem slot_dropClaims (t : State) (k j : SlotIx) : (t.dropClaims k).slot j = t.slot j := by
  have slots : (t.dropClaims k).slots = t.slots := foldl_keeps State.slots _ (fun u g => by
    unfold State.removeClaim
    split <;> rfl) _ t
  unfold State.slot
  rw [slots]

theorem sf_cancelLive (h : Safe vac s t) (k : SlotIx) : Safe vac s (t.cancelLive k) := by
  unfold State.cancelLive
  split
  case h_1 => exact sf_refuseOnly h k _
  case h_2 waiting =>
    have idle : ((t.leaveQueue k).slot k).state.authority = false := by rw [slot_leaveQueue, waiting]; rfl
    have left := sf_leaveQueue h k
    refine sf_endSlot (sf_ite _ (fun _ => em_of_idle left k idle) fun _ => ?_) _
    exact em_of_idle (sf_dropClaims left k) k (by rw [slot_dropClaims]; exact idle)
  case h_3 => exact sf_releaseAndEnd h k _
  case h_4 => exact sf_ite _ (fun _ => sf_cancelSent h k) (fun _ => sf_releasePassenger h k)
  case h_5 => exact sf_cancelSent h k
  case h_6 => exact sf_cancelSent h k

theorem sf_cancelWrite (h : Safe vac s t) (k : SlotIx) (v : Word) : Safe vac s (t.cancelWrite k v) := by
  have begun : Safe vac s t.clearFreeing := sf_aside h
  exact sf_settle (sf_ite _ (fun _ => sf_refuseOnly begun k _) (fun _ => sf_cancelLive begun k))

/-! ### Handovers and the slot timers -/

/-- A record with another state of an authority, neither of them SHORTENING. -/
theorem sf_rename (h : Safe vac s t) (k : SlotIx) (r : Slot) (fleet : k.val < 20)
    (old : (t.slot k).state.authority = true) (new : r.state.authority = true)
    (unpending : (t.slot k).state ≠ .shortening) (route : r.route = (t.slot k).route := by rfl)
    (endIx : r.endIx = (t.slot k).endIx := by rfl) (progress : r.progress = (t.slot k).progress := by rfl)
    (set : r.pendingSet = (t.slot k).pendingSet := by rfl) (evidence : r.evidence = (t.slot k).evidence := by rfl)
    (named : r.scrubber = (t.slot k).scrubber := by rfl) : Safe vac s (t.setSlot k r) :=
  sf_setSlot h k r (fun _ _ law => law.rename fleet old new unpending route endIx
    progress set evidence) named

theorem sf_draftWrite (h : Safe vac s t) (k : SlotIx) (w : Fin 11) (v : Word) : Safe vac s (t.draftWrite k w v) :=
  sf_keepSlot h k _

theorem sf_gatewayHandover (h : Safe vac s t) (k : SlotIx) (fleet : k.val < 20) :
    Safe vac s (t.gatewayHandover k) := by
  refine sf_ite _ (fun granted => ?_) (fun _ => sf_keepSlot h k _)
  have delivered : Safe vac s (t.setSlot k ((t.slot k).delivered (t.after t.confirmTimeout))) :=
    sf_rename h k _ fleet (by rw [granted]; rfl) rfl (by rw [granted]; decide)
  exact sf_aside delivered

theorem sf_confirmExpiry (h : Safe vac s t) (k : SlotIx) : Safe vac s (t.confirmExpiry k) := by
  refine sf_ite _ (fun _ => ?_) (fun _ => h)
  have stopped := sf_keepSlot h k { t.slot k with confirmTimer := none }
  exact sf_notifySlot (sf_aside stopped) _ _ _ _

theorem sf_setOverdue (h : Safe vac s t) (k : SlotIx) : Safe vac s (t.setOverdue k) := sf_keepSlot h k _

theorem sf_shortenExpiry (h : Safe vac s t) (k : SlotIx) : Safe vac s (t.shortenExpiry k) := by
  unfold State.shortenExpiry
  refine sf_ite _ (fun _ => ?_) (fun _ => h)
  have stopped := sf_keepSlot h k { t.slot k with shortenTimer := none }
  refine sf_notifySlot (sf_ite _ (fun _ => stopped) (fun _ => ?_)) _ _ _ _
  exact sf_aside (sf_raising _ (sf_setOverdue stopped k))

theorem sf_waitExpiry (h : Safe vac s t) (k : SlotIx) : Safe vac s (t.waitExpiry k) := by
  refine sf_ite _ (fun due => sf_settle ?_) (fun _ => h)
  have begun : Safe vac s t.clearFreeing := sf_aside h
  have left := sf_leaveQueue begun k
  have idle : ((t.clearFreeing.leaveQueue k).slot k).state.authority = false := by
    rw [slot_leaveQueue, slot_clearFreeing, due.1]; rfl
  refine sf_ite _ (fun _ => sf_endSlot (em_of_idle left k idle) _) (fun _ => ?_)
  have ended := sf_endSlot (em_of_idle (sf_dropClaims left k) k (by rw [slot_dropClaims]; exact idle)) .waitExpired
  exact sf_aside ended

end Runs

end Sys2Proof.Machine
end

section
/-! SUPPORT. Reports, zones, drying, closures and scrubber commands keep the laws of held floor and of the pinch table. -/
namespace Sys2Proof.Machine
open Sys2Proof
set_option Elab.async false

section Runs
variable {vac : Prop} {s t : State}

/-! ### Reports (R92 to R104) -/

theorem fleet_of_sentSlot {x : ScrubIx} {k : SlotIx} (h : t.sentSlot x = some k) : k.val < 20 := by
  unfold State.sentSlot at h
  split at h
  · cases h
  · rename_i j _
    split at h
    · cases h; exact j.isLt
    · cases h

theorem authority_of_sent {x : SlotState} (h : x.sent = true) : x.authority = true := by
  cases x <;> first | rfl | cases h

theorem sf_hear (h : Safe vac s t) (x : ScrubIx) (p : Position) : Safe vac s (t.hear x p) :=
  sf_ite _ (fun _ => sf_notify (sf_aside h) _ _) (fun _ => h)

theorem sf_setScrub (h : Safe vac s t) (x : ScrubIx) (r : Scrubber) : Safe vac s (t.setScrub x r) := sf_aside h

theorem sf_markDirty (h : Safe vac s t) (r : MirrorRec) : Safe vac s (t.markDirty r) := sf_aside h

theorem sf_moveTo (h : Safe vac s t) (moves : ¬ vac) (x : ScrubIx) (p : Position) : Safe vac s (t.moveTo x p) :=
  sf_setScrub (sf_foldl _ (fun _ g m => sf_clearOccupant m x g) _
    (sf_foldl _ (fun _ g m => sf_setOccupant m moves x g) _ h)) x _

theorem slots_setOccupant (t : State) (x : ScrubIx) (g : SegIx) : (t.setOccupant x g).slots = t.slots := by
  unfold State.setOccupant
  split
  · rfl
  · rw [slots_refreshPinchOf]; rfl

theorem slots_clearOccupant (t : State) (x : ScrubIx) (g : SegIx) : (t.clearOccupant x g).slots = t.slots := by
  unfold State.clearOccupant
  split
  · rw [slots_refreshPinchOf]; rfl
  · rfl

theorem slots_moveTo (t : State) (x : ScrubIx) (p : Position) : (t.moveTo x p).slots = t.slots :=
  (foldl_keeps State.slots _ (fun u g => slots_clearOccupant u x g) _ _).trans
    (foldl_keeps State.slots _ (fun u g => slots_setOccupant u x g) _ t)

theorem slots_notify (t : State) (kind : NoticeKind) (p : List Word) : (t.notify kind p).slots = t.slots := by
  unfold State.notify State.stage
  split
  · rfl
  · split <;> rfl

theorem slots_hear (t : State) (x : ScrubIx) (p : Position) : (t.hear x p).slots = t.slots := by
  unfold State.hear
  dsimp only
  split
  · rw [slots_notify]; rfl
  · rfl

theorem spanLaw_of_slots {u : State} (slots : u.slots = t.slots) (law : t.spanLaw) : u.spanLaw := by
  have slot (k : SlotIx) : u.slot k = t.slot k := by unfold State.slot; rw [slots]
  intro k
  rw [slot]
  exact law k

theorem sf_progressTo (h : Safe vac s t) (span : t.spanLaw) (x : ScrubIx) (p : Position) :
    Safe vac s (t.progressTo x p) := by
  unfold State.progressTo
  split
  · exact h
  · rename_i k sent
    split
    · exact h
    · refine sf_setSlot h k _ fun held pend law => law.advanced (fun authority => ?_) _
      exact ((span k (fleet_of_sentSlot sent)).2 authority).1

theorem sf_setMark (h : Safe vac s t) (x : ScrubIx) : Safe vac s (t.setMark x) := sf_raising _ (sf_setScrub h x _)

theorem sf_violation (h : Safe vac s t) (x : ScrubIx) (p : Position) (v : List SegIx) :
    Safe vac s (t.violation x p v) := by
  unfold State.violation
  cases v with
  | nil => exact h
  | cons first rest =>
    have marked := sf_ite ((t.scrub x).mark = true) (fun _ => h) (fun _ => sf_setMark h x)
    have cut : Safe vac s
        (match (t.scrub x).liveSlot.map fleetSlot with
          | none => if (t.scrub x).mark then t else t.setMark x
          | some k => (if (t.scrub x).mark then t else t.setMark x).shortenToProgress k) := by
      split
      · exact marked
      · exact sf_shortenToProgress marked _
    have ahead := sf_foldl (s := s) (fun (u : State) (g : SegIx) => u.shortenHolder g ((t.scrub x).liveSlot.map fleetSlot))
      (fun _ g m => sf_shortenHolder m g _) (first :: rest) cut
    refine sf_ite _ (fun _ => ahead) (fun _ => ?_)
    exact sf_notify (sf_aside ahead) _ _

theorem sf_releaseBehind (h : Safe vac s t) (x : ScrubIx) (p : Position) : Safe vac s (t.releaseBehind x p) := by
  unfold State.releaseBehind
  split
  · exact h
  · refine sf_releasePast h _ _ fun e picked => ?_
    simp only [Bool.and_eq_true, decide_eq_true_eq] at picked
    exact picked.1

theorem sf_witness (h : Safe vac s t) (x : ScrubIx) (p : Position) (b : Bool) : Safe vac s (t.witness x p b) := by
  unfold State.witness
  split
  · exact h
  · exact sf_setSlot h _ _ fun held pend law => law.evidenced p b

theorem sf_confirm (h : Safe vac s t) (k : SlotIx) (fleet : k.val < 20) (delivered : (t.slot k).state = .delivered) :
    Safe vac s (t.confirm k) :=
  sf_confirmedNotice (sf_rename h k _ fleet (by rw [delivered]; rfl) rfl (by rw [delivered]; decide)) k

theorem sf_confirmShortening (h : Safe vac s t) (k : SlotIx) (fleet : k.val < 20)
    (authority : (t.slot k).state.authority = true) : Safe vac s (t.confirmShortening k) := by
  unfold State.confirmShortening
  refine sf_confirmedNotice (sf_releaseThen h k _ _ (fun held kept pend rest law => ?_)
    (by rw [slot_releaseWhere])) k
  rw [slot_releaseWhere]
  refine law.confirmed fleet authority rfl rfl (rest := fun g => ?_)
  simpa using rest g

theorem sf_confirmBeyond (h : Safe vac s t) (k : SlotIx) (p : Position) : Safe vac s (t.confirmBeyond k p) :=
  sf_endSlot (em_confirmedNotice (em_setSlot (em_releaseAll (ld_releaseWhere (h.loose k) _)) _)) _

theorem sf_slotField (h : Safe vac s t) (x : ScrubIx) (p : Position) (r : Report) (beyond : Bool) :
    Safe vac s (t.slotField x p r beyond) := by
  unfold State.slotField
  split
  case h_1 => exact h
  case h_2 k sent =>
  have fleet := fleet_of_sentSlot sent
  refine sf_ite _ (fun _ => sf_giveUp h k _) (fun _ => sf_ite _ (fun _ => h) (fun _ => ?_))
  split
  case h_1 delivered => exact sf_confirm h k fleet delivered
  case h_2 =>
    refine sf_ite _ (fun _ => sf_confirmBeyond h k p) (fun _ => sf_confirmShortening h k fleet ?_)
    exact authority_of_sent (sentSlot_some t x k sent)
  all_goals exact h

theorem sf_complete (h : Safe vac s t) (x : ScrubIx) (p : Position) (f : ReportFlags) :
    Safe vac s (t.complete x p f) := by
  unfold State.complete
  split
  · exact h
  · exact sf_ite _ (fun _ => sf_releaseAndEnd h _ _) (fun _ => h)

theorem sf_processReport (h : Safe vac s t) (moves : ¬ vac) (span : t.spanLaw) (x : ScrubIx) (p : Position)
    (r : Report) : Safe vac s (t.processReport x p r) := by
  have moved := sf_moveTo (sf_hear h x p) moves x p
  have advanced := sf_progressTo moved (spanLaw_of_slots ((slots_moveTo _ x p).trans (slots_hear t x p)) span) x p
  have judged := sf_witness (sf_releaseBehind (sf_violation advanced x p
    (p.segs.filter fun g => (t.hear x p).violated x ((t.scrub x).state == .unheard) g)) x p) x p r.flags.scrubbing
  have answered := sf_complete (sf_slotField judged x p r ((t.hear x p).moveTo x p |>.beyondEnd x p)) x p r.flags
  exact sf_markDirty (sf_setScrub answered x _) _

theorem sf_lostExpiry (h : Safe vac s t) (x : ScrubIx) : Safe vac s (t.lostExpiry x) :=
  sf_ite _ (fun _ => sf_notify (sf_aside h) _ _) (fun _ => h)

/-! ### Scrubber commands (R108 to R110) -/

theorem sf_withdrawSlot (h : Safe vac s t) (x : ScrubIx) : Safe vac s (t.withdrawSlot x) := by
  unfold State.withdrawSlot
  split
  case h_1 => exact h
  case h_2 j _ =>
    refine sf_ite _ (fun _ => sf_giveUp h _ _) (fun idle => sf_endSlot (em_of_idle (sf_leaveQueue h _) _ ?_) _)
    simpa using idle

theorem sf_park (h : Safe vac s t) (moves : ¬ vac) (x : ScrubIx) (g : Option SegIx) : Safe vac s (t.park x g) := by
  cases g with
  | none => exact h
  | some g => exact sf_shortenHolder (sf_setOccupant h moves x g) g none

theorem sf_withdraw (h : Safe vac s t) (moves : ¬ vac) (x : ScrubIx) (g : Option SegIx) :
    Safe vac s (t.withdraw x g) := by
  refine sf_settle ?_
  have begun : Safe vac s t.clearFreeing := sf_aside h
  have left := sf_foldl (s := s) _ (fun _ g m => sf_clearOccupant m x g)
    ((t.clearFreeing.withdrawSlot x).occupiedBy x) (sf_withdrawSlot begun x)
  exact sf_markDirty (sf_setScrub (sf_park left moves x g) x _) _

/-! ### Zones -/

theorem sf_zone (h : Safe vac s t) (z : ZoneIx) (r : Zone) : Safe vac s (t.setZone z r) := sf_aside h

theorem sf_event (f : State → State) (hf : ∀ t, Safe vac s t → Safe vac s (f t)) (h : Safe vac s t) :
    Safe vac s (t.event f) := sf_settle (hf _ (sf_aside h))

theorem sf_zoneNotice (h : Safe vac s t) (kind : NoticeKind) (z : ZoneIx) : Safe vac s (t.zoneNotice kind z) :=
  sf_ite _ (fun _ => sf_notify h _ _) (fun _ => h)

theorem sf_dropHolding (h : Safe vac s t) (z : ZoneIx) (k : SlotIx) : Safe vac s (t.dropHolding z k) :=
  sf_ite _ (fun _ => sf_ite _ (fun _ => sf_setChanged (sf_keepSlot h k _) k) (fun _ => sf_keepSlot h k _)) (fun _ => h)

theorem sf_reachQuiet (h : Safe vac s t) (z : ZoneIx) : Safe vac s (t.reachQuiet z) :=
  sf_noteFreeing (sf_zoneNotice (sf_foldl _ (fun _ k m => sf_dropHolding m z (fleetSlot k)) _ (sf_zone h z _)) _ z)

theorem sf_enterSettling (h : Safe vac s t) (z : ZoneIx) : Safe vac s (t.enterSettling z) :=
  sf_ite _ (fun _ => sf_reachQuiet (sf_zone h z _) z) (fun _ => sf_zone h z _)

theorem sf_reseed (h : Safe vac s t) (z : ZoneIx) : Safe vac s (t.reseed z) :=
  sf_zoneNotice (sf_enterSettling (sf_zone h z _) z) _ z

theorem sf_addHolding (h : Safe vac s t) (z : ZoneIx) (k : SlotIx) : Safe vac s (t.addHolding z k) :=
  sf_ite _ (fun _ => sf_setChanged (sf_keepSlot h k _) k) (fun _ => sf_keepSlot h k _)

theorem sf_presentSlot (h : Safe vac s t) (z : ZoneIx) (k : SlotIx) : Safe vac s (t.presentSlot z k) :=
  sf_ite _ (fun _ => sf_ite _ (fun _ => sf_addHolding h z k) (fun _ => sf_shortenBefore h k _)) (fun _ => h)

theorem sf_enterPresent (h : Safe vac s t) (z : ZoneIx) : Safe vac s (t.enterPresent z) :=
  sf_zoneNotice (sf_foldl _ (fun _ k m => sf_presentSlot m z (fleetSlot k)) _ (sf_zone h z _)) _ z

theorem sf_endEntry (h : Safe vac s t) (z : ZoneIx) : Safe vac s (t.endEntry z) := by
  unfold State.endEntry
  dsimp only
  split
  · exact sf_zone h z _
  · exact sf_reachQuiet (sf_zone h z _) z

theorem sf_judgeZone (h : Safe vac s t) (z : ZoneIx) (d : Int) : Safe vac s (t.judgeZone z d) := by
  unfold State.judgeZone
  dsimp only
  split
  case h_1 => exact sf_ite _ (fun _ => h) fun _ => sf_ite _ (fun _ => sf_enterPresent h z) (fun _ => sf_zone h z _)
  case h_2 => exact sf_ite _ (fun _ => h) fun _ => sf_ite _ (fun _ => sf_enterPresent h z) (fun _ => sf_zone h z _)
  case h_3 =>
    exact sf_ite _ (fun _ => sf_endEntry h z) fun _ =>
      sf_ite _ (fun _ => sf_enterPresent h z) (fun _ => sf_zone h z _)
  case h_4 => exact sf_ite _ (fun _ => h) fun _ => sf_ite _ (fun _ => sf_enterSettling h z) (fun _ => sf_zone h z _)
  case h_5 =>
    exact sf_ite _ (fun _ => sf_zone h z _) fun _ =>
      sf_ite _ (fun _ => sf_enterSettling (sf_zone h z _) z) (fun _ => sf_zone h z _)
  case h_6 => exact h
  case h_7 => exact h

theorem sf_takeSample (h : Safe vac s t) (z : ZoneIx) (fig : Nat) : Safe vac s (t.takeSample z fig) := by
  unfold State.takeSample
  dsimp only
  split
  case h_1 => exact sf_enterSettling (sf_zone h z _) z
  case h_2 => exact sf_enterSettling (sf_zone h z _) z
  all_goals exact sf_judgeZone (sf_zone h z _) z _

theorem sf_zoneSample (h : Safe vac s t) (z : ZoneIx) (fig : Nat) : Safe vac s (t.zoneSample z fig) :=
  sf_ite _ (fun _ => sf_event _ (fun _ m => sf_zone (sf_takeSample m z fig) z _) h) (fun _ => h)

theorem sf_moisture (h : Safe vac s t) (z : ZoneIx) (fig : Nat) : Safe vac s (t.moisture z fig) :=
  sf_ite _ (fun _ => sf_zone h z _) (fun _ => h)

theorem sf_quietExpiry (h : Safe vac s t) (z : ZoneIx) : Safe vac s (t.quietExpiry z) := by
  refine sf_ite _ (fun _ => sf_event _ (fun u m => ?_) h) (fun _ => h)
  unfold State.quietEnds
  dsimp only
  split
  · exact sf_reachQuiet (sf_zone m z _) z
  all_goals exact sf_zone m z _

theorem sf_staleExpiry (h : Safe vac s t) (z : ZoneIx) : Safe vac s (t.staleExpiry z) :=
  sf_ite _ (fun _ => sf_zoneNotice (sf_aside h) _ z) (fun _ => h)

theorem sf_stuckExpiry (h : Safe vac s t) (z : ZoneIx) : Safe vac s (t.stuckExpiry z) :=
  sf_ite _ (fun _ => sf_event _ (fun _ m => sf_reseed m z) h) (fun _ => h)

theorem sf_haltExpiry (h : Safe vac s t) (z : ZoneIx) : Safe vac s (t.haltExpiry z) :=
  sf_ite _ (fun _ => sf_event _ (fun _ m => sf_reseed m z) h) (fun _ => h)

/-! ### Drying and closures -/

theorem sf_drying (h : Safe vac s t) (l : List DryEntry) : Safe vac s (t.setDrying l) := sf_aside h

theorem sf_dropEntry (h : Safe vac s t) (g : SegIx) : Safe vac s (t.dropEntry g) := sf_drying h _

theorem sf_dry (h : Safe vac s t) (e : DryEntry) : Safe vac s (t.dry e) :=
  sf_noteFreeing (sf_notify (sf_setSeg (sf_dropEntry h e.seg) e.seg _) _ _)

theorem sf_extend (h : Safe vac s t) (e : DryEntry) (z : ZoneIx) : Safe vac s (t.extend e z) :=
  sf_notify (sf_setSeg (sf_drying (sf_dropEntry h e.seg) _) e.seg _) _ _

theorem sf_setDsp (h : Safe vac s t) (f : DspFlag) : Safe vac s (t.setDsp f) := sf_aside h

theorem sf_dryOverdue (h : Safe vac s t) (e : DryEntry) (z : ZoneIx) : Safe vac s (t.dryOverdue e z) :=
  sf_notify (sf_setDsp (sf_setSeg (sf_dropEntry h e.seg) e.seg _) _) _ _

theorem sf_expireEntry (h : Safe vac s t) (e : DryEntry) : Safe vac s (t.expireEntry e) := by
  refine sf_ite _ (fun _ => sf_dry h e) (fun _ => ?_)
  split
  · exact sf_dry h e
  · exact sf_ite _ (fun _ => sf_dry h e) fun _ =>
      sf_ite _ (fun _ => sf_extend h e _) (fun _ => sf_dryOverdue h e _)

theorem sf_dryingExpiry (h : Safe vac s t) (g : SegIx) : Safe vac s (t.dryingExpiry g) := by
  unfold State.dryingExpiry
  split
  · exact h
  · exact sf_event _ (fun _ m => sf_expireEntry m _) h

theorem sf_closeFloor (h : Safe vac s t) (i : Issuer) (g : SegIx) : Safe vac s (t.closeFloor i g) := by
  refine sf_ite _ (fun _ => h) (fun _ => ?_)
  have ahead := sf_shortenHolder (sf_setClosure h g ((t.seg g).closure.withIssuer i)) g none
  dsimp only
  split
  · exact ahead
  · split
    · exact ahead
    · exact sf_shortenToProgress ahead _

theorem sf_closeSegment (h : Safe vac s t) (i : Issuer) (g : SegIx) : Safe vac s (t.closeSegment i g) :=
  sf_ite _ (fun _ => h) (fun _ => sf_event _ (fun _ m => sf_notify (sf_closeFloor m i g) _ _) h)

theorem sf_reopenFloor (h : Safe vac s t) (i : Issuer) (g : SegIx) : Safe vac s (t.reopenFloor i g) :=
  sf_ite _ (fun _ => sf_setClosure h g _) (fun _ => h)

theorem sf_reopenSegment (h : Safe vac s t) (i : Issuer) (g : SegIx) : Safe vac s (t.reopenSegment i g) :=
  sf_ite _ (fun _ => sf_event _ (fun _ m => sf_notify (sf_reopenFloor m i g) _ _) h) (fun _ => h)

theorem sf_closeZone (h : Safe vac s t) (z : ZoneIx) : Safe vac s (t.closeZone z) :=
  sf_event _ (fun _ m => sf_notify (sf_foldl _ (fun _ g m => sf_closeFloor m _ g) _ m) _ _) h

theorem sf_reopenZone (h : Safe vac s t) (z : ZoneIx) : Safe vac s (t.reopenZone z) :=
  sf_event _ (fun _ m => sf_notify (sf_foldl _ (fun _ g m => sf_reopenFloor m _ g) _ m) _ _) h

end Runs

end Sys2Proof.Machine
end

section
/-! SUPPORT. The law of the memory port through the arbiter and the two writers (R33, R169 to R171). -/
namespace Sys2Proof.Machine
open Sys2Proof
set_option Elab.async false

/-- The law of the port but for the wait of a held notice, which the arbiter sees to last. -/
def State.portBusy (s : State) : Prop :=
  (∀ g, s.noticeGrant = some g → s.lastServed = .notice ∧ g.notice.payload.length + 2 ≤ 1023
      ∧ (g.publish = true → s.held = some g.notice ∧ g.start = s.writeIx))
    ∧ (∀ n, s.held = some n → (s.writeIx - s.readIx).toNat + (n.payload.length + 2) ≤ 1023)
    ∧ (s.mode = .loading → s.held = none ∧ s.noticeGrant = none)

theorem portBusy_of_portLaw {s : State} (law : s.portLaw) : s.portBusy := ⟨law.1, law.2.1, law.2.2.2⟩

/-- The writers, the indices and the last requester stay, and the mirror writer waits if it waited. -/
structure PortQuiet (s t : State) : Prop where
  grant : t.noticeGrant = s.noticeGrant
  served : t.lastServed = s.lastServed
  held : t.held = s.held
  writeIx : t.writeIx = s.writeIx
  readIx : t.readIx = s.readIx
  mode : t.mode = .loading → s.mode = .loading
  asks : mirrorAsks s → mirrorAsks t

theorem PortQuiet.law {s t : State} (h : PortQuiet s t) (law : s.portLaw) : t.portLaw := by
  obtain ⟨grants, fits, waits, loading⟩ := law
  unfold State.portLaw noticeComesNext
  rw [h.grant, h.served, h.held, h.writeIx, h.readIx]
  refine ⟨grants, fits, fun held free next => waits held free ?_, fun m => loading (h.mode m)⟩
  exact next.imp (fun quiet asks => quiet (h.asks asks)) id

theorem PortQuiet.busy {s t : State} (h : PortQuiet s t) (law : s.portBusy) : t.portBusy := by
  obtain ⟨grants, fits, loading⟩ := law
  unfold State.portBusy
  rw [h.grant, h.served, h.held, h.writeIx, h.readIx]
  exact ⟨grants, fits, fun m => loading (h.mode m)⟩

/-- A state in which more records are dirty. -/
theorem PortQuiet.of_dirty {s t : State} (dirty : s.dirty ≠ [] → t.dirty ≠ []) (promo : t.promo = s.promo := by rfl)
    (grant : t.noticeGrant = s.noticeGrant := by rfl) (served : t.lastServed = s.lastServed := by rfl)
    (held : t.held = s.held := by rfl) (writeIx : t.writeIx = s.writeIx := by rfl)
    (readIx : t.readIx = s.readIx := by rfl) (mode : t.mode = .loading → s.mode = .loading := by exact id) :
    PortQuiet s t where
  grant := grant
  served := served
  held := held
  writeIx := writeIx
  readIx := readIx
  mode := mode
  asks := fun ⟨works, waits⟩ =>
    ⟨fun m => works (mode m), waits.imp dirty fun p => by rw [promo]; exact p⟩

theorem ne_nil_of_shows {s t : State} (shows : s.shows t) (h : s.dirty ≠ []) : t.dirty ≠ [] := by
  intro none
  obtain ⟨r, hr⟩ := List.exists_mem_of_ne_nil _ h
  exact (shows r (by rw [none]; exact List.not_mem_nil)).1 hr

theorem Moves.portQuiet {R : Slot → Slot → Prop} {s t : State} (m : Moves R s t) : PortQuiet s t :=
  .of_dirty (ne_nil_of_shows m.shows) (congrArg Outside.promo m.outside) (congrArg Outside.noticeGrant m.outside)
    (congrArg Outside.lastServed m.outside) (congrArg Outside.held m.outside) (congrArg Outside.writeIx m.outside)
    (congrArg Outside.readIx m.outside) fun h => (congrArg Outside.mode m.outside).symm.trans h

/-! ### The arbiter -/

theorem isSome_nextRecord (s : State) : s.nextRecord.isSome = true ↔ s.dirty ≠ [] ∨ s.promo ≠ [] := by
  unfold State.nextRecord
  cases promo : s.promo with
  | cons r l => simp
  | nil =>
    cases dirty : s.dirty with
    | nil => simp
    | cons r l => cases (r :: l).find? _ <;> simp

theorem mirrorWaits_iff (s : State) : s.mirrorWaits = true ↔ mirrorAsks s := by
  simp only [State.mirrorWaits, Bool.and_eq_true, bne_iff_ne, isSome_nextRecord, mirrorAsks]

/-- With a held notice at a free port the arbiter's choice of the notice writer is its turn (R33). -/
theorem grantNext_held (s : State) (held : s.held ≠ none) (free : s.noticeGrant = none) :
    s.grantNext s.portWaiters = some .notice ↔ noticeComesNext s := by
  have waits : s.noticeWaits = true := by
    simp [State.noticeWaits, free, Option.isSome_iff_ne_none, held]
  unfold noticeComesNext
  rw [← mirrorWaits_iff]
  unfold State.grantNext State.portWaiters
  cases s.lastServed <;> cases s.mirrorWaits <;> simp [waits, portCycle]

/-- The arbiter gives a held notice whose turn has come its grant (R33). -/
theorem portLaw_arbitrate (s : State) (law : s.portBusy) : s.arbitrate.portLaw := by
  obtain ⟨grants, fits, loading⟩ := law
  unfold State.arbitrate
  split
  case isTrue turn =>
    rw [Bool.and_eq_true, decide_eq_true_eq, Option.isNone_iff_eq_none] at turn
    unfold State.beginGrant
    split
    case h_1 empty =>
      exact ⟨grants, fits, fun held => absurd empty held, loading⟩
    case h_2 n held =>
      refine ⟨fun g granted => ?_, fits, fun _ free => (by cases free), fun m => ?_⟩
      · cases granted
        have fit := fits n held
        exact ⟨rfl, by dsimp only; omega, fun _ => ⟨held, rfl⟩⟩
      · have empty := (loading m).1
        rw [held] at empty
        cases empty
  case isFalse turn =>
    refine ⟨grants, fits, fun held free next => turn ?_, loading⟩
    rw [Bool.and_eq_true, decide_eq_true_eq, Option.isNone_iff_eq_none]
    exact ⟨free, (grantNext_held s held free).mpr next⟩

/-- A record or an access is served at a free port. -/
theorem portBusy_free {s t : State} (free : t.noticeGrant = none) (held : t.held = s.held := by rfl)
    (writeIx : t.writeIx = s.writeIx := by rfl) (readIx : t.readIx = s.readIx := by rfl)
    (mode : t.mode = s.mode := by rfl) (law : s.portBusy) : t.portBusy := by
  obtain ⟨_, fits, loading⟩ := law
  unfold State.portBusy
  rw [held, writeIx, readIx, mode, free]
  exact ⟨fun g granted => (by cases granted), fits, fun m => ⟨(loading m).1, rfl⟩⟩

theorem publish_cases (s : State) : (s.held = none ∧ s.publish = s) ∨ ∃ n, s.held = some n ∧ s.publish.held = none
    ∧ s.publish.mode = s.mode := by
  unfold State.publish State.judgeThreshold
  cases held : s.held with
  | none => exact .inl ⟨rfl, rfl⟩
  | some n =>
    refine .inr ⟨n, rfl, ?_⟩
    dsimp only
    split <;> exact ⟨rfl, rfl⟩

theorem portBusy_publish (s : State) (free : s.noticeGrant = none) (law : s.portBusy) : s.publish.portBusy := by
  have granted : s.publish.noticeGrant = none := (publish_noticeGrant s).trans free
  obtain ⟨_, same⟩ | ⟨n, _, held, mode⟩ := publish_cases s
  · rw [same]; exact law
  · refine ⟨fun g e => ?_, fun m e => ?_, fun _ => ⟨held, granted⟩⟩
    · rw [granted] at e; cases e
    · rw [held] at e; cases e

theorem portBusy_endGrant (s : State) (law : s.portBusy) : s.endGrant.portBusy := by
  obtain ⟨_, e⟩ | ⟨g, _, e⟩ := endGrant_cases s
  · rw [e]; exact law
  · have written : (({ s with noticeGrant := none } : State).writeWords g.words).portBusy := by
      rw [writeWords_eq]
      exact portBusy_free (s := s) (by rfl) (by rfl) (by rfl) (by rfl) (by rfl) law
    rw [e]
    split
    · exact portBusy_publish _ (by rw [writeWords_noticeGrant]) written
    · exact written

theorem portBusy_beginGrant (s : State) (law : s.portBusy) : s.beginGrant.portBusy := by
  obtain ⟨_, fits, loading⟩ := id law
  unfold State.beginGrant
  split
  case h_1 => exact law
  case h_2 n held =>
    refine ⟨fun g granted => ?_, fits, fun m => ?_⟩
    · cases granted
      have fit := fits n held
      exact ⟨rfl, by dsimp only; omega, fun _ => ⟨held, rfl⟩⟩
    · have empty := (loading m).1
      rw [held] at empty
      cases empty

theorem portBusy_mirrorGrant (s : State) (free : s.noticeGrant = none) (law : s.portBusy) : s.mirrorGrant.portBusy := by
  have granted : s.mirrorGrant.noticeGrant = none := (mirrorGrant_noticeGrant s).trans free
  obtain ⟨_, e⟩ | ⟨r, _, e⟩ := mirrorGrant_cases s
  · rw [e]; exact law
  · rw [e] at granted ⊢
    refine portBusy_free (s := s) granted ?_ ?_ ?_ ?_ law
    all_goals rw [writeWords_eq]; rfl

theorem portBusy_serveAhead (s : State) (free : s.noticeGrant = none) (law : s.portBusy) : s.serveAhead.portBusy := by
  unfold State.serveAhead
  split
  · exact portBusy_mirrorGrant s free law
  · exact portBusy_endGrant _ (portBusy_beginGrant s law)
  · exact law
  · exact law

theorem portBusy_awaitPort (s : State) (law : s.portBusy) : s.awaitPort.portBusy :=
  portBusy_serveAhead _ (serveAhead_noticeGrant _ (endGrant_noticeGrant s))
    (portBusy_serveAhead _ (endGrant_noticeGrant s) (portBusy_endGrant s law))

theorem awaitPort_noticeGrant (s : State) : s.awaitPort.noticeGrant = none :=
  serveAhead_noticeGrant _ (serveAhead_noticeGrant _ (endGrant_noticeGrant s))

/-- An access served in its turn at the port leaves it to the arbiter (R33). -/
theorem portLaw_served {s t : State} (law : s.portBusy) (free : s.noticeGrant = none)
    (grant : t.noticeGrant = s.noticeGrant := by rfl) (held : t.held = s.held := by rfl)
    (writeIx : t.writeIx = s.writeIx := by rfl) (readIx : t.readIx = s.readIx := by rfl)
    (mode : t.mode = s.mode := by rfl) : t.arbitrate.portLaw :=
  portLaw_arbitrate _ (portBusy_free (grant.trans free) held writeIx readIx mode law)

/-! ### The writers -/

theorem portLaw_mirrorWrite (s : State) (law : s.portLaw) : s.mirrorWrite.portLaw := by
  unfold State.mirrorWrite
  split
  · rename_i turn
    rw [Bool.and_eq_true, Option.isNone_iff_eq_none] at turn
    exact portLaw_arbitrate _ (portBusy_mirrorGrant s turn.1 (portBusy_of_portLaw law))
  · exact law

theorem portLaw_noticePublish (s : State) (law : s.portLaw) : s.noticePublish.portLaw := by
  unfold State.noticePublish
  split
  · exact portLaw_arbitrate _ (portBusy_endGrant s (portBusy_of_portLaw law))
  · exact law

theorem ne_nil_insertBy {α : Type} (key : α → Nat) (x : α) (l : List α) : insertBy key x l ≠ [] := by
  cases l with
  | nil => simp [insertBy]
  | cons y l =>
    unfold insertBy
    split
    · simp
    · split <;> simp

theorem quiet_markDirty (s : State) (r : MirrorRec) : PortQuiet s (s.markDirty r) :=
  .of_dirty fun _ => ne_nil_insertBy _ _ _

theorem quiet_setDsp (s : State) (f : DspFlag) : PortQuiet s (s.setDsp f) :=
  ((Moves.refl (R := Slot.KeepsRoute) s).setDsp f).portQuiet

/-- An admitted notice fits the free space of the ring (R169). -/
theorem portLaw_noticeAdmission (s : State) (law : s.portLaw) : s.noticeAdmission.portLaw := by
  unfold State.noticeAdmission
  split
  case isTrue => exact law
  case isFalse working =>
  simp only [not_or, Bool.not_eq_true, Option.isSome_eq_false_iff, Option.isNone_iff_eq_none] at working
  obtain ⟨works, empty⟩ := working
  split
  case h_1 => exact law
  case h_2 n rest _ =>
  split
  case isTrue fits =>
    refine portLaw_arbitrate _ ⟨fun g granted => ?_, fun m held => ?_, fun m => absurd m works⟩
    · obtain ⟨served, length, published⟩ := law.1 g granted
      refine ⟨served, length, fun p => ?_⟩
      rw [empty] at published
      obtain ⟨none, _⟩ := published p
      cases none
    · cases held
      simp only [Notice.length, State.free, State.fill] at fits
      dsimp only
      omega
  case isFalse =>
    have staged : PortQuiet s { s with staging := rest } := .of_dirty id
    exact (quiet_setDsp _ _).law (staged.law law)

theorem portLaw_resetNotices (s : State) (law : s.portLaw) : s.resetNotices.portLaw := by
  have back : ({ s with
      writeIx := 0, readIx := 0, held := none, staging := s.held.toList ++ s.staging,
      noticeGrant := s.noticeGrant.map (fun g => { g with publish := false }) } : State).portLaw := by
    refine ⟨fun g granted => ?_, fun n held => (by cases held), fun held => absurd rfl held, fun m => ⟨rfl, ?_⟩⟩
    · obtain ⟨f, grant, rfl⟩ := Option.map_eq_some_iff.mp granted
      obtain ⟨served, length, _⟩ := law.1 f grant
      exact ⟨served, length, fun p => (by cases p)⟩
    · have none := (law.2.2.2 m).2
      exact Option.map_eq_none_iff.mpr none
  refine (mv_notify (R := Slot.KeepsRoute) (.refl _) .noticesReset []).portQuiet.law ?_
  exact (quiet_markDirty _ _).law ((quiet_markDirty _ _).law back)

/-- A ring index on the way from r to w leaves no more to w than r did. -/
theorem distance_le (w r u : BitVec 10) (step : (u - r).toNat ≤ (w - r).toNat) : (w - u).toNat ≤ (w - r).toNat := by
  rw [BitVec.toNat_sub, BitVec.toNat_sub] at *
  have hu := u.isLt
  have hw := w.isLt
  have hr := r.isLt
  omega

/-- An acceptable read index leaves at most the fill that there was (R22, R170). -/
theorem portLaw_takeReadIx (s : State) (v : Word) (ok : s.readIxOk v = true) (law : s.portLaw) :
    (s.takeReadIx v).portLaw := by
  refine (quiet_markDirty { s with readIx := v.setWidth 10 } _).law ?_
  obtain ⟨grants, fits, waits, loading⟩ := law
  refine ⟨grants, fun n held => ?_, waits, loading⟩
  have before := fits n held
  have less := distance_le s.writeIx s.readIx (v.setWidth 10) (of_decide_eq_true (Bool.and_eq_true_iff.mp ok).2)
  dsimp only
  omega

end Sys2Proof.Machine
end

section
/-! SUPPORT. Every command keeps the laws of held floor, of the pinch table and of the memory port. -/
namespace Sys2Proof.Machine
open Sys2Proof
set_option Elab.async false

/-! ### What a command keeps -/

/-- In LOADING nothing is occupied. -/
def State.vacantLaw (s : State) : Prop := s.mode = .loading → ∀ g : SegIx, (s.seg g).occupant = none

/-- The laws of held floor and of the pinch table pass from one state to another. -/
structure Holding (s t : State) : Prop where
  floor : s.floorLaw → t.floorLaw
  pinch : s.floorLaw → s.pinchLaw → t.pinchLaw
  vacant : s.vacantLaw → t.vacantLaw

/-- The laws of the floor pass on under the premise `ok`, and the law of the port. -/
structure Sound (ok : Prop) (s t : State) : Prop where
  hold : ok → Holding s t
  port : s.portLaw → t.portLaw

/-- An update inside the part that leaves the port as it is. -/
structure Inner (ok : Prop) (s t : State) : Prop where
  hold : ok → Holding s t
  quiet : PortQuiet s t

section Commands
variable {ok : Prop}

theorem Holding.refl (s : State) : Holding s s := ⟨id, fun _ => id, id⟩

theorem Holding.trans {s t u : State} (a : Holding s t) (b : Holding t u) : Holding s u :=
  ⟨b.floor ∘ a.floor, fun f p => b.pinch (a.floor f) (a.pinch f p), b.vacant ∘ a.vacant⟩

theorem PortQuiet.refl (s : State) : PortQuiet s s := .of_dirty id

theorem PortQuiet.trans {s t u : State} (a : PortQuiet s t) (b : PortQuiet t u) : PortQuiet s u :=
  ⟨b.grant.trans a.grant, b.served.trans a.served, b.held.trans a.held, b.writeIx.trans a.writeIx,
    b.readIx.trans a.readIx, a.mode ∘ b.mode, b.asks ∘ a.asks⟩

theorem Sound.refl (s : State) : Sound ok s s := ⟨fun _ => .refl s, id⟩

theorem Sound.trans {s t u : State} (a : Sound ok s t) (b : Sound ok t u) : Sound ok s u :=
  ⟨fun h => (a.hold h).trans (b.hold h), b.port ∘ a.port⟩

theorem Inner.of {s t : State} (hold : Holding s t) (quiet : PortQuiet s t) : Inner ok s t := ⟨fun _ => hold, quiet⟩

theorem Inner.refl (s : State) : Inner ok s s := .of (.refl s) (.refl s)

theorem Inner.trans {s t u : State} (a : Inner ok s t) (b : Inner ok t u) : Inner ok s u :=
  ⟨fun h => (a.hold h).trans (b.hold h), a.quiet.trans b.quiet⟩

theorem Inner.ite {s t u : State} (c : Prop) [Decidable c] (ht : c → Inner ok s t) (hu : ¬ c → Inner ok s u) :
    Inner ok s (if c then t else u) := by
  split
  · exact ht ‹_›
  · exact hu ‹_›

theorem Sound.ite {s t u : State} (c : Prop) [Decidable c] (ht : c → Sound ok s t) (hu : ¬ c → Sound ok s u) :
    Sound ok s (if c then t else u) := by
  split
  · exact ht ‹_›
  · exact hu ‹_›

theorem Inner.sound {s t : State} (h : Inner ok s t) : Sound ok s t := ⟨h.hold, h.quiet.law⟩

/-- An update that no law of the floor reads. -/
theorem Holding.apart {s t : State} (segs : t.segs = s.segs := by rfl) (slots : t.slots = s.slots := by rfl)
    (pinch : t.pinch = s.pinch := by rfl) (site : t.site = s.site := by rfl)
    (mode : t.mode = .loading → s.mode = .loading := by exact id) : Holding s t := by
  have seg (g : SegIx) : t.seg g = s.seg g := by unfold State.seg; rw [segs]
  have slot (k : SlotIx) : t.slot k = s.slot k := by unfold State.slot; rw [slots]
  refine ⟨floorLaw_of_grip slot fun g => by rw [seg], fun _ => pinchLaw_of_grip pinch site (fun g => by rw [seg])
    fun k => by rw [slot], fun law m g => ?_⟩
  rw [seg]
  exact law (mode m) g

theorem Holding.of_portOnly {s t : State} (h : s.portOnly t) : Holding s t := by
  rw [h]
  exact .apart

/-- An event in which no segment comes to be occupied. -/
theorem Inner.of_run {R : Slot → Slot → Prop} {s t : State} (safe : Safe True s t) (moves : Moves R s t) : Inner ok s t :=
  .of ⟨safe.floor, safe.pinch, fun law m g => safe.vacant trivial g
    (law ((congrArg Outside.mode moves.outside).symm.trans m) g)⟩ moves.portQuiet

/-- An event outside LOADING. -/
theorem Inner.of_move {R : Slot → Slot → Prop} {s t : State} (works : s.mode ≠ .loading) (safe : ok → Safe False s t)
    (moves : Moves R s t) : Inner ok s t :=
  ⟨fun h => ⟨(safe h).floor, (safe h).pinch, fun _ m => absurd ((congrArg Outside.mode moves.outside).symm.trans m) works⟩,
    moves.portQuiet⟩

theorem inner_setDsp (s : State) (f : DspFlag) : Inner ok s (s.setDsp f) := .of .apart (quiet_setDsp s f)

theorem inner_setOps (s : State) (f : OpsFlag) : Inner ok s (s.setOps f) :=
  .of .apart ((Moves.refl (R := Slot.KeepsRoute) s).setOps f).portQuiet

theorem inner_notify (s : State) (kind : NoticeKind) (p : List Word) : Inner ok s (s.notify kind p) :=
  .of_run (R := Slot.KeepsRoute) (sf_notify (.refl s) kind p) (mv_notify (.refl s) kind p)

/-- A store of words that the part owns, whose record is marked. -/
theorem Inner.marked {s t : State} (r : MirrorRec) (hold : Holding s t) (quiet : PortQuiet s t) :
    Inner ok s (t.markDirty r) := (Inner.of hold quiet).trans (.of .apart (quiet_markDirty t r))

/-! ### Restarts and the entry to SERVICE -/

theorem sound_restarted {s t : State} (segs : t.segs = Vector.replicate 255 {}) (slots : t.slots = Vector.replicate 24 {})
    (pinch : t.pinch = Vector.replicate 16 {}) (held : t.held = none) (grant : t.noticeGrant = none) : Sound ok s t := by
  have seg (g : SegIx) : t.seg g = {} := by simp [State.seg, segs]
  have slot (k : SlotIx) : t.slot k = {} := by simp [State.slot, slots]
  have entry (p : PinchIx) : t.pinchEntry p = {} := by simp [State.pinchEntry, pinch]
  refine ⟨fun _ => ⟨fun _ => ⟨fun k => ?_, fun g _ => by rw [seg]⟩, fun _ _ p => ?_, fun _ _ g => by rw [seg]⟩, fun _ => ?_⟩
  · rw [slot]
    refine holdsFloor_empty (fun g mine => ?_) rfl rfl List.nodup_nil
    rw [seg] at mine
    cases mine
  · rw [entry]
    refine ⟨rfl, fun g _ => ?_⟩
    rw [seg]
    exact ⟨rfl, fun k mine => by cases mine⟩
  · refine ⟨fun g granted => ?_, fun n holds => ?_, fun holds => absurd held holds, fun _ => ⟨held, grant⟩⟩
    · rw [grant] at granted; cases granted
    · rw [held] at holds; cases holds

theorem sound_restart (s : State) (c : Cause) : Sound ok s (s.restart c) := sound_restarted rfl rfl rfl rfl rfl

theorem sound_restartWith (s : State) (c : Cause) (f : InFlight) : Sound ok s (s.restartWith c f) :=
  sound_restarted rfl rfl rfl rfl rfl

theorem inner_enterService (s : State) : Inner ok s s.enterService := by
  have served : Inner ok s { s with mode := .service } :=
    .of (.apart (mode := fun h => by cases h)) (.of_dirty id (mode := fun h => by cases h))
  refine served.trans (.of_run (R := Slot.KeepsRoute) (sf_notify (sf_foldl _ (fun _ g m => ?_) _ (.refl _)) _ _)
    (mv_notify (mv_restartWet (.refl _)) _ _))
  exact sf_ite _ (fun _ => sf_markWet m g) (fun _ => m)

theorem inner_judgeService (s : State) : Inner ok s s.judgeService :=
  .ite _ (fun _ => inner_enterService s) (fun _ => .refl s)

theorem inner_acknowledge (s : State) : Inner ok s s.acknowledge := by
  have remembered : Inner ok s { s with ackRestart := true } := .of .apart (.of_dirty id)
  exact remembered.trans (inner_judgeService _)

theorem inner_reportEvent (s : State) (works : s.mode ≠ .loading) (span : ok → s.spanLaw) (c : CellIx) (v : Word) :
    Inner ok s (s.reportEvent c v) := by
  have emptied : Safe False s (s.setCell c {}) := sf_aside (.refl s)
  have moved : Moves Slot.KeepsRoute s (s.setCell c {}) := (Moves.refl s).cell c {}
  unfold State.reportEvent
  dsimp only
  split
  case h_1 => exact .of_move works (fun _ => sf_notify (sf_setDsp emptied _) _ _) (mv_invalidReport moved c _)
  case h_2 x p _ =>
    refine .ite _ (fun _ => .of_move works (fun _ => sf_notify emptied _ _) (mv_notify moved _ _)) fun _ => ?_
    have begun : Safe False s (s.setCell c {}).clearFreeing := sf_aside emptied
    refine (Inner.of_move works (fun h => sf_settle (sf_processReport begun id (span h) x p _))
      (mv_event _ (fun _ m => mv_processReport m x p _) moved)).trans (inner_judgeService _)

/-! ### Control words -/

theorem inner_judgeThreshold (s : State) : Inner ok s s.judgeThreshold :=
  .ite _ (fun _ => inner_setDsp s _) (fun _ => .refl s)

theorem inner_tune (s : State) (i : Fin 8) (v : Word) : Inner ok s (s.tune i v) := by
  have stored : Inner ok s (({ s with tuning := s.tuning.set i.val (tuningStored i v) } : State).markDirty
      (.control (.tuning i))) := .marked _ .apart (.of_dirty id)
  exact .ite _ (fun _ => stored.trans (inner_judgeThreshold _)) (fun _ => stored)

theorem quiet_putDsp (s : State) (v : BitVec 16) : PortQuiet s (s.putDsp v) :=
  .of_dirty (ne_nil_of_shows (shows_putDsp s v))

theorem inner_clearDsp (s : State) (v : Word) : Inner ok s (s.clearDsp v) := by
  have cleared : Inner ok s (s.putDsp (s.dspFlags &&& ~~~(v.setWidth 16 &&& ~~~s.heldPlaces))) :=
    .of .apart (quiet_putDsp s _)
  exact .ite _ (fun _ => cleared.trans (.marked _ .apart (.of_dirty id))) (fun _ => cleared)

theorem inner_clearOps (s : State) (v : Word) : Inner ok s (s.clearOps v) :=
  .of .apart (.of_dirty (ne_nil_of_shows (shows_putOps s _)))

theorem inner_setResultRec (s : State) (i : Issuer) (r : CmdResult) : Inner ok s (s.setResultRec i r) := by
  cases i
  · exact .marked _ .apart (.of_dirty id)
  · exact .marked _ .apart (.of_dirty id)

theorem sound_resetNotices (s : State) : Sound ok s s.resetNotices := by
  refine ⟨fun _ => ?_, portLaw_resetNotices s⟩
  have written : Holding s (({ s with
      writeIx := 0, readIx := 0, held := none, staging := s.held.toList ++ s.staging,
      noticeGrant := s.noticeGrant.map (fun g => { g with publish := false }) } : State).markDirty
        (.control .writeIx) |>.markDirty (.control .readIx)) := .apart
  exact written.trans ((inner_notify (ok := True) _ .noticesReset []).hold trivial)

/-! ### Commands (R160, R161) -/

section Issue
variable {s t : State}

theorem sound_cmdAckRestart (h : s.cmdAckRestart = .ok t) : Sound ok s t := by
  unfold State.cmdAckRestart at h
  split at h
  · cases h; exact (inner_acknowledge s).sound
  · cases h

theorem sound_cmdWithdraw (works : s.mode ≠ .loading) (f : CmdFields) (h : s.cmdWithdraw f = .ok t) : Sound ok s t := by
  have leaves (x : ScrubIx) (g : Option SegIx) : Sound ok s (s.withdraw x g).judgeService :=
    ((Inner.of_move works (fun _ => sf_withdraw (.refl s) id x g) (mv_withdraw (.refl s) x g)).trans (inner_judgeService _)).sound
  unfold State.cmdWithdraw at h
  split at h
  · cases h
  split at h
  · cases h
  split at h
  · cases h
  split at h
  · cases h; exact leaves _ none
  split at h
  · cases h
  · cases h; exact leaves _ (some _)

/-- A store of a scrubber record whose view is marked. -/
theorem inner_scrub (s : State) (x : ScrubIx) (r : Scrubber) : Inner ok s ((s.setScrub x r).markDirty (.scrubView x)) :=
  .of_run (R := Slot.KeepsRoute) (sf_markDirty (sf_setScrub (.refl s) x r) _) (((Moves.refl s).scrub x r).markDirty _)

theorem sound_cmdReadmit (f : CmdFields) (h : s.cmdReadmit f = .ok t) : Sound ok s t := by
  unfold State.cmdReadmit at h
  split at h
  · cases h
  split at h
  · cases h
  split at h
  · cases h; exact (inner_scrub s _ _).sound
  · cases h

theorem sound_cmdClearViolation (f : CmdFields) (h : s.cmdClearViolation f = .ok t) : Sound ok s t := by
  unfold State.cmdClearViolation at h
  split at h
  · cases h
  split at h
  · cases h
  split at h
  · cases h; exact ((inner_scrub s _ _).trans (inner_judgeService _)).sound
  · cases h

theorem sound_cmdCloseSegment (i : Issuer) (f : CmdFields) (h : s.cmdCloseSegment i f = .ok t) : Sound ok s t := by
  unfold State.cmdCloseSegment at h
  split at h
  · cases h
  split at h
  · cases h
  · cases h; exact (Inner.of_run (sf_closeSegment (.refl s) i _) (mv_closeSegment (.refl s) i _)).sound

theorem sound_cmdReopenSegment (i : Issuer) (f : CmdFields) (h : s.cmdReopenSegment i f = .ok t) : Sound ok s t := by
  unfold State.cmdReopenSegment at h
  split at h
  · cases h
  split at h
  · cases h
  split at h
  · cases h; exact (Inner.of_run (sf_reopenSegment (.refl s) i _) (mv_reopenSegment (.refl s) i _)).sound
  · cases h

theorem sound_cmdCloseZone (f : CmdFields) (h : s.cmdCloseZone f = .ok t) : Sound ok s t := by
  unfold State.cmdCloseZone at h
  split at h
  · cases h
  split at h
  · cases h
  · cases h; exact (Inner.of_run (sf_closeZone (.refl s) _) (mv_closeZone (.refl s) _)).sound

theorem sound_cmdReopenZone (f : CmdFields) (h : s.cmdReopenZone f = .ok t) : Sound ok s t := by
  unfold State.cmdReopenZone at h
  split at h
  · cases h
  split at h
  · cases h
  · cases h; exact (Inner.of_run (sf_reopenZone (.refl s) _) (mv_reopenZone (.refl s) _)).sound

theorem sound_cmdReseedZone (f : CmdFields) (h : s.cmdReseedZone f = .ok t) : Sound ok s t := by
  unfold State.cmdReseedZone at h
  split at h
  · cases h
  split at h
  · cases h
  split at h
  · cases h
    exact (Inner.of_run (sf_event _ (fun _ m => sf_reseed m _) (.refl s)) (mv_reseedZone (.refl s) _)).sound
  · cases h

theorem sound_cmdResetNotices (h : s.cmdResetNotices = .ok t) : Sound ok s t := by
  unfold State.cmdResetNotices at h
  split at h
  · cases h
  · cases h; exact sound_resetNotices s

theorem sound_cmdReloadSite (h : s.cmdReloadSite = .ok t) : Sound ok s t := by
  unfold State.cmdReloadSite at h
  split at h
  · cases h; exact sound_restart s _
  split at h
  · split at h
    · cases h; exact sound_restart s _
    · cases h
  · cases h

theorem sound_cmdOf (works : s.mode ≠ .loading) (i : Issuer) (code : Nat) (f : CmdFields)
    (h : s.cmdOf i code f = .ok t) : Sound ok s t := by
  unfold State.cmdOf at h
  split at h
  · exact sound_cmdAckRestart h
  · exact sound_cmdWithdraw works f h
  · exact sound_cmdReadmit f h
  · exact sound_cmdClearViolation f h
  · exact sound_cmdCloseSegment i f h
  · exact sound_cmdReopenSegment i f h
  · exact sound_cmdCloseZone f h
  · exact sound_cmdReopenZone f h
  · exact sound_cmdReseedZone f h
  · exact sound_cmdResetNotices h
  · exact sound_cmdReloadSite h
  · cases h

end Issue

theorem inner_flagRefused (s : State) (i : Issuer) : Inner ok s (s.flagRefused i) := by
  cases i
  · exact inner_setDsp s _
  · exact inner_setOps s _

theorem sound_issue (s : State) (works : s.mode ≠ .loading) (i : Issuer) (code : Byte) (f : CmdFields) :
    Sound ok s (s.issue i code f) := by
  unfold State.issue
  split
  case h_1 t taken =>
    have done : Sound ok s t := by
      split at taken
      · exact sound_cmdOf works i _ f taken
      · cases taken
    exact .ite _ (fun _ => done) (fun _ => done.trans (inner_setResultRec t i _).sound)
  case h_2 =>
    exact (((inner_setResultRec s i _).trans (inner_flagRefused _ i)).trans (inner_notify _ _ _)).sound

/-! ### Accesses (R18 to R33) -/

theorem sound_takeReadIx (s : State) (v : Word) (fits : s.readIxOk v = true) : Sound ok s (s.takeReadIx v) :=
  ⟨fun _ => .apart, portLaw_takeReadIx s v fits⟩

theorem inner_setDspMask (s : State) (v : Word) : Inner ok s (s.setDspMask v) :=
  .marked (s := s) _ (.apart (s := s)) (.of_dirty (s := s) id)

theorem inner_setOpsMask (s : State) (v : Word) : Inner ok s (s.setOpsMask v) :=
  .marked (s := s) _ (.apart (s := s)) (.of_dirty (s := s) id)

theorem inner_setGwyMask (s : State) (v : Word) : Inner ok s (s.setGwyMask v) :=
  .marked (s := s) _ (.apart (s := s)) (.of_dirty (s := s) id)

theorem sound_controlWrite (s : State) (works : s.mode ≠ .loading) (c : CtlWord) (v : Word)
    (fits : c = .readIx → s.readIxOk v = true) : Sound ok s (s.controlWrite c v) := by
  cases c with
  | dspCommand => exact sound_issue s works .dispatch _ _
  | opsCommand => exact sound_issue s works .operations _ _
  | tuning i => exact (inner_tune s i v).sound
  | dspClear => exact (inner_clearDsp s v).sound
  | opsClear => exact (inner_clearOps s v).sound
  | dspMask => exact (inner_setDspMask s v).sound
  | opsMask => exact (inner_setOpsMask s v).sound
  | gwyMask => exact (inner_setGwyMask s v).sound
  | readIx => exact sound_takeReadIx s v (fits rfl)
  | mode | clock | changedSlots | dspResult | opsResult | dspStatus | opsStatus | writeIx | refused | unassigned =>
    exact .refl s

theorem sound_actedWrite (s : State) (works : s.mode ≠ .loading) (p : Place) (v : Word)
    (fits : p = .control .readIx → s.readIxOk v = true) : Sound ok s (s.actedWrite p v) := by
  cases p with
  | control c => exact sound_controlWrite s works c v fun e => fits (by rw [e])
  | slot k w =>
    exact .ite _ (fun _ => (Inner.of_run (sf_commitWrite (.refl s) k v) (mw_commitWrite (few := False) (.refl s) k v
        False.elim)).sound) fun _ =>
      .ite _ (fun _ => (Inner.of_run (sf_cancelWrite (.refl s) k v) (mv_cancelWrite (.refl s) k v)).sound)
        (fun _ => .refl s)
  | general | cell | figure | segView | scrubView | ring => exact .refl s

theorem inner_handoverRead (s : State) (t : Tag) (p : Place) : Inner ok s (s.handoverRead t p) := by
  cases p with
  | slot k w =>
    refine .ite _ (fun gate => ?_) (fun _ => .refl s)
    simp only [Bool.and_eq_true, isFleet, decide_eq_true_eq] at gate
    exact .of_run (sf_gatewayHandover (.refl s) k gate.1.2) (mv_gatewayHandover (.refl s) k)
  | general | control | cell | figure | segView | scrubView | ring => exact .refl s

theorem inner_answered (s : State) (b : BusAnswer) : Inner ok s (s.answered b) := .of .apart (.of_dirty id)

theorem inner_fillCapture (s : State) (a : Access) : Inner ok s (s.fillCapture a) := by
  unfold State.fillCapture
  split
  · exact .refl s
  · exact .marked _ .apart (.of_dirty id)

theorem inner_deny (s : State) (a : Access) : Inner ok s (s.deny a) := by
  have flagged : Inner ok s (match a.tag with
      | .operations => s.setOps .accessRefused
      | .dispatch | .gateway | .three => s.setDsp .accessRefused) := by
    cases a.tag with
    | operations => exact inner_setOps s _
    | dispatch | gateway | three => exact inner_setDsp s _
  exact (flagged.trans (inner_fillCapture _ a)).trans (inner_answered _ _)

theorem inner_promote (s : State) (r : MirrorRec) : Inner ok s (s.promote r) := by
  refine .ite _ (fun _ => .refl s) (fun _ => .of .apart ⟨rfl, rfl, rfl, rfl, rfl, id, fun ⟨works, _⟩ => ?_⟩)
  exact ⟨works, .inr (by simp)⟩

theorem inner_flagParity (s : State) (bad : Bool) : Inner ok s (s.flagParity bad) :=
  .ite _ (fun _ => inner_setDsp s _) (fun _ => .refl s)

theorem inner_watchedCopy (s : State) (works : s.mode ≠ .loading) (span : ok → s.spanLaw) (p : Place) (v : Word) :
    Inner ok s (s.watchedCopy p v) := by
  cases p with
  | cell c w =>
    unfold State.watchedCopy
    dsimp only
    split
    · exact .of_run (R := Slot.KeepsRoute) (sf_aside (.refl s)) ((Moves.refl s).cell c _)
    · exact inner_reportEvent s works span c v
  | figure z m =>
    exact .ite _ (fun _ => .of_run (R := Slot.KeepsRoute) (sf_moisture (.refl s) z _) (mv_moisture (.refl s) z _))
      (fun _ => .of_run (sf_zoneSample (.refl s) z _) (mv_zoneSample (.refl s) z _))
  | slot k w =>
    unfold State.watchedCopy
    dsimp only
    split
    · exact .of_run (R := fun _ _ => True) (sf_draftWrite (.refl s) k _ v) ((Moves.refl s).slot k _ trivial)
    · exact .refl s
  | general | control | segView | scrubView | ring => exact .refl s

theorem writeFate_act {a : Access} {v : Word} (h : writeFate a = .act v) : v = firstData a.transfer := by
  unfold writeFate at h
  dsimp only at h
  split at h
  · cases h
  split at h
  · cases h
  split at h
  · cases h
  · cases h; rfl
  all_goals cases h

theorem readFate_acts_nothing (s : State) (a : Access) (v : Word) : s.readFate a ≠ .act v := by
  unfold State.readFate
  dsimp only
  split
  · simp
  split
  · simp
  split <;> simp

/-- An acted write is one that the word's state allows (R22). -/
theorem allowed_of_act {s : State} {a : Access} {v : Word} (h : s.fateOf a = .act v) :
    s.stateAllows (placeOf a.addr) v = true := by
  obtain ⟨allowed, fate⟩ := fateOf_allowed h (by simp) (by simp) (by simp)
  split at fate
  · exact absurd fate (readFate_acts_nothing s a v)
  rename_i w more write
  have word := writeFate_act fate
  rw [write] at word
  unfold State.allows at allowed
  simp only [write, Bool.and_eq_true] at allowed
  rw [word]
  exact allowed.1.2

/-- The carrying out of an access that does not use the port. -/
theorem sound_carryOut (s u : State) (works : s.mode ≠ .loading) (a : Access)
    (port : (u.fateOf a).usesPort = false) (same : ∀ v, s.readIxOk v = u.readIxOk v) :
    Sound ok s (s.carryOut a (u.fateOf a)) := by
  cases fate : u.fateOf a with
  | notReady => exact (inner_answered s _).sound
  | denied => exact (inner_deny s a).sound
  | badParity => exact (inner_answered s _).sound
  | pass l => rw [fate] at port; cases port
  | watch v => rw [fate] at port; cases port
  | act v =>
    refine (sound_actedWrite s works _ v fun place => ?_).trans (inner_answered _ _).sound
    have allowed := allowed_of_act fate
    rw [place] at allowed
    rw [same]
    exact allowed
  | substitute => exact ((inner_handoverRead s _ _).trans (inner_answered _ _)).sound
  | shut => exact ((inner_handoverRead s _ _).trans (inner_answered _ _)).sound
  | dirtyRead r => exact ((inner_promote s r).trans (inner_answered _ _)).sound
  | fetch l => rw [fate] at port; cases port

/-- A fetch answers, and may flag a parity fault (R30). -/
theorem fetch_eq (s : State) (l : List (BitVec 18)) : ∃ answer flags marks,
    s.fetch l = { s with answer := answer, dspFlags := flags, dirty := marks, lastServed := .passage } := by
  unfold State.fetch
  dsimp only
  by_cases good : (l.takeWhile fun a => !s.wordBad a).length = l.length
  · rw [if_pos good]
    exact ⟨_, s.dspFlags, s.dirty, rfl⟩
  · rw [if_neg good]
    exact ⟨_, _, _, rfl⟩

/-- The memory part of an access changes neither the floor nor the notice writer's side of the port. -/
theorem carryOut_port (s : State) (a : Access) (f : Fate) (port : f.usesPort = true) :
    Holding s (s.carryOut a f) ∧ (s.carryOut a f).noticeGrant = s.noticeGrant ∧ (s.carryOut a f).held = s.held
      ∧ (s.carryOut a f).writeIx = s.writeIx ∧ (s.carryOut a f).readIx = s.readIx
      ∧ (s.carryOut a f).mode = s.mode := by
  cases f with
  | pass l =>
    have written : Holding s (s.writeWords l) := .of_portOnly (portOnly_writeWords l s)
    refine ⟨written.trans .apart, ?_⟩
    simp only [State.carryOut, State.served, State.answered]
    rw [writeWords_eq]
    exact ⟨rfl, rfl, rfl, rfl, rfl⟩
  | watch v => exact ⟨.apart, rfl, rfl, rfl, rfl, rfl⟩
  | fetch l =>
    obtain ⟨answer, flags, marks, e⟩ := fetch_eq s l
    rw [State.carryOut, e]
    exact ⟨.apart, rfl, rfl, rfl, rfl, rfl⟩
  | notReady | denied | badParity | act | substitute | shut | dirtyRead => cases port

/-- The memory part of an access in its turn, and the arbiter after it (R33). -/
theorem sound_turn (s : State) (a : Access) (f : Fate) (port : f.usesPort = true) (ready : Bool)
    (free : ready = true → s.noticeGrant = none) : Sound ok s (((s.atTurn ready).carryOut a f).arbitrate) := by
  obtain ⟨hold, grant, held, writeIx, readIx, mode⟩ := carryOut_port (s.atTurn ready) a f port
  have waited : s.portOnly (s.atTurn ready) := by
    unfold State.atTurn
    split
    · exact portOnly_refl s
    · exact portOnly_awaitPort s
  have after : ((s.atTurn ready).carryOut a f).portOnly ((s.atTurn ready).carryOut a f).arbitrate := by
    unfold State.portOnly
    rw [arbitrate_eq]
  refine ⟨fun _ => ((Holding.of_portOnly waited).trans hold).trans (.of_portOnly after), fun law => ?_⟩
  have turn : (s.atTurn ready).portBusy ∧ (s.atTurn ready).noticeGrant = none := by
    unfold State.atTurn
    split
    · exact ⟨portBusy_of_portLaw law, free ‹_›⟩
    · exact ⟨portBusy_awaitPort s (portBusy_of_portLaw law), awaitPort_noticeGrant s⟩
  exact portLaw_served turn.1 turn.2 grant held writeIx readIx mode

theorem sound_busAccess (s : State) (span : ok → s.spanLaw) (a : Access) : Sound ok s (s.busAccess a) := by
  by_cases early : s.mode = .loading ∨ s.mode = .initialising
  · rw [busAccess_notReady s a early]
    exact (inner_answered s _).sound
  have works : s.mode ≠ .loading := fun e => early (.inl e)
  have flagged := inner_flagParity (ok := ok) s (s.busParityFails a)
  have works' : (s.flagParity (s.busParityFails a)).mode ≠ .loading := fun e => works (flagged.quiet.mode e)
  have span' (h : ok) : (s.flagParity (s.busParityFails a)).spanLaw :=
    spanLaw_of_slots (agree_flagParity s (s.busParityFails a)).slots (span h)
  have handed : Inner ok s ((s.flagParity (s.busParityFails a)).handOver a (s.fateOf a)) := by
    by_cases watch : ∃ v, s.fateOf a = .watch v
    · obtain ⟨v, fate⟩ := watch
      rw [fate]
      exact flagged.trans (inner_watchedCopy _ works' span' _ v)
    · rw [handOver_of_not_watch _ a fun v e => watch ⟨v, e⟩]
      exact flagged
  unfold State.busAccess
  dsimp only
  split
  case isTrue port =>
    refine handed.sound.trans (sound_turn _ a _ port _ fun ready => ?_)
    rw [handed.quiet.grant]
    exact portReady_free s ready
  case isFalse port =>
    have noPort : (s.fateOf a).usesPort = false := by simpa using port
    have other : ∀ v, s.fateOf a ≠ .watch v := fun v e => by rw [e] at noPort; cases noPort
    rw [handOver_of_not_watch _ a other]
    refine flagged.sound.trans (sound_carryOut _ s works' a noPort fun v => ?_)
    unfold State.readIxOk State.fill
    rw [flagged.quiet.readIx, flagged.quiet.writeIx]

theorem inner_writeWords (s : State) (l : List (BitVec 18 × Word)) : Inner ok s (s.writeWords l) := by
  refine .of (.of_portOnly (portOnly_writeWords l s)) ?_
  rw [writeWords_eq]
  exact .of_dirty id

theorem inner_cutForReload (s : State) (cut : PortCut) : Inner ok s (s.cutForReload cut) :=
  .ite _ (fun _ => inner_writeWords s _) (fun _ => .refl s)

/-! ### The load, the writers and the clock -/

/-- The end of LOADING: nothing has been held, granted, or occupied. -/
theorem sound_of_loading {s t : State} (loading : s.mode = .loading) (hold : ok → Holding s t) (held : t.held = s.held)
    (grant : t.noticeGrant = s.noticeGrant) : Sound ok s t := by
  refine ⟨hold, fun law => ?_⟩
  obtain ⟨empty, free⟩ := law.2.2.2 loading
  refine ⟨fun g granted => ?_, fun n holds => ?_, fun holds => absurd (held.trans empty) holds,
    fun _ => ⟨held.trans empty, grant.trans free⟩⟩
  · rw [grant, free] at granted; cases granted
  · rw [held, empty] at holds; cases holds

theorem sound_failLoad (s : State) (f : SiteFault) (loading : s.mode = .loading) : Sound ok s (s.failLoad f) :=
  sound_of_loading loading (fun _ => .apart (mode := fun h => by cases h)) rfl rfl

theorem sound_headerIn (s : State) (store : List Byte) : Sound ok s (s.headerIn store) := by
  refine .ite _ (fun now => ?_) (fun _ => .refl s)
  dsimp only
  split
  · exact sound_failLoad s _ now.1
  · exact sound_of_loading now.1 (fun _ => .apart) rfl rfl

/-- In LOADING no segment is held or occupied, so a site model may come in (R1, R37). -/
theorem sound_install (s : State) (m : Site) (loading : s.mode = .loading) (vacant : ok → s.vacantLaw)
    (drying : ok → s.dryingLaw) : Sound ok s (s.install m) := by
  have unheld (h : ok) (g : SegIx) : (s.seg g).holder = none := by
    obtain ⟨_, _, _, _, _, outside⟩ := drying h
    exact (outside (by rw [loading]; decide) g).2
  have unused (h : ok) (p : PinchIx) (x : ScrubIx) : pinchUse s p x = 0 := by
    by_contra some
    obtain ⟨g, _, occupant | ⟨k, held, _⟩⟩ := (pinchUse_pos s p x).mp (Nat.one_le_iff_ne_zero.mpr some)
    · rw [vacant h loading g] at occupant; cases occupant
    · rw [unheld h g] at held; cases held
  have installed (h : ok) : Holding s { s with site := some m, mode := .initialising, load := .idle } := by
    refine ⟨floorLaw_of_grip (fun _ => rfl) fun _ => rfl, fun _ law p => ?_, fun _ m => by cases m⟩
    have before := law p
    change pinchHolds s p (s.pinchEntry p) at before
    change pinchHolds _ p (s.pinchEntry p)
    cases holder : (s.pinchEntry p).holder with
    | some x =>
      obtain ⟨count, used, _⟩ := (pinchHolds_some holder).mp before
      rw [count, unused h] at used
      cases used
    | none =>
      obtain ⟨count, _⟩ := (pinchHolds_none holder).mp before
      refine (pinchHolds_none holder).mpr ⟨count, fun g _ => ⟨vacant h loading g, fun k held => ?_⟩⟩
      have held : (s.seg g).holder = some k := held
      rw [unheld h g] at held
      cases held
  have quiet : Sound ok s { s with site := some m, mode := .initialising, load := .idle } :=
    sound_of_loading loading installed rfl rfl
  refine quiet.trans (Inner.of_run (R := Slot.KeepsRoute) (sf_foldl _ (fun _ x m => ?_) _ (.refl _))
    (mv_foldl _ (fun _ x m => ?_) _ (.refl _))).sound
  · exact sf_ite _ (fun _ => sf_setScrub m x _) (fun _ => m)
  · exact mv_ite _ (fun _ => m.scrub x _) (fun _ => m)

theorem sound_imageIn (s : State) (store : List Byte) (vacant : ok → s.vacantLaw) (drying : ok → s.dryingLaw) :
    Sound ok s (s.imageIn store) := by
  cases body : s.load with
  | idle => rw [State.imageIn, body]; exact .refl s
  | header => rw [State.imageIn, body]; exact .refl s
  | body h =>
    by_cases now : s.mode = .loading ∧ s.lineHeld = false
    · obtain ⟨loading, released⟩ := now
      cases verdict : imageFault (wholeImage h store) with
      | some f =>
        rw [imageIn_refused s store h loading released body f verdict]
        exact sound_failLoad s f loading
      | none =>
        rw [imageIn_installed s store h loading released body verdict]
        exact sound_install s _ loading vacant drying
    · simp only [State.imageIn, body, if_neg now]; exact .refl s

theorem inner_flushEnd (s : State) : Inner ok s s.flushEnd :=
  .ite _ (fun _ => .of (.apart (mode := fun h => by cases h)) (.of_dirty id (mode := fun h => by cases h)))
    (fun _ => .refl s)

theorem holding_noticeAdmission (s : State) : Holding s s.noticeAdmission := by
  have arbitrated (u : State) : Holding u u.arbitrate := .of_portOnly (by unfold State.portOnly; rw [arbitrate_eq])
  unfold State.noticeAdmission
  split
  · exact .refl s
  split
  · exact .refl s
  split
  · exact Holding.trans .apart (arbitrated _)
  · exact .apart

theorem holding_noticePublish (s : State) : Holding s s.noticePublish := by
  unfold State.noticePublish
  split
  · refine (Holding.of_portOnly (portOnly_endGrant s)).trans (.of_portOnly ?_)
    unfold State.portOnly
    rw [arbitrate_eq]
  · exact .refl s

theorem holding_mirrorWrite (s : State) : Holding s s.mirrorWrite := by
  have granted : Holding s s.mirrorGrant := by
    obtain ⟨_, e⟩ | ⟨r, _, e⟩ := mirrorGrant_cases s
    · rw [e]; exact .refl s
    · rw [e]
      have taken : Holding s (s.takeRecord r) := .apart
      exact (taken.trans (.of_portOnly (portOnly_writeWords _ _))).trans .apart
  unfold State.mirrorWrite
  split
  · refine granted.trans (.of_portOnly ?_)
    unfold State.portOnly
    rw [arbitrate_eq]
  · exact .refl s

theorem inner_tick (s : State) : Inner ok s s.tick :=
  .ite (s := s) _ (fun _ => .refl s) (fun _ => .of (s := s) .apart (.of_dirty id))

/-! ### Every command -/

theorem sound_exec (s : State) (span : ok → s.spanLaw) (vacant : ok → s.vacantLaw) (drying : ok → s.dryingLaw)
    (c : Instr) (t : State)
    (h : exec c s = .next t) : Sound ok s t := by
  cases c with
  | power f => cases h; exact sound_restartWith s .power f
  | line f => cases h; exact sound_restarted rfl rfl rfl rfl rfl
  | resetRelease => cases h; exact ⟨fun _ => .apart, (PortQuiet.of_dirty (s := s) id).law⟩
  | headerRead store => cases h; exact sound_headerIn s store
  | siteLoadComplete store => cases h; exact sound_imageIn s store vacant drying
  | flushEnd => cases h; exact (inner_flushEnd s).sound
  | planBusAccess a upsets =>
    cases h
    have upset : Inner ok s (s.upset upsets) := .of .apart (.of_dirty id)
    exact upset.sound.trans (sound_busAccess (s.upset upsets) span a)
  | reloadSite f cut =>
    cases h
    exact (inner_cutForReload s cut).sound.trans
      (sound_busAccess _ (fun h => spanLaw_of_slots (agree_cutForReload s cut).slots (span h)) _)
  | confirmOverdue k => cases h; exact (Inner.of_run (sf_confirmExpiry (.refl s) _) (mv_confirmExpiry (.refl s) _)).sound
  | shortenOverdue k => cases h; exact (Inner.of_run (sf_shortenExpiry (.refl s) _) (mv_shortenExpiry (.refl s) _)).sound
  | waitExpired k => cases h; exact (Inner.of_run (sf_waitExpiry (.refl s) k) (mv_waitExpiry (.refl s) k)).sound
  | scrubberLost x => cases h; exact (Inner.of_run (sf_lostExpiry (.refl s) x) (mv_lostExpiry (.refl s) x)).sound
  | dryingExpiry g => cases h; exact (Inner.of_run (sf_dryingExpiry (.refl s) g) (mv_dryingExpiry (.refl s) g)).sound
  | quietTimerExpiry z => cases h; exact (Inner.of_run (sf_quietExpiry (.refl s) z) (mv_quietExpiry (.refl s) z)).sound
  | zoneStale z =>
    cases h
    exact (Inner.of_run (R := Slot.KeepsRoute) (sf_staleExpiry (.refl s) z) (mv_staleExpiry (.refl s) z)).sound
  | stuckTimerExpiry z => cases h; exact (Inner.of_run (sf_stuckExpiry (.refl s) z) (mv_stuckExpiry (.refl s) z)).sound
  | haltTimerExpiry z => cases h; exact (Inner.of_run (sf_haltExpiry (.refl s) z) (mv_haltExpiry (.refl s) z)).sound
  | noticeAdmission => cases h; exact ⟨fun _ => holding_noticeAdmission s, portLaw_noticeAdmission s⟩
  | noticePublish => cases h; exact ⟨fun _ => holding_noticePublish s, portLaw_noticePublish s⟩
  | mirrorRecordWrite => cases h; exact ⟨fun _ => holding_mirrorWrite s, portLaw_mirrorWrite s⟩
  | interlockClockTick =>
    cases h
    exact (inner_tick s).sound
  | _ => cases h; exact sound_busAccess s span _

end Commands

/-- Settles O19: every command keeps the law of held floor slot by slot, that of the pinch table group by group, and
that of the port, which the arbiter restores last. -/
theorem holdingLawsAreKept : Obligations.HoldingLawsAreKept := by
  have kept (ok : Prop) (s t : State) (h : step s = .next t) (span : ok → s.spanLaw) (vacant : ok → s.vacantLaw)
      (drying : ok → s.dryingLaw) : Sound ok s t := by
    unfold step at h
    split at h
    case h_1 => cases h; exact .refl s
    case h_2 c rest _ =>
      have queued : Sound ok s { s with pending := rest } := ⟨fun _ => .apart, (PortQuiet.of_dirty (s := s) id).law⟩
      exact queued.trans (sound_exec { s with pending := rest } span vacant drying c t h)
  constructor
  · intro s t h
    exact (kept False s t h False.elim False.elim False.elim).port
  · intro s t h _ _ distinct span _ _ _ _ drying law
    obtain ⟨_, _, _, _, _, vacant⟩ := id law
    have hold := (kept True s t h (fun _ => span) (fun _ => vacant) (fun _ => drying)).hold trivial
    have floor := floorLaw_of_holdingLaw distinct law
    exact ⟨holdingLaw_of_floorLaw (hold.floor floor) (hold.vacant vacant), hold.pinch floor⟩

end Sys2Proof.Machine
end

section
/-! SUPPORT. A command leaves the queue of commands as it is (log 1). -/
namespace Sys2Proof.Machine
open Sys2Proof
set_option Elab.async false

theorem pending_of_outside {s t : State} (h : t.outside = s.outside) : t.pending = s.pending :=
  congrArg Outside.pending h

theorem pending_of_portOnly {s t : State} (h : s.portOnly t) : t.pending = s.pending := by
  rw [h]

theorem pending_enterService (s : State) : s.enterService.pending = s.pending :=
  pending_of_outside (s := { s with mode := .service }) (by simp [State.enterService])

theorem pending_judgeService (s : State) : s.judgeService.pending = s.pending := by
  unfold State.judgeService
  split
  · exact pending_enterService s
  · rfl

theorem pending_acknowledge (s : State) : s.acknowledge.pending = s.pending := pending_judgeService _

theorem pending_reportEvent (s : State) (c : CellIx) (v : Word) : (s.reportEvent c v).pending = s.pending := by
  unfold State.reportEvent
  dsimp only
  split
  · exact pending_of_outside (s := s) (by simp)
  · split
    · exact pending_of_outside (s := s) (by simp)
    · rw [pending_judgeService]
      exact pending_of_outside (s := s) (by simp)

/-! ### Command words -/

section Issue
variable {s t : State}

theorem pending_cmdWithdraw (f : CmdFields) (h : s.cmdWithdraw f = .ok t) : t.pending = s.pending := by
  have leaves (x : ScrubIx) (g : Option SegIx) : (s.withdraw x g).judgeService.pending = s.pending := by
    rw [pending_judgeService]
    exact pending_of_outside (by simp)
  unfold State.cmdWithdraw at h
  grind

theorem pending_cmdReadmit (f : CmdFields) (h : s.cmdReadmit f = .ok t) : t.pending = s.pending := by
  have leaves (x : ScrubIx) : (s.readmit x).pending = s.pending := pending_of_outside (by simp)
  unfold State.cmdReadmit at h
  grind

theorem pending_cmdClearViolation (f : CmdFields) (h : s.cmdClearViolation f = .ok t) : t.pending = s.pending := by
  have leaves (x : ScrubIx) : (s.liftMark x).judgeService.pending = s.pending := by
    rw [pending_judgeService]
    exact pending_of_outside (by simp)
  unfold State.cmdClearViolation at h
  grind

theorem pending_cmdCloseSegment (i : Issuer) (f : CmdFields) (h : s.cmdCloseSegment i f = .ok t) :
    t.pending = s.pending := by
  have leaves (g : SegIx) : (s.closeSegment i g).pending = s.pending := pending_of_outside (by simp)
  unfold State.cmdCloseSegment at h
  grind

theorem pending_cmdReopenSegment (i : Issuer) (f : CmdFields) (h : s.cmdReopenSegment i f = .ok t) :
    t.pending = s.pending := by
  have leaves (g : SegIx) : (s.reopenSegment i g).pending = s.pending := pending_of_outside (by simp)
  unfold State.cmdReopenSegment at h
  grind

theorem pending_cmdCloseZone (f : CmdFields) (h : s.cmdCloseZone f = .ok t) : t.pending = s.pending := by
  have leaves (z : ZoneIx) : (s.closeZone z).pending = s.pending := pending_of_outside (by simp)
  unfold State.cmdCloseZone at h
  grind

theorem pending_cmdReopenZone (f : CmdFields) (h : s.cmdReopenZone f = .ok t) : t.pending = s.pending := by
  have leaves (z : ZoneIx) : (s.reopenZone z).pending = s.pending := pending_of_outside (by simp)
  unfold State.cmdReopenZone at h
  grind

theorem pending_cmdReseedZone (f : CmdFields) (h : s.cmdReseedZone f = .ok t) : t.pending = s.pending := by
  have leaves (z : ZoneIx) : (s.event (fun s => s.reseed z)).pending = s.pending := pending_of_outside (by simp)
  unfold State.cmdReseedZone at h
  grind

theorem pending_notify (s : State) (kind : NoticeKind) (p : List Word) : (s.notify kind p).pending = s.pending :=
  pending_of_outside (by simp)

theorem pending_resetNotices (s : State) : s.resetNotices.pending = s.pending := pending_notify _ _ _

theorem pending_cmdResetNotices (h : s.cmdResetNotices = .ok t) : t.pending = s.pending := by
  unfold State.cmdResetNotices at h
  grind [pending_resetNotices]

theorem pending_restart (s : State) (c : Cause) : (s.restart c).pending = s.pending := rfl

theorem pending_cmdReloadSite (h : s.cmdReloadSite = .ok t) : t.pending = s.pending := by
  unfold State.cmdReloadSite at h
  grind [pending_restart]

theorem pending_cmdAckRestart (h : s.cmdAckRestart = .ok t) : t.pending = s.pending := by
  unfold State.cmdAckRestart at h
  grind [pending_acknowledge]

theorem pending_cmdOf (i : Issuer) (code : Nat) (f : CmdFields) (h : s.cmdOf i code f = .ok t) :
    t.pending = s.pending := by
  unfold State.cmdOf at h
  split at h
  · exact pending_cmdAckRestart h
  · exact pending_cmdWithdraw f h
  · exact pending_cmdReadmit f h
  · exact pending_cmdClearViolation f h
  · exact pending_cmdCloseSegment i f h
  · exact pending_cmdReopenSegment i f h
  · exact pending_cmdCloseZone f h
  · exact pending_cmdReopenZone f h
  · exact pending_cmdReseedZone f h
  · exact pending_cmdResetNotices h
  · exact pending_cmdReloadSite h
  · cases h

end Issue

theorem pending_setResultRec (s : State) (i : Issuer) (r : CmdResult) : (s.setResultRec i r).pending = s.pending := by
  cases i <;> rfl

theorem pending_flagRefused (s : State) (i : Issuer) : (s.flagRefused i).pending = s.pending := by
  cases i <;> rfl

theorem pending_issue (s : State) (i : Issuer) (code : Byte) (f : CmdFields) :
    (s.issue i code f).pending = s.pending := by
  unfold State.issue
  split
  case h_1 t taken =>
    have kept : t.pending = s.pending := by
      split at taken
      · exact pending_cmdOf i _ f taken
      · cases taken
    unfold State.recordDone
    split
    · exact kept
    · rw [pending_setResultRec, kept]
  case h_2 =>
    unfold State.refuseCommand
    rw [pending_notify, pending_flagRefused, pending_setResultRec]

/-! ### Accesses (R18 to R33) -/

theorem pending_judgeThreshold (s : State) : s.judgeThreshold.pending = s.pending := by
  unfold State.judgeThreshold
  split <;> rfl

theorem pending_controlWrite (s : State) (c : CtlWord) (v : Word) : (s.controlWrite c v).pending = s.pending := by
  cases c with
  | dspCommand => exact pending_issue s .dispatch _ _
  | opsCommand => exact pending_issue s .operations _ _
  | tuning i =>
    unfold State.controlWrite State.tune
    dsimp only
    split
    · exact pending_judgeThreshold _
    · rfl
  | dspClear =>
    unfold State.controlWrite State.clearDsp
    dsimp only
    split <;> rfl
  | opsClear | dspMask | opsMask | gwyMask | readIx => rfl
  | mode | clock | changedSlots | dspResult | opsResult | dspStatus | opsStatus | writeIx | refused | unassigned => rfl

theorem pending_actedWrite (s : State) (p : Place) (v : Word) : (s.actedWrite p v).pending = s.pending := by
  cases p with
  | control c => exact pending_controlWrite s c v
  | slot k w => exact pending_of_outside (by unfold State.actedWrite; simp)
  | general | cell | figure | segView | scrubView | ring => rfl

theorem pending_handoverRead (s : State) (t : Tag) (p : Place) : (s.handoverRead t p).pending = s.pending := by
  cases p with
  | slot k w => exact pending_of_outside (by unfold State.handoverRead; simp)
  | general | control | cell | figure | segView | scrubView | ring => rfl

theorem pending_watchedCopy (s : State) (p : Place) (v : Word) : (s.watchedCopy p v).pending = s.pending := by
  unfold State.watchedCopy
  split
  · split
    · exact pending_of_outside (by simp)
    · exact pending_reportEvent _ _ _
  · exact pending_of_outside (by simp)
  · split
    · exact pending_of_outside (by simp)
    · rfl
  all_goals rfl

theorem pending_deny (s : State) (a : Access) : (s.deny a).pending = s.pending := by
  unfold State.deny State.fillCapture
  cases a.tag <;> dsimp only <;> split <;> rfl

theorem pending_promote (s : State) (r : MirrorRec) : (s.promote r).pending = s.pending := by
  unfold State.promote
  split <;> rfl

theorem pending_fetch (s : State) (l : List (BitVec 18)) : (s.fetch l).pending = s.pending := by
  obtain ⟨_, _, _, e⟩ := fetch_eq s l
  rw [e]

theorem pending_writeWords (s : State) (l : List (BitVec 18 × Word)) : (s.writeWords l).pending = s.pending :=
  pending_of_portOnly (portOnly_writeWords l s)

theorem pending_carryOut (s : State) (a : Access) (f : Fate) : (s.carryOut a f).pending = s.pending := by
  cases f with
  | notReady | badParity | watch => rfl
  | denied => exact pending_deny s a
  | pass l => exact pending_writeWords s l
  | act v => exact pending_actedWrite s _ v
  | substitute => exact pending_handoverRead s _ _
  | shut => exact pending_handoverRead s _ _
  | dirtyRead r => exact pending_promote s r
  | fetch l => exact pending_fetch s l

theorem pending_arbitrate (s : State) : s.arbitrate.pending = s.pending := by
  rw [arbitrate_eq]

theorem pending_flagParity (s : State) (bad : Bool) : (s.flagParity bad).pending = s.pending := by
  cases bad <;> rfl

theorem pending_busAccess (s : State) (a : Access) : (s.busAccess a).pending = s.pending := by
  have handed (f : Fate) : ((s.flagParity (s.busParityFails a)).handOver a f).pending = s.pending := by
    cases f with
    | watch v => exact (pending_watchedCopy _ _ v).trans (pending_flagParity s _)
    | notReady | denied | badParity | pass | act | substitute | shut | dirtyRead | fetch => exact pending_flagParity s _
  unfold State.busAccess
  dsimp only
  split
  · rw [pending_arbitrate, pending_carryOut]
    unfold State.atTurn
    split
    · exact handed _
    · rw [pending_of_portOnly (portOnly_awaitPort _), handed]
  · rw [pending_carryOut, handed]

/-! ### The load, the writers and the clock -/

theorem pending_install (s : State) (m : Site) : (s.install m).pending = s.pending :=
  pending_of_outside (s := { s with site := some m, mode := .initialising, load := .idle }) (by simp [State.install, State.enrol])

theorem pending_headerIn (s : State) (store : List Byte) : (s.headerIn store).pending = s.pending := by
  unfold State.headerIn
  split
  · dsimp only
    split <;> rfl
  · rfl

theorem pending_imageIn (s : State) (store : List Byte) : (s.imageIn store).pending = s.pending := by
  unfold State.imageIn
  split
  case h_3 =>
    split
    · dsimp only
      split
      · rfl
      · exact pending_install s _
    · rfl
  all_goals rfl

theorem pending_noticeAdmission (s : State) : s.noticeAdmission.pending = s.pending := by
  unfold State.noticeAdmission
  split
  · rfl
  · split
    · rfl
    · split
      · exact pending_arbitrate _
      · rfl

theorem pending_noticePublish (s : State) : s.noticePublish.pending = s.pending := by
  unfold State.noticePublish
  split
  · rw [pending_arbitrate, pending_of_portOnly (portOnly_endGrant s)]
  · rfl

theorem pending_mirrorWrite (s : State) : s.mirrorWrite.pending = s.pending := by
  unfold State.mirrorWrite
  split
  · rw [pending_arbitrate]
    obtain ⟨_, e⟩ | ⟨r, _, e⟩ := mirrorGrant_cases s
    · rw [e]
    · rw [e]
      exact pending_writeWords _ _
  · rfl

theorem pending_cutForReload (s : State) (cut : PortCut) : (s.cutForReload cut).pending = s.pending := by
  unfold State.cutForReload
  split
  · exact pending_writeWords _ _
  · rfl

theorem pending_flushEnd (s : State) : s.flushEnd.pending = s.pending := by
  unfold State.flushEnd
  split <;> rfl

theorem pending_tick (s : State) : s.tick.pending = s.pending := by
  unfold State.tick
  split <;> rfl

/-- Every command answers a next state, whose queue is the one it met. -/
theorem exec_answers (c : Instr) (s : State) : ∃ t, exec c s = .next t ∧ t.pending = s.pending := by
  cases c with
  | power f => exact ⟨_, rfl, pending_writeWords s (s.cutWords f)⟩
  | line f => exact ⟨_, rfl, pending_writeWords s (s.cutWords f)⟩
  | resetRelease => exact ⟨_, rfl, rfl⟩
  | headerRead store => exact ⟨_, rfl, pending_headerIn s store⟩
  | siteLoadComplete store => exact ⟨_, rfl, pending_imageIn s store⟩
  | flushEnd => exact ⟨_, rfl, pending_flushEnd s⟩
  | planBusAccess a upsets => exact ⟨_, rfl, pending_busAccess (s.upset upsets) a⟩
  | reloadSite f cut => exact ⟨_, rfl, (pending_busAccess _ _).trans (pending_cutForReload s cut)⟩
  | confirmOverdue k => exact ⟨_, rfl, pending_of_outside (outside_confirmExpiry s _)⟩
  | shortenOverdue k => exact ⟨_, rfl, pending_of_outside (outside_shortenExpiry s _)⟩
  | waitExpired k => exact ⟨_, rfl, pending_of_outside (outside_waitExpiry s k)⟩
  | scrubberLost x => exact ⟨_, rfl, pending_of_outside (outside_lostExpiry s x)⟩
  | dryingExpiry g => exact ⟨_, rfl, pending_of_outside (outside_dryingExpiry s g)⟩
  | quietTimerExpiry z => exact ⟨_, rfl, pending_of_outside (outside_quietExpiry s z)⟩
  | zoneStale z => exact ⟨_, rfl, pending_of_outside (outside_staleExpiry s z)⟩
  | stuckTimerExpiry z => exact ⟨_, rfl, pending_of_outside (outside_stuckExpiry s z)⟩
  | haltTimerExpiry z => exact ⟨_, rfl, pending_of_outside (outside_haltExpiry s z)⟩
  | noticeAdmission => exact ⟨_, rfl, pending_noticeAdmission s⟩
  | noticePublish => exact ⟨_, rfl, pending_noticePublish s⟩
  | mirrorRecordWrite => exact ⟨_, rfl, pending_mirrorWrite s⟩
  | interlockClockTick => exact ⟨_, rfl, pending_tick s⟩
  | _ => exact ⟨_, rfl, pending_busAccess s _⟩

/-- Settles O2: the step reads the front command off the queue, and no command reads or writes the queue. -/
theorem stepTakesTheFrontCommand : Obligations.StepTakesTheFrontCommand := by
  refine ⟨fun c rest s queue => ?_, fun s queue => ?_, exec_answers⟩
  · rw [step, queue]
  · rw [step, queue]

end Sys2Proof.Machine
end

section
/-! SUPPORT. The fate of an access case by case (R18 to R32), and what a refusal leaves. -/
namespace Sys2Proof.Machine
open Sys2Proof
set_option Elab.async false

/-! ### Flags and marks -/

theorem marks_setDsp_self (s : State) (f : DspFlag) : s.marks (s.setDsp f) [] := marks_setDsp (marks_refl s) f (.inl rfl)

theorem marks_setOps_self (s : State) (f : OpsFlag) : s.marks (s.setOps f) [] := by
  intro r
  have dirty : r ∈ (s.setOps f).dirty ↔ ((s.setOps f).opsFlags ≠ s.opsFlags ∧ r = .control .opsStatus) ∨ r ∈ s.dirty := by
    unfold State.setOps State.putOps
    rw [mem_dirty_markIf]
    simp only [bne_iff_ne, ne_eq]
    rfl
  have same : (s.setOps f).dspFlags = s.dspFlags := rfl
  rw [dirty, same]
  simp only [List.not_mem_nil, ne_eq, not_true_eq_false, and_false, false_or]
  tauto

/-- The marks read the dirty set and the flags alone. -/
theorem marks_congr {s t u : State} {l : List MirrorRec} (h : s.marks t l) (dirty : u.dirty = t.dirty := by rfl)
    (dsp : u.dspFlags = t.dspFlags := by rfl) (ops : u.opsFlags = t.opsFlags := by rfl) : s.marks u l := by
  intro r
  rw [dirty, dsp, ops]
  exact h r

/-- The marks of an event that leaves the dirty set and the flags of its start as they are in s. -/
theorem marks_from {s t u : State} {l : List MirrorRec} (h : s.marks t l) (dirty : u.dirty = s.dirty := by rfl)
    (dsp : u.dspFlags = s.dspFlags := by rfl) (ops : u.opsFlags = s.opsFlags := by rfl) : u.marks t l := by
  intro r
  rw [dirty, dsp, ops]
  exact h r

/-! ### The accesses of the fates -/

theorem attends_iff (s : State) : s.attends = true ↔ s.mode ≠ .loading ∧ s.mode ≠ .initialising := by
  simp [State.attends]

theorem wholeGeneral_first {a : Access} (h : isGeneral a.addr = false) : wholeGeneral a = false := by
  refine List.all_eq_false.mpr ⟨a.addr, List.mem_map.mpr ⟨0, by simp, by simp⟩, by simp [h]⟩

theorem takenAddrs_cut {a : Access} (h : wholeGeneral a = false) : takenAddrs a = [a.addr] := by
  simp [takenAddrs, h]

theorem takenAddrs_whole {a : Access} (h : wholeGeneral a = true) : takenAddrs a = coveredAddrs a := by
  simp [takenAddrs, h]

theorem placeOf_of_wholeGeneral {a : Access} (h : wholeGeneral a = true) : placeOf a.addr = .general := by
  have first := List.all_eq_true.mp h a.addr (List.mem_map.mpr ⟨0, by simp, by simp⟩)
  simpa [isGeneral] using first

theorem isGeneral_of_place {a : BitVec 18} {p : Place} (h : placeOf a = p) (ne : p ≠ .general) : isGeneral a = false := by
  simp [isGeneral, h, ne]

theorem dataParityOk_read {a : Access} (h : isWrite a.transfer = false) : dataParityOk a = true := by
  obtain ⟨tag, addr, parity, transfer⟩ := a
  cases transfer with
  | read more => simp [dataParityOk, takenWords, transferData]
  | write => cases h

theorem allows_read (s : State) {a : Access} (h : isWrite a.transfer = false) : s.allows a = true := by
  obtain ⟨tag, addr, parity, transfer⟩ := a
  cases transfer with
  | read more => rfl
  | write => cases h

/-- An access that R20 to R22 refuse. -/
theorem fateOf_denied {s : State} {a : Access} (attends : s.attends = true)
    (h : a.tag = .three ∨ (addrParityOk a = true ∧ s.allows a = false)) : s.fateOf a = .denied := by
  obtain ⟨loaded, begun⟩ := (attends_iff s).mp attends
  unfold State.fateOf
  rw [if_neg (by simp [loaded, begun])]
  rcases h with three | ⟨parity, refused⟩
  · rw [if_pos three]
  · split
    · rfl
    · rw [if_neg (by simp [parity]), if_pos (by simp [refused])]

theorem busParityFails_denied {s : State} {a : Access}
    (h : a.tag = .three ∨ (addrParityOk a = true ∧ s.allows a = false)) : s.busParityFails a = false := by
  rcases h with three | ⟨parity, refused⟩
  · simp [State.busParityFails, three]
  · simp [State.busParityFails, parity, refused]

theorem busAccess_refused {s : State} {a : Access} (attends : s.attends = true)
    (h : a.tag = .three ∨ (addrParityOk a = true ∧ s.allows a = false)) : s.busAccess a = s.deny a := by
  have fate := fateOf_denied attends h
  rw [busAccess_noPort s a (busParityFails_denied h) (by rw [fate]; rfl), fate]
  rfl

/-- The fate of an allowed access of tags 0 to 2 whose address is sound or general (R24 to R28). -/
theorem fateOf_taken {s : State} {a : Access} (attends : s.attends = true) (tag : a.tag ≠ .three)
    (sound : addrParityOk a = true ∨ isGeneral a.addr = true) (allowed : s.allows a = true) :
    s.fateOf a = if isWrite a.transfer then writeFate a else s.readFate a := by
  obtain ⟨loaded, begun⟩ := (attends_iff s).mp attends
  have parity : ¬ (!addrParityOk a && !isGeneral a.addr) = true := by
    rcases sound with sound | sound <;> simp [sound]
  unfold State.fateOf
  rw [if_neg (by simp [loaded, begun]), if_neg tag, if_neg parity, if_neg (by simp [allowed])]
  cases a.transfer <;> simp [isWrite]

theorem fateOf_read {s : State} {a : Access} (attends : s.attends = true) (tag : a.tag ≠ .three)
    (sound : addrParityOk a = true ∨ isGeneral a.addr = true) (read : isWrite a.transfer = false) :
    s.fateOf a = s.readFate a := by
  rw [fateOf_taken attends tag sound (allows_read s read), read]
  rfl

theorem fateOf_write {s : State} {a : Access} {w : BusWord} {more : List BusWord} (attends : s.attends = true)
    (tag : a.tag ≠ .three) (sound : addrParityOk a = true ∨ isGeneral a.addr = true) (allowed : s.allows a = true)
    (write : a.transfer = .write w more) : s.fateOf a = writeFate a := by
  rw [fateOf_taken attends tag sound allowed, write]
  rfl

theorem busParityFails_read {s : State} {a : Access} (sound : addrParityOk a = true)
    (read : isWrite a.transfer = false) : s.busParityFails a = false := by
  simp [State.busParityFails, sound, dataParityOk_read read]

/-- An access of tags 0 to 2 sets BUS_PARITY when a parity that the part checks fails (R30, R31). -/
theorem busParityFails_iff {s : State} {a : Access} (attends : s.attends = true) (tag : a.tag ≠ .three) :
    s.busParityFails a = true ↔ addrParityOk a = false ∨ (s.allows a = true ∧ dataParityOk a = false) := by
  obtain ⟨loaded, begun⟩ := (attends_iff s).mp attends
  simp [State.busParityFails, loaded, begun, tag]

/-! ### Refusals (R23, R30, R31) -/

/-- The filling of the capture and the answer, once the initiator's flag has been set (R23). -/
theorem fillCapture_spec (s t : State) (a : Access) (d : BitVec 16) (o : BitVec 5) (m : List MirrorRec)
    (e : t = { s with dspFlags := d, opsFlags := o, dirty := m }) (marked : s.marks t []) (u : State)
    (filled : u = (t.fillCapture a).answered .refused) :
    u = { s with
        answer := some .refused, capture := u.capture, dspFlags := u.dspFlags, opsFlags := u.opsFlags, dirty := u.dirty }
      ∧ u.capture = some (s.capture.getD { addr := a.addr, tag := a.tag, isWrite := isWrite a.transfer, mode := s.mode })
      ∧ s.marks u (if s.capture = none then [.control .refused] else []) := by
  subst e
  unfold State.fillCapture at filled
  cases held : s.capture with
  | none =>
    simp only [held] at filled
    subst filled
    exact ⟨rfl, rfl, marks_congr (marks_markDirty (marks_congr marked) _)⟩
  | some r =>
    simp only [held] at filled
    subst filled
    exact ⟨rfl, rfl, marks_congr marked⟩

theorem deny_operations (s : State) {a : Access} (tag : a.tag = .operations) :
    s.deny a = ((s.setOps .accessRefused).fillCapture a).answered .refused := by
  rw [State.deny, tag]

theorem deny_others (s : State) {a : Access} (tag : a.tag ≠ .operations) :
    s.deny a = ((s.setDsp .accessRefused).fillCapture a).answered .refused := by
  cases e : a.tag with
  | operations => exact absurd e tag
  | dispatch | gateway | three => rw [State.deny, e]

/-- A refusal sets ACCESS_REFUSED for its initiator and no other flag (R23). -/
theorem deny_flags (s : State) (a : Access) :
    (∀ f, (s.deny a).dsp f = (s.dsp f || decide (f = .accessRefused ∧ a.tag ≠ .operations)))
      ∧ (∀ f, (s.deny a).ops f = (s.ops f || decide (f = .accessRefused ∧ a.tag = .operations))) := by
  have filled (t : State) : ((t.fillCapture a).answered .refused).dspFlags = t.dspFlags
      ∧ ((t.fillCapture a).answered .refused).opsFlags = t.opsFlags := by
    unfold State.fillCapture
    split <;> exact ⟨rfl, rfl⟩
  by_cases tag : a.tag = .operations
  · obtain ⟨dsp, ops⟩ := filled (s.setOps .accessRefused)
    rw [deny_operations s tag]
    refine ⟨fun f => (dsp_eq_of_flags (s := s) dsp f).trans (by simp [tag]), fun f => ?_⟩
    rw [State.ops, ops]
    exact (ops_setOps s _ f).trans (by simp [tag])
  · obtain ⟨dsp, ops⟩ := filled (s.setDsp .accessRefused)
    rw [deny_others s tag]
    refine ⟨fun f => (dsp_eq_of_flags dsp f).trans (by simp [tag]), fun f => ?_⟩
    rw [State.ops, ops]
    simp [tag, State.ops]

/-- A refusal sets its initiator's flag, fills an empty capture, and changes nothing else (R23). -/
theorem deny_spec (s : State) (a : Access) :
    s.deny a = { s with
        answer := some .refused, capture := (s.deny a).capture, dspFlags := (s.deny a).dspFlags,
        opsFlags := (s.deny a).opsFlags, dirty := (s.deny a).dirty }
      ∧ (s.deny a).capture = some (s.capture.getD { addr := a.addr, tag := a.tag, isWrite := isWrite a.transfer, mode := s.mode })
      ∧ s.marks (s.deny a) (if s.capture = none then [.control .refused] else []) := by
  by_cases tag : a.tag = .operations
  · exact fillCapture_spec s (s.setOps .accessRefused) a _ _ _ rfl (marks_setOps_self s _) _ (deny_operations s tag)
  · exact fillCapture_spec s (s.setDsp .accessRefused) a _ _ _ rfl (marks_setDsp_self s _) _ (deny_others s tag)

end Sys2Proof.Machine
end

section
/-! SUPPORT. Accesses that are turned away, cut bursts and closed gates (R20 to R23, R28 to R31). -/
namespace Sys2Proof.Machine
open Sys2Proof
set_option Elab.async false

/-! ### Accesses turned away -/

/-- Before the core runs, every row that is an access is answered RETRY (R20). -/
theorem exec_busRow_notReady (s : State) (i : Instr) (row : i.busRow = true)
    (early : s.mode = .loading ∨ s.mode = .initialising) :
    exec i s = .next ((s.upset i.upsets).answered .retry) := by
  have retried (a : Access) : exec (.planBusAccess a []) s = .next (s.answered .retry) :=
    congrArg _ (busAccess_notReady s a early)
  cases i with
  | planBusAccess a u => exact congrArg _ (busAccess_notReady (s.upset u) a early)
  | reloadSite f cut =>
    have uncut : s.cutForReload cut = s := by
      rcases early with e | e <;> simp [State.cutForReload, State.reloadTaken, e]
    change Host.Outcome.next ((s.cutForReload cut).busAccess _) = _
    rw [uncut]
    exact retried _
  | power | line | resetRelease | headerRead | siteLoadComplete | flushEnd | confirmOverdue | shortenOverdue
  | waitExpired | scrubberLost | dryingExpiry | quietTimerExpiry | zoneStale | stuckTimerExpiry | haltTimerExpiry
  | noticeAdmission | noticePublish | mirrorRecordWrite | interlockClockTick => cases row
  | _ => exact retried _

/-- An access to an interlock area, of tags 0 to 2, with a parity that fails (R30, R31). -/
theorem busAccess_badParity {s : State} {a : Access} (attends : s.attends = true) (tag : a.tag ≠ .three)
    (area : isGeneral a.addr = false)
    (bad : addrParityOk a = false
      ∨ s.allows a = true ∧ ∃ w more, a.transfer = .write w more ∧ wordParityOk w = false) :
    s.busAccess a = (s.setDsp .busParity).answered .refused := by
  have data (w : BusWord) (more : List BusWord) (write : a.transfer = .write w more) (odd : wordParityOk w = false) :
      dataParityOk a = false := by
    simp [dataParityOk, takenWords, takenAddrs_cut (wholeGeneral_first area), write, transferData, odd]
  have fails : s.busParityFails a = true := by
    refine (busParityFails_iff attends tag).mpr (bad.imp id fun ⟨allowed, w, more, write, odd⟩ => ⟨allowed, data w more write odd⟩)
  have fate : s.fateOf a = .badParity := by
    cases sound : addrParityOk a with
    | false =>
      obtain ⟨loaded, begun⟩ := (attends_iff s).mp attends
      unfold State.fateOf
      rw [if_neg (by simp [loaded, begun]), if_neg tag, if_pos (by simp [sound, area])]
    | true =>
      obtain ⟨allowed, w, more, write, odd⟩ := bad.resolve_left (by simp [sound])
      have place : placeOf a.addr ≠ .general := by simpa [isGeneral] using area
      rw [fateOf_write attends tag (.inl sound) allowed write]
      simp [writeFate, place, data w more write odd]
  simp [State.busAccess, fate, fails, State.flagParity, State.handOver, Fate.usesPort, State.carryOut]

/-- Settles O8, by the fate of the access. -/
theorem turnedAwayAccesses : Obligations.TurnedAwayAccesses := by
  refine ⟨fun s i early row => ?_, fun s a u attends refused => ?_, fun s a u attends tag area bad => ?_⟩
  · exact exec_busRow_notReady s i row early
  · have denied : exec (.planBusAccess a u) s = .next ((s.upset u).deny a) :=
      congrArg _ (busAccess_refused (s := s.upset u) attends refused)
    obtain ⟨rest, capture, marks⟩ := deny_spec (s.upset u) a
    obtain ⟨dsp, ops⟩ := deny_flags (s.upset u) a
    exact ⟨_, denied, rest, capture, dsp, ops, marks_from marks⟩
  · have judged : exec (.planBusAccess a u) s = .next (((s.upset u).setDsp .busParity).answered .refused) :=
      congrArg _ (busAccess_badParity (s := s.upset u) attends tag area bad)
    exact ⟨_, judged, rfl, dsp_setDsp (s.upset u) .busParity, marks_from (marks_congr (marks_setDsp_self (s.upset u) _))⟩

/-! ### Bursts that reach an interlock area (R29) -/

theorem wholeGeneral_firstOnly (a : Access) : takenAddrs a.firstOnly = [a.addr] := by
  obtain ⟨tag, addr, parity, transfer⟩ := a
  cases transfer <;> simp [takenAddrs, coveredAddrs, Access.firstOnly, moreWords]

/-- A cut burst is its first word alone, but for the count of words that NO_SITE looks at (R20, R29). -/
theorem busAccess_firstOnly (s : State) (a : Access) (cut : wholeGeneral a = false)
    (allowed : s.allows a = s.allows a.firstOnly) : s.busAccess a = s.busAccess a.firstOnly := by
  have addrs : takenAddrs a = takenAddrs a.firstOnly := by rw [takenAddrs_cut cut, wholeGeneral_firstOnly]
  obtain ⟨tag, addr, parity, transfer⟩ := a
  have words : takenWords { tag := tag, addr := addr, addrParity := parity, transfer := transfer }
      = takenWords (Access.firstOnly { tag := tag, addr := addr, addrParity := parity, transfer := transfer }) := by
    unfold takenWords
    rw [addrs, wholeGeneral_firstOnly]
    cases transfer <;> simp [Access.firstOnly, transferData]
  have data : dataParityOk { tag := tag, addr := addr, addrParity := parity, transfer := transfer }
      = dataParityOk (Access.firstOnly { tag := tag, addr := addr, addrParity := parity, transfer := transfer }) := by
    unfold dataParityOk
    rw [words]
  have fate : s.fateOf { tag := tag, addr := addr, addrParity := parity, transfer := transfer }
      = s.fateOf (Access.firstOnly { tag := tag, addr := addr, addrParity := parity, transfer := transfer }) := by
    unfold State.fateOf
    rw [allowed]
    cases transfer with
    | read more =>
      unfold State.readFate
      rw [addrs]
      rfl
    | write w more =>
      unfold writeFate
      rw [words, data]
      rfl
  have fails : s.busParityFails { tag := tag, addr := addr, addrParity := parity, transfer := transfer }
      = s.busParityFails (Access.firstOnly { tag := tag, addr := addr, addrParity := parity, transfer := transfer }) := by
    unfold State.busParityFails
    rw [allowed, data]
    rfl
  have carried (t : State) (f : Fate) : t.carryOut { tag := tag, addr := addr, addrParity := parity, transfer := transfer } f
      = t.carryOut (Access.firstOnly { tag := tag, addr := addr, addrParity := parity, transfer := transfer }) f := by
    cases transfer <;> rfl
  unfold State.busAccess
  rw [fate, fails]
  simp only [carried]
  rfl

/-- The rights of a burst are those of its first word, but where NO_SITE asks for a single word (R20 to R22). -/
theorem allows_firstOnly (s : State) (a : Access)
    (single : ¬ (s.mode = .noSite ∧ placeOf a.addr = .control .dspCommand ∧ isWrite a.transfer = true)) :
    s.allows a = s.allows a.firstOnly := by
  obtain ⟨tag, addr, parity, transfer⟩ := a
  cases transfer with
  | read more => rfl
  | write w more =>
    have other : s.mode ≠ .noSite ∨ placeOf addr ≠ .control .dspCommand := by
      by_contra both
      push Not at both
      exact single ⟨both.1, both.2, rfl⟩
    have site : s.noSiteAllows { tag := tag, addr := addr, addrParity := parity, transfer := .write w more } (placeOf addr)
        = s.noSiteAllows { tag := tag, addr := addr, addrParity := parity, transfer := .write w [] } (placeOf addr) := by
      rcases other with mode | place
      · have running : (s.mode != .noSite) = true := by simpa using mode
        simp [State.noSiteAllows, running]
      · simp [State.noSiteAllows, place]
    exact congrArg (fun b => mayWrite tag (placeOf addr) && s.stateAllows (placeOf addr) w.data && b) site

/-- A burst write to the dispatch command word in NO_SITE is not allowed (R20). -/
theorem allows_burstCommand (s : State) (a : Access) (mode : s.mode = .noSite)
    (place : placeOf a.addr = .control .dspCommand) (write : isWrite a.transfer = true)
    (burst : 0 < moreWords a.transfer) : s.allows a = false := by
  obtain ⟨tag, addr, parity, transfer⟩ := a
  cases transfer with
  | read more => cases write
  | write w more =>
    have many : isSingle (.write w more) = false := by simpa [isSingle] using Nat.pos_iff_ne_zero.mp burst
    have place : placeOf addr = .control .dspCommand := place
    simp [State.allows, State.noSiteAllows, mode, place, many, noSiteArea]

/-- Settles O12: the taken words of a cut burst are its first word. -/
theorem cutBurst : Obligations.CutBurst := by
  intro s a u cut
  refine ⟨fun single => ?_, fun mode place write burst sound => ?_⟩
  · exact congrArg _ (busAccess_firstOnly (s.upset u) a cut (allows_firstOnly (s.upset u) a single))
  · have attends : (s.upset u).attends = true := by
      rw [attends_iff]
      change s.mode ≠ _ ∧ s.mode ≠ _
      simp [mode]
    have denied : exec (.planBusAccess a u) s = .next ((s.upset u).deny a) :=
      congrArg _ (busAccess_refused attends (.inr ⟨sound, allows_burstCommand (s.upset u) a mode place write burst⟩))
    refine ⟨_, denied, ?_⟩
    rw [(deny_spec (s.upset u) a).1]

/-! ### Closed gates (R28, R75, R76, R80) -/

theorem gateOpen_iff (s : State) (k : SlotIx) (w : Fin 16) :
    s.gateOpen k w = true ↔ k.val < 20 ∧ (s.slot k).state.authority = true
      ∧ (1 ≤ w.val → w.val ≤ 10 → w.val ≤ (s.slot k).endIx) := by
  by_cases route : 1 ≤ w.val ∧ w.val ≤ 10
  · simp [State.gateOpen, isFleet, route, and_assoc]
  · have idle : 1 ≤ w.val → w.val ≤ 10 → w.val ≤ (s.slot k).endIx := fun one ten => absurd ⟨one, ten⟩ route
    simpa [State.gateOpen, isFleet, decide_eq_false route] using fun _ _ => idle

theorem authority_iff (x : SlotState) :
    x.authority = true ↔ x = .granted ∨ x = .delivered ∨ x = .active ∨ x = .shortening := by
  cases x <;> simp [SlotState.authority]

/-- A read of a slot word behind a closed gate, by the gateway (R28). -/
theorem fateOf_shut {s : State} {a : Access} {k : SlotIx} {w : Fin 16} (attends : s.attends = true)
    (tag : a.tag = .gateway) (sound : addrParityOk a = true) (read : isWrite a.transfer = false)
    (place : placeOf a.addr = .slot k w) (closed : s.gateOpen k w = false) : s.fateOf a = .shut := by
  rw [fateOf_read attends (by rw [tag]; decide) (.inl sound) read]
  simp [State.readFate, State.shutTo, place, tag, closed]

/-- The changed mark shows in no mirror record (R57, R58). -/
theorem clearChanged_eq (s : State) (k : SlotIx) : s.clearChanged k = { s with slots := (s.clearChanged k).slots } := by
  have status : ({ s.slot k with changed := false } : Slot).statusWord = (s.slot k).statusWord := rfl
  have progress : ({ s.slot k with changed := false } : Slot).progressWord = (s.slot k).progressWord := rfl
  simp [State.clearChanged, State.setSlot, State.markIf, status, progress]

/-- Settles O14: behind a closed gate only the changed mark of a read handover word changes. -/
theorem closedGateReadsZero : Obligations.ClosedGateReadsZero := by
  intro s a u k w attends tag sound read addr closed
  have place : placeOf a.addr = .slot k w := by rw [addr, placeOf_slot]
  have gate : s.gateOpen k w = false := by
    rw [← Bool.not_eq_true, gateOpen_iff, authority_iff]
    exact closed
  have fate : (s.upset u).fateOf a = .shut := fateOf_shut (s := s.upset u) attends tag sound read place gate
  have carried : exec (.planBusAccess a u) s
      = .next (((s.upset u).handoverRead a.tag (placeOf a.addr)).answered (.done 1 [goodWord 0])) := by
    change Host.Outcome.next ((s.upset u).busAccess a) = _
    rw [busAccess_noPort _ a (busParityFails_read sound read) (by rw [fate]; rfl), fate]
    rfl
  rw [carried, place, tag]
  by_cases handover : k.val < 20 ∧ w.val = 13
  · have word : w = 13 := Fin.ext handover.2
    have idle : (s.slot k).state ≠ .granted := fun e => closed ⟨handover.1, .inl e, fun _ ten => by omega⟩
    have cleared : (s.upset u).handoverRead .gateway (.slot k w) = (s.upset u).clearChanged k := by
      have granted : ((s.upset u).slot k).state ≠ .granted := idle
      simp [State.handoverRead, isFleet, handover.1, word, State.gatewayHandover, granted]
    refine ⟨_, rfl, ?_, ?_⟩
    · rw [cleared, clearChanged_eq]
      rfl
    · rw [cleared, if_pos handover]
      exact ⟨slot_setSlot_same (s.upset u) k _, fun j ne => slot_setSlot_other (s.upset u) k j _ ne.symm⟩
  · have kept : (s.upset u).handoverRead .gateway (.slot k w) = s.upset u := by
      have other : ¬ (k.val < 20 ∧ w = 13) := fun ⟨fleet, e⟩ => handover ⟨fleet, by rw [e]; rfl⟩
      simp [State.handoverRead, isFleet, other]
    refine ⟨_, rfl, ?_, ?_⟩
    · rw [kept]
      rfl
    · rw [kept, if_neg handover]
      exact ⟨rfl, fun j _ => rfl⟩

end Sys2Proof.Machine
end

section
/-! SUPPORT. Accesses that go to memory: reads, writes of the general area, and the write rights (R21 to R36). -/
namespace Sys2Proof.Machine
open Sys2Proof
set_option Elab.async false

/-! ### Reads from memory (R24, R32) -/

/-- A read from memory answers, and sets MEMORY_PARITY when it meets a bad word (R32). -/
theorem fetch_spec (s : State) (l : List (BitVec 18)) :
    s.fetch l = { s with
        answer := (s.fetch l).answer, lastServed := .passage, dspFlags := (s.fetch l).dspFlags, dirty := (s.fetch l).dirty }
      ∧ (∀ f, (s.fetch l).dsp f = (s.dsp f || decide (f = .memoryParity ∧ ∃ a ∈ l, s.wordBad a = true)))
      ∧ s.marks (s.fetch l) [] := by
  have whole : (l.takeWhile fun a => !s.wordBad a).length = l.length ↔ ¬ ∃ a ∈ l, s.wordBad a = true := by
    have all : l.takeWhile (fun a => !s.wordBad a) = l ↔ ¬ ∃ a ∈ l, s.wordBad a = true := by
      simp [List.takeWhile_eq_self_iff]
    rw [← all]
    exact ⟨(List.takeWhile_prefix _).eq_of_length, fun e => by rw [e]⟩
  unfold State.fetch
  dsimp only
  by_cases good : (l.takeWhile fun a => !s.wordBad a).length = l.length
  · rw [if_pos good]
    refine ⟨rfl, fun f => ?_, marks_congr (marks_refl s)⟩
    simp only [whole.mp good, and_false, decide_false, Bool.or_false]
    rfl
  · rw [if_neg good]
    refine ⟨rfl, fun f => ?_, marks_congr (marks_setDsp_self s _)⟩
    have bad : ∃ a ∈ l, s.wordBad a = true := by
      by_contra none
      exact good (whole.mpr none)
    exact (dsp_setDsp s .memoryParity f).trans (by simp [bad])

theorem fetch_answer (s : State) (l : List (BitVec 18)) : (s.fetch l).answer
    = some (if (l.takeWhile fun a => !s.wordBad a) = [] then .refused
        else .done (l.takeWhile fun a => !s.wordBad a).length
          ((l.takeWhile fun a => !s.wordBad a).map fun a => goodWord (s.readWord a))) := by
  simp [State.fetch, State.answered, List.isEmpty_iff]

theorem fetch_good (s : State) (a : BitVec 18) (good : s.wordBad a = false) :
    s.fetch [a] = { s with answer := some (.done 1 [goodWord (s.readWord a)]), lastServed := .passage } := by
  simp [State.fetch, good, State.answered, State.served]

/-- A read of one bad word is refused, with MEMORY_PARITY (R32). -/
theorem fetch_bad (s : State) (a : BitVec 18) (bad : s.wordBad a = true) :
    s.fetch [a] = { s with
        answer := some .refused, lastServed := .passage, dspFlags := (s.fetch [a]).dspFlags, dirty := (s.fetch [a]).dirty }
      ∧ (∀ f, (s.fetch [a]).dsp f = (s.dsp f || decide (f = .memoryParity))) ∧ s.marks (s.fetch [a]) [] := by
  obtain ⟨rest, dsp, marks⟩ := fetch_spec s [a]
  refine ⟨?_, fun f => (dsp f).trans (by simp [bad]), marks⟩
  rw [fetch_answer] at rest
  simpa [bad] using rest

/-- The words before the first bad one. -/
theorem takeWhile_range {α : Type} (f : Nat → α) (p : α → Bool) (n k : Nat) (le : k ≤ n) (good : ∀ i, i < k → p (f i) = true)
    (stop : k < n → p (f k) = false) : ((List.range n).map f).takeWhile p = (List.range k).map f := by
  have first : ((List.range n).map f).findIdx (fun a => !p a) = k := by
    rcases Nat.lt_or_eq_of_le le with lt | e
    · rw [List.findIdx_eq (by simpa using lt)]
      simpa [stop lt] using good
    · subst e
      have none : ((List.range k).map f).findIdx (fun a => !p a) = ((List.range k).map f).length := by
        rw [List.findIdx_eq_length]
        simpa using good
      simpa using none
  rw [List.takeWhile_eq_take_findIdx_not, first, ← List.map_take, List.take_range, Nat.min_eq_left le]

/-! ### The turn at the port -/

/-- An access with a memory part and no copy is carried out when its turn has come (R33). -/
theorem busAccess_memory {s : State} {a : Access} {f : Fate} (fate : s.fateOf a = f) (port : f.usesPort = true)
    (plain : ∀ v, f ≠ .watch v) :
    s.busAccess a = ((s.turn (s.flagParity (s.busParityFails a))).carryOut a f).arbitrate := by
  unfold State.busAccess
  dsimp only
  rw [fate, if_pos port, handOver_of_not_watch _ a plain, turn_eq]

theorem judgedParity_flagParity (s : State) (b : Bool) (bad : Prop) (h : b = true ↔ bad) :
    s.judgedParity (s.flagParity b) bad := by
  cases b with
  | false =>
    have sound : ¬ bad := fun q => by cases h.mpr q
    exact ⟨rfl, fun f => by simp [State.flagParity, sound], marks_refl s⟩
  | true =>
    refine ⟨rfl, fun f => ?_, marks_setDsp_self s _⟩
    change (s.setDsp .busParity).dsp f = true ↔ _
    simp [h.mp rfl]

theorem classOf_record {p : Place} {r : MirrorRec} (h : recordAt p = some r) : classOf p ≠ .substituted := by
  cases p with
  | control c => cases c <;> simp [recordAt, mirroredControlWords] at h <;> simp [classOf, controlClass]
  | slot k w =>
    intro substituted
    have handover : w = 13 := by
      unfold classOf slotWordClass at substituted
      grind
    rw [handover] at h
    cases h
  | segView | scrubView => simp [classOf]
  | general | cell | figure | ring => cases h

/-- A sound read of one word that stands in memory. -/
theorem exec_fetchOne {s : State} {a : Access} (u : List (BitVec 20)) (attends : s.attends = true) (tag : a.tag ≠ .three)
    (sound : addrParityOk a = true) (read : isWrite a.transfer = false) (open_ : s.shutTo a.tag (placeOf a.addr) = false)
    (area : placeOf a.addr ≠ .general) (stored : classOf (placeOf a.addr) ≠ .substituted)
    (clean : s.dirtyAt (placeOf a.addr) = none) :
    exec (.planBusAccess a u) s = .next (((s.upset u).awaitPort.fetch [a.addr]).arbitrate) := by
  have fate : (s.upset u).fateOf a = .fetch [a.addr] := by
    rw [fateOf_read (s := s.upset u) attends tag (.inl sound) read, ← takenAddrs_cut (wholeGeneral_first (isGeneral_of_place rfl area))]
    have openHere : (s.upset u).shutTo a.tag (placeOf a.addr) = false := open_
    have cleanHere : (s.upset u).dirtyAt (placeOf a.addr) = none := clean
    simp [State.readFate, openHere, stored, cleanHere]
  change Host.Outcome.next ((s.upset u).busAccess a) = _
  rw [busAccess_port _ a (busParityFails_read sound read) (by rw [fate]; rfl) (by rw [fate]; simp), fate]
  rfl

theorem shutTo_apart (s : State) (t : Tag) {p : Place} (h : ∀ k w, p ≠ .slot k w) : s.shutTo t p = false := by
  cases p with
  | slot k w => exact absurd rfl (h k w)
  | general | control | cell | figure | segView | scrubView | ring => rfl

theorem dirtyAt_none (s : State) {p : Place} (h : recordAt p = none) : s.dirtyAt p = none := by
  simp [State.dirtyAt, h]

/-- Settles O13: a dirty record is promoted, and a clean one is read when the turn has come. -/
theorem mirrorReads : Obligations.MirrorReads := by
  intro s w a u r attends tag sound read record openGate turn
  subst turn
  have area : placeOf a.addr ≠ .general := fun e => by rw [e] at record; cases record
  have fetched (clean : r ∉ s.dirty) :
      exec (.planBusAccess a u) s = .next (((s.upset u).awaitPort.fetch [a.addr]).arbitrate) :=
    exec_fetchOne u attends tag sound read openGate area (classOf_record record) (by simp [State.dirtyAt, record, clean])
  refine ⟨fun dirty => ?_, fun clean good => ?_, fun clean bad => ?_⟩
  · have fate : (s.upset u).fateOf a = .dirtyRead r := by
      rw [fateOf_read (s := s.upset u) attends tag (.inl sound) read]
      have openHere : (s.upset u).shutTo a.tag (placeOf a.addr) = false := openGate
      have dirtyHere : (s.upset u).dirtyAt (placeOf a.addr) = some r := by
        rw [State.dirtyAt, record]
        exact if_pos dirty
      simp [State.readFate, openHere, classOf_record record, dirtyHere]
    change Host.Outcome.next ((s.upset u).busAccess a) = _
    rw [busAccess_noPort _ a (busParityFails_read sound read) (by rw [fate]; rfl), fate]
    change Host.Outcome.next (((s.upset u).promote r).answered .retry) = _
    by_cases listed : r ∈ s.promo
    · have kept : (s.upset u).promote r = s.upset u := if_pos listed
      rw [kept, if_pos listed]
      rfl
    · have joined : (s.upset u).promote r = { s.upset u with promo := s.promo ++ [r] } := if_neg listed
      rw [joined, if_neg listed]
      rfl
  · rw [fetched clean, fetch_good _ _ good]
  · exact ⟨_, fetched clean, fetch_bad _ _ bad⟩

/-- A word that is read from memory whatever the marks: its fate is a fetch (R24, R28, R76). -/
theorem plainWord_spec {s : State} {t : Tag} {p : Place} (h : plainWord s t p) :
    s.shutTo t p = false ∧ p ≠ .general ∧ classOf p ≠ .substituted ∧ recordAt p = none := by
  cases p with
  | control c =>
    have c : c = .unassigned := h
    subst c
    exact ⟨rfl, by simp, by simp [classOf, controlClass], by simp [recordAt, mirroredControlWords]⟩
  | cell | figure | ring => exact ⟨rfl, by simp, by simp [classOf], rfl⟩
  | slot k w =>
    obtain ⟨low, behind⟩ : w.val ≤ 10 ∧ _ := h
    refine ⟨?_, by simp, by simp [classOf, slotWordClass, low], ?_⟩
    · by_cases gateway : t = .gateway
      · obtain ⟨fleet, authority, inside⟩ := behind gateway
        have gate : s.gateOpen k w = true := (gateOpen_iff s k w).mpr ⟨fleet, authority, fun one _ => inside one⟩
        simp [State.shutTo, gate]
      · simp [State.shutTo, gateway]
    · have apart : w ≠ 11 ∧ w ≠ 15 ∧ w ≠ 12 ∧ w ≠ 14 := by
        refine ⟨?_, ?_, ?_, ?_⟩ <;> (rintro rfl; exact absurd low (by decide))
      simp [recordAt, slotRecord, apart]
  | general | segView | scrubView => exact h.elim

/-- A burst of the general area is read whole (R29). -/
theorem fateOf_generalRead {s : State} {a : Access} (attends : s.attends = true) (tag : a.tag ≠ .three)
    (read : isWrite a.transfer = false) (whole : wholeGeneral a = true) : s.fateOf a = .fetch (coveredAddrs a) := by
  have place := placeOf_of_wholeGeneral whole
  rw [fateOf_read attends tag (.inr (by simp [isGeneral, place])) read]
  simp [State.readFate, place, State.shutTo, classOf, State.dirtyAt, recordAt, takenAddrs_whole whole]

/-- Settles O11: a general burst is fetched up to its first bad word, every other plain word alone. -/
theorem memoryRead : Obligations.MemoryRead := by
  refine ⟨fun s a u more attends tag transfer whole => ?_, fun s w a u attends tag sound read plain turn => ?_⟩
  · have read : isWrite a.transfer = false := by rw [transfer]; rfl
    have fate : (s.upset u).fateOf a = .fetch (coveredAddrs a) :=
      fateOf_generalRead (s := s.upset u) attends tag read whole
    have fails : (s.upset u).busParityFails a = true ↔ addrParityOk a = false := by
      rw [busParityFails_iff (s := s.upset u) attends tag]
      simp [dataParityOk_read read]
    have covered : coveredAddrs a = (List.range (more + 1)).map (fun i => a.addr + BitVec.ofNat 18 i) := by
      rw [coveredAddrs, transfer]
      rfl
    refine ⟨(s.upset u).flagParity ((s.upset u).busParityFails a), _,
      (s.turn ((s.upset u).flagParity ((s.upset u).busParityFails a))).fetch (coveredAddrs a),
      ?_, judgedParity_flagParity _ _ _ fails, rfl, ?_⟩
    · exact congrArg _ (busAccess_memory fate rfl (by simp))
    generalize s.turn ((s.upset u).flagParity ((s.upset u).busParityFails a)) = w
    obtain ⟨rest, dsp, marks⟩ := fetch_spec w (coveredAddrs a)
    refine ⟨rest, fun good => ?_, fun k le bad good => ?_, fun f => ?_, marks⟩
    · rw [fetch_answer, covered, takeWhile_range _ _ _ (more + 1) le_rfl (fun i lt => by simp [good i (by omega)])
        (fun lt => absurd lt (by omega))]
      simp
    · rw [fetch_answer, covered, takeWhile_range _ _ _ k (by omega) (fun i lt => by simp [good i lt])
        (fun _ => by simp [bad])]
      simp [Function.comp_def]
    · rw [dsp f, covered]
      simp
  · subst turn
    obtain ⟨openGate, area, stored, record⟩ := plainWord_spec plain
    have fetched := exec_fetchOne u attends tag sound read openGate area stored (dirtyAt_none s record)
    refine ⟨fun good => ?_, fun bad => ?_⟩
    · rw [fetched, fetch_good _ _ good]
    · exact ⟨_, fetched, fetch_bad _ _ bad⟩

end Sys2Proof.Machine
end

section
/-! SUPPORT. Writes: the words of the general area, and who may write what (R20 to R26, R29). -/
namespace Sys2Proof.Machine
open Sys2Proof
set_option Elab.async false

/-! ### Writes of the general area (R24, R29) -/

theorem takenWords_whole {a : Access} {first : BusWord} {more : List BusWord} (transfer : a.transfer = .write first more)
    (whole : wholeGeneral a = true) : takenWords a
      = ((List.range (more.length + 1)).map fun i => a.addr + BitVec.ofNat 18 i).zip (first :: more) := by
  rw [takenWords, takenAddrs_whole whole, coveredAddrs, transfer]
  rfl

/-- The words that a general write passes to memory. -/
theorem passWords_fst {a : Access} {first : BusWord} {more : List BusWord} (transfer : a.transfer = .write first more)
    (whole : wholeGeneral a = true) : ((takenWords a).map fun w => (w.1, w.2.data)).map Prod.fst = coveredAddrs a := by
  rw [takenWords_whole transfer whole, List.map_map]
  have fst : (Prod.fst ∘ fun w : BitVec 18 × BusWord => (w.1, w.2.data)) = Prod.fst := rfl
  rw [fst, List.map_fst_zip (by simp), coveredAddrs, transfer]
  rfl

theorem mem_passWords {a : Access} {first : BusWord} {more : List BusWord} (transfer : a.transfer = .write first more)
    (whole : wholeGeneral a = true) (i : Nat) (d : BusWord) (h : (first :: more)[i]? = some d) :
    (a.addr + BitVec.ofNat 18 i, d.data) ∈ (takenWords a).map fun w => (w.1, w.2.data) := by
  rw [takenWords_whole transfer whole]
  have lt : i < more.length + 1 := by simpa using (List.getElem?_eq_some_iff.mp h).1
  refine List.mem_map.mpr ⟨(a.addr + BitVec.ofNat 18 i, d), List.mem_of_getElem? (i := i) ?_, rfl⟩
  rw [List.getElem?_zip_eq_some]
  exact ⟨by simp [lt], h⟩

theorem dataParityOk_whole {a : Access} {first : BusWord} {more : List BusWord} (transfer : a.transfer = .write first more)
    (whole : wholeGeneral a = true) : dataParityOk a = false ↔ ∃ d ∈ first :: more, wordParityOk d = false := by
  have snd : (takenWords a).map Prod.snd = first :: more := by
    rw [takenWords_whole transfer whole, List.map_snd_zip (by simp)]
  rw [dataParityOk, ← snd]
  simp only [List.all_eq_false, List.mem_map, exists_exists_and_eq_and, Bool.not_eq_true]

/-- The addresses of a burst are apart. -/
theorem nodup_coveredAddrs {a : Access} (wf : a.wf = true) : (coveredAddrs a).Nodup := by
  have short : moreWords a.transfer ≤ 7 := by
    unfold Access.wf Transfer.wf at wf
    unfold moreWords
    split at wf <;> simp_all
  refine List.Nodup.map_on (fun i hi j hj e => ?_) List.nodup_range
  simp only [List.mem_range] at hi hj
  have same : BitVec.ofNat 18 i = BitVec.ofNat 18 j := by simpa using e
  have num := congrArg BitVec.toNat same
  simp only [BitVec.toNat_ofNat] at num
  omega

theorem fateOf_generalWrite {s : State} {a : Access} {first : BusWord} {more : List BusWord} (attends : s.attends = true)
    (tag : a.tag ≠ .three) (transfer : a.transfer = .write first more) (whole : wholeGeneral a = true) :
    s.allows a = true ∧ s.fateOf a = .pass ((takenWords a).map fun w => (w.1, w.2.data)) := by
  have place := placeOf_of_wholeGeneral whole
  have allowed : s.allows a = true := by
    simp [State.allows, transfer, place, mayWrite, tag, State.stateAllows, State.noSiteAllows, noSiteArea]
  refine ⟨allowed, ?_⟩
  rw [fateOf_write attends tag (.inr (by simp [isGeneral, place])) allowed transfer]
  simp [writeFate, place]

theorem carryOut_pass (s : State) (a : Access) (l : List (BitVec 18 × Word)) : s.carryOut a (.pass l) = { s with
    mem := (s.writeWords l).mem, badParity := (s.writeWords l).badParity, answer := some (.done l.length []),
    lastServed := .passage } := by
  rw [State.carryOut, writeWords_eq]
  rfl

theorem flagParity_mem (s : State) (b : Bool) : (s.flagParity b).mem = s.mem := by cases b <;> rfl

/-- Settles O10: the words go to memory one by one when the turn has come. -/
theorem generalWrite : Obligations.GeneralWrite := by
  intro s a u first more memory attends tag transfer wf whole
  obtain ⟨allowed, fate⟩ := fateOf_generalWrite (s := s.upset u) attends tag transfer whole
  have fails : (s.upset u).busParityFails a = true
      ↔ addrParityOk a = false ∨ ∃ d ∈ first :: more, wordParityOk d = false := by
    rw [busParityFails_iff (s := s.upset u) attends tag, allowed, dataParityOk_whole transfer whole]
    simp
  have sound : memWf (s.turn ((s.upset u).flagParity ((s.upset u).busParityFails a))).mem = true :=
    memWf_turn s _ (by rw [flagParity_mem]; exact memory)
  have addrs := passWords_fst transfer whole
  have count : ((takenWords a).map fun w => (w.1, w.2.data)).length = more.length + 1 := by
    simp [takenWords_whole transfer whole]
  have words := mem_passWords transfer whole
  obtain ⟨w, turn⟩ : ∃ w, w = s.turn ((s.upset u).flagParity ((s.upset u).busParityFails a)) := ⟨_, rfl⟩
  rw [← turn] at sound
  have taken : exec (.planBusAccess a u) s
      = .next ((w.carryOut a (.pass ((takenWords a).map fun w => (w.1, w.2.data)))).arbitrate) := by
    rw [turn]
    exact congrArg _ (busAccess_memory fate rfl (by simp))
  refine ⟨(s.upset u).flagParity ((s.upset u).busParityFails a), w, _, taken, judgedParity_flagParity _ _ _ fails, turn,
    ?_, fun i d here => ?_, fun b apart => ?_⟩
  · rw [carryOut_pass, count]
  · have written := words i d here
    have read := readWord_writeWords _ w sound (addrs ▸ nodup_coveredAddrs wf) _ written
    have good := (wordBad_writeWords ((takenWords a).map fun w => (w.1, w.2.data)) w (a.addr + BitVec.ofNat 18 i)).trans
      (if_pos (List.mem_map.mpr ⟨_, written, rfl⟩))
    exact ⟨read, good⟩
  · rw [← addrs] at apart
    have read := readWord_writeWords_other _ w sound b fun p mem e => apart (List.mem_map.mpr ⟨p, mem, e⟩)
    exact ⟨read, (wordBad_writeWords _ w b).trans (if_neg apart)⟩

end Sys2Proof.Machine
end

section
/-! SUPPORT. The write rights (R18, R20 to R22). -/
namespace Sys2Proof.Machine
open Sys2Proof
set_option Elab.async false

theorem readIxOk_iff (s : State) (v : Word) : s.readIxOk v = true
    ↔ v.toNat ≤ 1023 ∧ (v.setWidth 10 - s.readIx).toNat ≤ (s.writeIx - s.readIx).toNat := by
  simp [State.readIxOk, State.fill]

theorem mayWriteControl_iff (t : Tag) (c : CtlWord) : mayWriteControl t c = true
    ↔ (t = .dispatch ∧ (c = .dspCommand ∨ c = .dspClear ∨ c = .dspMask ∨ c = .gwyMask ∨ (∃ i, c = .tuning i) ∨ c = .readIx))
      ∨ (t = .operations ∧ (c = .opsCommand ∨ c = .opsClear ∨ c = .opsMask)) := by
  cases t <;> cases c <;> simp [mayWriteControl]

theorem live_iff (x : SlotState) : x.live = false ↔ x = .idle := by
  cases x <;> simp [SlotState.live]

/-- The rights of R21 and the word's state (R22) are what the statements ask for. -/
theorem writePermitted_iff (s : State) (t : Tag) (p : Place) (v : Word) :
    writePermitted s t p v ↔ t ≠ .three ∧ mayWrite t p = true ∧ s.stateAllows p v = true := by
  unfold writePermitted
  refine and_congr_right fun tag => ?_
  cases p with
  | general => simp [mayWrite, State.stateAllows, tag]
  | control c =>
    by_cases index : c = .readIx
    · subst index
      simp [mayWrite, mayWriteControl_iff, State.stateAllows, readIxOk_iff]
    · have free : s.stateAllows (.control c) v = true := by cases c <;> first | rfl | exact absurd rfl index
      simp only [mayWrite, mayWriteControl_iff, free, and_true]
      simp [index]
  | cell | figure => simp [mayWrite, State.stateAllows]
  | slot k w =>
    have drafter : t = drafterOf k ↔ t = (if k.val < 20 then .dispatch else .operations) := by
      simp [drafterOf, isFleet]
    simp only [mayWrite, State.stateAllows, Bool.and_eq_true, beq_iff_eq, Bool.or_eq_true, decide_eq_true_eq,
      Bool.not_eq_true', live_iff, drafter, and_assoc]
    refine and_congr_right fun _ => ?_
    by_cases idle : (s.slot k).state = .idle <;> simp only [idle, and_true, and_false, or_true, or_false, false_or] <;> omega
  | segView | scrubView | ring => simp [mayWrite]

/-- What a tag may write is passed on, watched or acted on (R19, R21). -/
theorem classOf_of_mayWrite {t : Tag} {p : Place} (h : mayWrite t p = true) :
    p = .general ∨ classOf p = .watched ∨ classOf p = .acted := by
  cases p with
  | general => exact .inl rfl
  | cell | figure => exact .inr (.inl rfl)
  | control c => cases t <;> cases c <;> simp [mayWrite, mayWriteControl] at h <;> exact .inr (.inr rfl)
  | slot k w =>
    simp only [mayWrite, Bool.and_eq_true, Bool.or_eq_true, decide_eq_true_eq] at h
    unfold classOf slotWordClass
    grind
  | segView | scrubView | ring => cases h

theorem arbitrate_answer (s : State) : s.arbitrate.answer = s.answer := by rw [arbitrate_eq]

/-- An allowed sound single-word write is answered DONE (R18). -/
theorem answer_allowedWrite {s : State} {t : Tag} {a : BitVec 18} {v : Word} (attends : s.attends = true)
    (tag : t ≠ .three) (allowed : s.allows (goodWrite t a v) = true) :
    (s.busAccess (goodWrite t a v)).answer = some (.done 1 []) := by
  obtain ⟨loaded, begun⟩ := (attends_iff s).mp attends
  have may : mayWrite t (placeOf a) = true := by
    have all := allowed
    simp only [State.allows, goodWrite, Bool.and_eq_true] at all
    exact all.1.1
  rcases classOf_of_mayWrite may with general | watched | acted
  · have fate : s.fateOf (goodWrite t a v) = .pass [(a, v)] := by
      have place : placeOf (goodWrite t a v).addr = .general := general
      rw [fateOf_goodWrite s t a v loaded begun tag allowed]
      simp [writeFate, place, takenWords_goodWrite, goodWord]
    rw [busAccess_port s _ (busParityFails_goodWrite s t a v) (by rw [fate]; rfl) (by rw [fate]; simp), fate,
      arbitrate_answer]
    rfl
  · rw [busAccess_watched s t a v _ loaded begun tag rfl allowed watched, arbitrate_answer]
    rfl
  · rw [busAccess_acted s t a v _ loaded begun tag rfl allowed acted]
    rfl

theorem answer_refusedWrite {s : State} {t : Tag} {a : BitVec 18} {v : Word} (attends : s.attends = true)
    (refused : t = .three ∨ s.allows (goodWrite t a v) = false) :
    (s.busAccess (goodWrite t a v)).answer = some .refused := by
  rw [busAccess_refused attends (refused.imp id fun h => ⟨addrParityOk_goodWrite t a v, h⟩), (deny_spec s _).1]

/-- In NO_SITE a write must besides fall outside the part's words or be the dispatch command word (R20). -/
theorem allows_noSite (s : State) (t : Tag) (a : BitVec 18) (v : Word) (mode : s.mode = .noSite) (tag : t ≠ .three) :
    s.allows (goodWrite t a v) = true
      ↔ writePermitted s t (placeOf a) v ∧ (placeOf a = .general ∨ placeOf a = .control .dspCommand) := by
  have single : isSingle (goodWrite t a v).transfer = true := rfl
  have parts : s.allows (goodWrite t a v) = (mayWrite t (placeOf a) && s.stateAllows (placeOf a) v
      && s.noSiteAllows (goodWrite t a v) (placeOf a)) := rfl
  have site : mayWrite t (placeOf a) = true → (s.noSiteAllows (goodWrite t a v) (placeOf a) = true
      ↔ placeOf a = .general ∨ placeOf a = .control .dspCommand) := by
    intro may
    simp only [State.noSiteAllows, mode, single]
    cases place : placeOf a <;> simp [noSiteArea]
    all_goals (rw [place] at may; cases may)
  rw [parts, writePermitted_iff]
  simp only [Bool.and_eq_true, tag, ne_eq, not_false_eq_true, true_and]
  constructor
  · rintro ⟨may, word⟩
    exact ⟨may, (site may.1).mp word⟩
  · rintro ⟨may, word⟩
    exact ⟨may, (site may.1).mpr word⟩

/-- Settles O9: the answer tells whether the access was allowed. -/
theorem writeRights : Obligations.WriteRights := by
  refine ⟨fun s tag a v running => ⟨s.busAccess (goodWrite tag a v), rfl, fun permitted => ?_, fun barred => ?_⟩,
    fun s tag a v mode => ⟨s.busAccess (goodWrite tag a v), rfl, fun permitted word => ?_, fun barred => ?_⟩⟩
  · obtain ⟨three, may, state⟩ := (writePermitted_iff s tag _ v).mp permitted
    refine answer_allowedWrite ?_ three ?_
    · rcases running with e | e <;> simp [State.attends, e]
    · rw [allows_running s tag a v (by rcases running with e | e <;> simp [e]), may, state]
      rfl
  · refine answer_refusedWrite (by rcases running with e | e <;> simp [State.attends, e]) ?_
    refine or_iff_not_imp_left.mpr fun three => ?_
    rw [allows_running s tag a v (by rcases running with e | e <;> simp [e])]
    rw [writePermitted_iff] at barred
    simpa [three] using barred
  · have three := ((writePermitted_iff s tag _ v).mp permitted).1
    exact answer_allowedWrite (by simp [State.attends, mode]) three
      ((allows_noSite s tag a v mode three).mpr ⟨permitted, word⟩)
  · refine answer_refusedWrite (by simp [State.attends, mode]) (or_iff_not_imp_left.mpr fun three => ?_)
    rw [← Bool.not_eq_true, allows_noSite s tag a v mode three]
    rintro ⟨permitted, word⟩
    exact barred.elim (· permitted) (· word)

end Sys2Proof.Machine
end

section
/-! SUPPORT. The turns at the memory port (R33), and the rows that write a watched word (R24, R25). -/
namespace Sys2Proof.Machine
open Sys2Proof
set_option Elab.async false

/-! ### Whose turn it is -/

theorem noticeWaits_free {s : State} (free : s.noticeGrant = none) : s.noticeWaits = true ↔ s.held ≠ none := by
  simp [State.noticeWaits, free, Option.isSome_iff_ne_none]

theorem portReady_iff (s : State) : s.portReady = true ↔ s.noticeGrant = none
    ∧ (s.lastServed = .notice ∨ s.held = none ∧ (s.lastServed = .mirror ∨ ¬ mirrorAsks s)) := by
  unfold State.portReady
  rw [Bool.and_eq_true, decide_eq_true_eq, Option.isNone_iff_eq_none, grantNext_passage]
  refine and_congr_right fun free => ?_
  have waits := noticeWaits_free free
  rw [← mirrorWaits_iff]
  cases held : s.held <;> rw [held] at waits <;> cases s.lastServed <;> cases s.mirrorWaits <;> simp_all

theorem portReady_of_notice {s : State} (free : s.noticeGrant = none) (last : s.lastServed = .notice) :
    s.portReady = true := (portReady_iff s).mpr ⟨free, .inl last⟩

/-- Behind the mirror writer's turn at most one notice comes before an access. -/
theorem serveAhead_portReady {s : State} (free : s.noticeGrant = none) (last : s.lastServed = .mirror) :
    s.serveAhead.portReady = true := by
  have next := grantNext_passage s
  rw [last] at next
  by_cases held : s.held = none
  · have ready : s.portReady = true := (portReady_iff s).mpr ⟨free, .inr ⟨held, .inl last⟩⟩
    rwa [serveAhead_ready s ready]
  · have begun : s.serveAhead = s.beginGrant.endGrant := by
      simp [State.serveAhead, next, (noticeWaits_free free).mpr held]
    rw [begun]
    exact portReady_of_notice (endGrant_noticeGrant _) (beginGrant_lastServed s (Option.isSome_iff_ne_none.mpr held))

theorem awaitPort_free {s : State} (free : s.noticeGrant = none) : s.awaitPort = s.serveAhead.serveAhead := by
  rw [State.awaitPort, endGrant_free s free]

/-- Waiting for the mirror writer's record first (R33). -/
theorem awaitPort_mirror {s : State} (free : s.noticeGrant = none) (last : s.lastServed = .passage) (asks : mirrorAsks s) :
    s.awaitPort = s.mirrorGrant.awaitPort := by
  have waits : s.mirrorWaits = true := (mirrorWaits_iff s).mpr asks
  have first : s.serveAhead = s.mirrorGrant := by
    have next := grantNext_passage s
    simp only [last, waits, if_true] at next
    simp [State.serveAhead, next]
  have record : s.nextRecord.isSome = true := (isSome_nextRecord s).mpr asks.2
  have freed : s.mirrorGrant.noticeGrant = none := (mirrorGrant_noticeGrant s).trans free
  rw [awaitPort_free free, awaitPort_free freed, first]
  exact (serveAhead_ready _ (serveAhead_portReady freed (mirrorGrant_lastServed s record))).symm

/-- Waiting for the held notice first (R33). -/
theorem awaitPort_notice {s : State} (free : s.noticeGrant = none) (held : s.held ≠ none) (next : noticeComesNext s)
    (last : s.lastServed ≠ .notice) : s.awaitPort = s.beginGrant.awaitPort := by
  have waits : s.noticeWaits = true := (noticeWaits_free free).mpr held
  have first : s.serveAhead = s.beginGrant.endGrant := by
    have turn := grantNext_passage s
    unfold noticeComesNext at next
    rw [← mirrorWaits_iff] at next
    have notice : s.grantNext (.passage :: s.portWaiters) = some .notice := by
      rw [turn]
      cases e : s.lastServed with
      | notice => exact absurd e last
      | mirror => simp [waits]
      | passage => simp [waits, next.resolve_right (by simp [e])]
    simp [State.serveAhead, notice]
  have ready : s.beginGrant.endGrant.portReady = true :=
    portReady_of_notice (endGrant_noticeGrant _) (beginGrant_lastServed s (Option.isSome_iff_ne_none.mpr held))
  rw [awaitPort_free free, first, State.awaitPort, serveAhead_ready _ ready, serveAhead_ready _ ready]

theorem beginGrant_held {s : State} {n : Notice} (held : s.held = some n) : s.beginGrant = { s with
    noticeGrant := some { notice := n, start := s.writeIx, publish := true }, lastServed := .notice } := by
  rw [State.beginGrant, held]
  rfl

theorem arbitrate_notice {s : State} (free : s.noticeGrant = none) (held : s.held ≠ none) (next : noticeComesNext s) :
    s.arbitrate = s.beginGrant := by
  simp [State.arbitrate, free, (grantNext_held s held free).mpr next]

theorem arbitrate_rests {s : State} (h : s.noticeGrant ≠ none ∨ s.held = none ∨ ¬ noticeComesNext s) :
    s.arbitrate = s := by
  unfold State.arbitrate
  split
  case isFalse => rfl
  case isTrue turn =>
    rw [Bool.and_eq_true, decide_eq_true_eq, Option.isNone_iff_eq_none] at turn
    obtain ⟨free, notice⟩ := turn
    by_cases held : s.held = none
    · simp [State.beginGrant, held]
    · exact absurd ((grantNext_held s held free).mp notice) ((h.resolve_left (not_not_intro free)).resolve_left held)

theorem awaitPort_shape (s : State) : s.awaitPort = { s with
    mem := s.awaitPort.mem, badParity := s.awaitPort.badParity, held := s.awaitPort.held,
    writeIx := s.awaitPort.writeIx, dspFlags := s.awaitPort.dspFlags, dirty := s.awaitPort.dirty,
    promo := s.awaitPort.promo, lastWritten := s.awaitPort.lastWritten, lastServed := s.awaitPort.lastServed,
    noticeGrant := none } := by
  have shape := portOnly_awaitPort s
  unfold State.portOnly at shape
  rwa [awaitPort_noticeGrant] at shape

/-- A general access with sound parity is the same access once its turn has come. -/
theorem busAccess_awaitPort {s : State} {a : Access} (attends : s.attends = true) (tag : a.tag ≠ .three)
    (whole : wholeGeneral a = true) (sound : addrParityOk a = true)
    (data : ∀ d ∈ transferData a.transfer, wordParityOk d = true) : s.busAccess a = s.awaitPort.busAccess a := by
  have attends' : s.awaitPort.attends = true := by
    rw [awaitPort_shape]
    exact attends
  have words : dataParityOk a = true := by
    refine List.all_eq_true.mpr fun w mem => data w.2 ?_
    exact (List.of_mem_zip (show (w.1, w.2) ∈ (takenAddrs a).zip (transferData a.transfer) from mem)).2
  have fails (t : State) : t.busParityFails a = false := by simp [State.busParityFails, sound, words]
  have fates (t : State) (on : t.attends = true) : (t.fateOf a).usesPort = true ∧ (∀ v, t.fateOf a ≠ .watch v)
      ∧ t.fateOf a = match a.transfer with
        | .read _ => .fetch (coveredAddrs a)
        | .write _ _ => .pass ((takenWords a).map fun w => (w.1, w.2.data)) := by
    cases transfer : a.transfer with
    | read more =>
      rw [fateOf_generalRead on tag (by rw [transfer]; rfl) whole]
      exact ⟨rfl, by simp, rfl⟩
    | write first more =>
      rw [(fateOf_generalWrite on tag transfer whole).2]
      exact ⟨rfl, by simp, rfl⟩
  obtain ⟨port, plain, fate⟩ := fates s attends
  obtain ⟨port', plain', fate'⟩ := fates s.awaitPort attends'
  rw [busAccess_port s a (fails s) port plain, busAccess_port _ a (fails _) port' plain', awaitPort_awaitPort, fate, fate']

/-! ### Rows that write a watched word -/

/-- The event changes the outside in its mode alone. -/
def State.quietOutside (s u : State) : Prop := u.outside = { s.outside with mode := u.mode }

theorem quietOutside_of_outside {s u : State} (h : u.outside = s.outside) : s.quietOutside u := by
  have mode : u.mode = s.mode := congrArg Outside.mode h
  unfold State.quietOutside
  rw [h, mode]
  rfl

theorem quietOutside_judgeService {s u : State} (h : u.outside = s.outside) : s.quietOutside u.judgeService := by
  unfold State.judgeService
  split
  · have shape : u.enterService.outside = { u.outside with mode := .service } := by
      simp only [State.enterService, outside_notify, outside_restartWet]
      rfl
    have mode : u.enterService.mode = .service := congrArg Outside.mode shape
    rw [State.quietOutside, shape, mode, h]
  · exact quietOutside_of_outside h

theorem quietOutside_reportEvent (s : State) (c : CellIx) (v : Word) : s.quietOutside (s.reportEvent c v) := by
  unfold State.reportEvent
  dsimp only
  split
  · exact quietOutside_of_outside (by simp)
  · split
    · exact quietOutside_of_outside (by simp)
    · exact quietOutside_judgeService (by simp)

/-- The shape of a row that writes a watched word: the event, then the word in its turn. -/
theorem handsOver {s u : State} {c : Instr} {a : BitVec 18} {v : Word} (memory : s.memoryLaw) (quiet : s.quietOutside u)
    (row : exec c s = .next (((u.atTurn s.portReady).storeWatched a v).arbitrate)) :
    ∃ t, exec c s = .next t.arbitrate ∧ s.tookWord u t a v := by
  have mem : u.mem = s.mem := congrArg Outside.mem quiet
  exact ⟨_, row, tookWord_storeWatched s u a v (by rw [mem]; exact memory)⟩

theorem handsOverFirst_of_row {s u : State} {c : Instr} {a : BitVec 18} {v : Word} (memory : s.memoryLaw)
    (quiet : s.quietOutside u)
    (row : exec c s = .next (((u.atTurn s.portReady).storeWatched a v).arbitrate)) : handsOverFirst s c a v := by
  obtain ⟨t, next, took⟩ := handsOver memory quiet row
  exact ⟨u, t, next, took, quiet⟩

theorem running_of_modes {s : State} (h : s.mode = .recovery ∨ s.mode = .service) : s.running = true := by
  rcases h with e | e <;> simp [State.running, e]

/-- Settles O16, by the arbiter's cycle. -/
theorem portInTurn : Obligations.PortInTurn := by
  refine ⟨portReady_iff, fun s => ⟨awaitPort_portReady s, awaitPort_ready s, awaitPort_shape s⟩, fun s _ => ?_,
    fun s free => ⟨awaitPort_mirror free, fun n held next => ?_⟩, fun s => arbitrate_rests,
    fun s a u attends tag whole sound data => ?_, fun s memory modes => ?_⟩
  · rw [State.awaitPort, State.awaitPort, endGrant_free _ (endGrant_noticeGrant s)]
  · have some : s.held ≠ none := by simp [held]
    rw [← beginGrant_held held]
    exact ⟨awaitPort_notice free some next, arbitrate_notice free some next⟩
  · exact congrArg _ (busAccess_awaitPort (s := s.upset u) attends tag whole sound data)
  · have runs := running_of_modes modes
    refine ⟨fun c w v => ?_, fun c v => ?_, fun z v => ?_, fun z v => ?_, fun k w v idle => ?_⟩
    · have low : w.val < 4 := by omega
      exact handsOverFirst_of_row memory (quietOutside_of_outside (outside_cellWrite s c w v))
        ((congrArg _ (busAccess_cell s c ⟨w.val, low⟩ v runs)).trans (by simp [State.watchedCopy]))
    · exact handsOverFirst_of_row memory (quietOutside_reportEvent s c v) (congrArg _ (busAccess_cell s c 3 v runs))
    · exact handsOverFirst_of_row memory (quietOutside_of_outside (outside_zoneSample s z _))
        (congrArg _ (busAccess_figure s z false v runs))
    · exact handsOverFirst_of_row memory (quietOutside_of_outside (outside_moisture s z _))
        (congrArg _ (busAccess_figure s z true v runs))
    · exact handsOverFirst_of_row memory (quietOutside_of_outside (outside_draftWrite s k w v))
        (congrArg _ (busAccess_draft s k w v runs idle))

end Sys2Proof.Machine
end

section
/-! SUPPORT. The notice writer and the mirror writer (R33, R35, R168 to R171). -/
namespace Sys2Proof.Machine
open Sys2Proof
set_option Elab.async false

/-! ### The threshold and the publication of a notice (R169) -/

theorem noticeThreshold_eq (s : State) : s.noticeThreshold = if s.tuning[6] = 0 then 768 else (s.tuning[6]).toNat := rfl

theorem judgeThreshold_shape (s : State) : s.judgeThreshold = { s with
    dspFlags := s.judgeThreshold.dspFlags, dirty := s.judgeThreshold.dirty } := by
  unfold State.judgeThreshold
  split <;> rfl

theorem dsp_judgeThreshold (s : State) (f : DspFlag) : s.judgeThreshold.dsp f
    = (s.dsp f || decide (f = .noticeThreshold ∧ s.noticeThreshold ≤ s.fill)) := by
  unfold State.judgeThreshold
  split <;> rename_i reached <;> simp [reached]

theorem marks_judgeThreshold {s t : State} {l : List MirrorRec} (h : s.marks t l)
    (mono : t.dspFlags = s.dspFlags ∨ ∃ p, t.dspFlags = s.dspFlags ||| p) : s.marks t.judgeThreshold l := by
  unfold State.judgeThreshold
  split
  · exact marks_setDsp h _ mono
  · exact h

/-- The held notice is published: the writer is empty, the write index goes on, and the notice flags are judged. -/
theorem publish_spec {s : State} {n : Notice} (held : s.held = some n) :
    s.publish = { s with
        held := none, writeIx := s.writeIx + BitVec.ofNat 10 (n.payload.length + 2), dspFlags := s.publish.dspFlags,
        dirty := s.publish.dirty }
      ∧ (∀ f, s.publish.dsp f = (s.dsp f || decide (f = .noticesPending)
          || decide (f = .noticeThreshold
            ∧ (if s.tuning[6] = 0 then 768 else (s.tuning[6]).toNat) ≤ (s.publish.writeIx - s.readIx).toNat)))
      ∧ s.marks s.publish [.control .writeIx] := by
  have length : n.length = n.payload.length + 2 := Nat.add_comm _ _
  have steps : s.publish = ((({ s with
      held := none, writeIx := s.writeIx + BitVec.ofNat 10 (n.payload.length + 2) } : State).markDirty
        (.control .writeIx)).setDsp .noticesPending).judgeThreshold := by
    rw [State.publish, held, ← length]
  have moved : s.publish.writeIx = s.writeIx + BitVec.ofNat 10 (n.payload.length + 2) := by
    rw [steps, judgeThreshold_shape]
    rfl
  refine ⟨?_, fun f => ?_, ?_⟩
  · conv => { lhs; rw [steps, judgeThreshold_shape] }
    rw [steps]
    rfl
  · rw [moved]
    conv => { lhs; rw [steps, dsp_judgeThreshold, dsp_setDsp] }
    rfl
  · rw [steps]
    refine marks_judgeThreshold (marks_setDsp (marks_markDirty (t := { s with
      held := none, writeIx := s.writeIx + BitVec.ofNat 10 (n.payload.length + 2) }) ?_ _) _ (.inl rfl)) (.inr ⟨_, rfl⟩)
    exact marks_dirty_same _ _ rfl rfl rfl

theorem publish_none {s : State} (held : s.held = none) : s.publish = s := by
  rw [State.publish, held]

theorem publish_badParity (s : State) : s.publish.badParity = s.badParity := by
  cases held : s.held with
  | none => rw [publish_none held]
  | some n => rw [(publish_spec held).1]

/-! ### The ring (R169) -/

theorem ringAddr_inj {a b : BitVec 10} (h : ringAddr a = ringAddr b) : a = b := by
  have num := congrArg BitVec.toNat h
  simp only [ringAddr, BitVec.toNat_ofNat] at num
  exact BitVec.eq_of_toNat_eq (by omega)

theorem mem_grantWords (g : NoticeGrant) (p : BitVec 18 × Word) :
    p ∈ g.words ↔ ∃ j, g.notice.words[j]? = some p.2 ∧ p.1 = ringAddr (g.start + BitVec.ofNat 10 j) := by
  obtain ⟨a, w⟩ := p
  unfold NoticeGrant.words
  rw [List.mem_map]
  constructor
  · rintro ⟨⟨v, j⟩, mem, e⟩
    cases e
    exact ⟨j, List.mem_zipIdx_iff_getElem?.mp mem, rfl⟩
  · rintro ⟨j, here, rfl⟩
    exact ⟨(w, j), List.mem_zipIdx_iff_getElem?.mpr here, rfl⟩

theorem length_words (n : Notice) : n.words.length = n.payload.length + 2 := by
  simp [Notice.words]

/-- A notice that fits the ring takes each offset once. -/
theorem nodup_grantWords (g : NoticeGrant) (fits : g.notice.payload.length + 2 ≤ 1023) :
    (g.words.map Prod.fst).Nodup := by
  have fst : g.words.map Prod.fst
      = (List.range (g.notice.payload.length + 2)).map fun j => ringAddr (g.start + BitVec.ofNat 10 j) := by
    rw [← length_words]
    refine List.ext_getElem (by simp [NoticeGrant.words]) fun i h _ => ?_
    simp [NoticeGrant.words]
  rw [fst]
  refine List.Nodup.map_on (fun i hi j hj e => ?_) List.nodup_range
  simp only [List.mem_range] at hi hj
  have same : BitVec.ofNat 10 i = BitVec.ofNat 10 j := by simpa using ringAddr_inj e
  have num := congrArg BitVec.toNat same
  simp only [BitVec.toNat_ofNat] at num
  omega

/-- What the notice writer's grant leaves in plan memory. -/
theorem endGrant_words {s : State} {g : NoticeGrant} (granted : s.noticeGrant = some g) (a : BitVec 18) :
    s.endGrant.readWord a = (({ s with noticeGrant := none } : State).writeWords g.words).readWord a
      ∧ s.endGrant.wordBad a = (({ s with noticeGrant := none } : State).writeWords g.words).wordBad a := by
  unfold State.endGrant State.readWord State.wordBad
  rw [granted]
  dsimp only
  split
  · rw [publish_mem, publish_badParity]
    exact ⟨rfl, rfl⟩
  · exact ⟨rfl, rfl⟩

/-- The notice stands in the ring from its first offset onward, and nothing else has been written (R169). -/
theorem endGrant_notice {s : State} {g : NoticeGrant} (memory : s.memoryLaw) (granted : s.noticeGrant = some g)
    (fits : g.notice.payload.length + 2 ≤ 1023) :
    (∀ j w, g.notice.words[j]? = some w → s.endGrant.readWord (ringAddr (g.start + BitVec.ofNat 10 j)) = w
        ∧ s.endGrant.wordBad (ringAddr (g.start + BitVec.ofNat 10 j)) = false)
      ∧ ∀ a, (∀ j, j < g.notice.payload.length + 2 → a ≠ ringAddr (g.start + BitVec.ofNat 10 j)) →
          s.endGrant.readWord a = s.readWord a ∧ s.endGrant.wordBad a = s.wordBad a := by
  have bad (a : BitVec 18) := wordBad_writeWords g.words { s with noticeGrant := none } a
  refine ⟨fun j w here => ?_, fun a apart => ?_⟩
  · have mem := (mem_grantWords g (ringAddr (g.start + BitVec.ofNat 10 j), w)).mpr ⟨j, here, rfl⟩
    have read := readWord_writeWords g.words { s with noticeGrant := none } memory (nodup_grantWords g fits) _ mem
    obtain ⟨reads, bads⟩ := endGrant_words granted (ringAddr (g.start + BitVec.ofNat 10 j))
    rw [reads, bads]
    exact ⟨read, (bad _).trans (if_pos (List.mem_map.mpr ⟨_, mem, rfl⟩))⟩
  · have elsewhere : ∀ p ∈ g.words, p.1 ≠ a := by
      intro p mem e
      obtain ⟨j, here, addr⟩ := (mem_grantWords g p).mp mem
      refine apart j ?_ (e ▸ addr)
      rw [← length_words]
      exact (List.getElem?_eq_some_iff.mp here).1
    have read := readWord_writeWords_other g.words { s with noticeGrant := none } memory a elsewhere
    obtain ⟨reads, bads⟩ := endGrant_words granted a
    rw [reads, bads]
    refine ⟨read, (bad a).trans (if_neg fun listed => ?_)⟩
    obtain ⟨p, mem, e⟩ := List.mem_map.mp listed
    exact elsewhere p mem e

/-- The end of a grant that a reset has taken back leaves its words alone (R171). -/
theorem endGrant_unpublished {s : State} {g : NoticeGrant} (granted : s.noticeGrant = some g) (back : g.publish = false) :
    s.endGrant = { s with noticeGrant := none, mem := s.endGrant.mem, badParity := s.endGrant.badParity } := by
  have written : s.endGrant = ({ s with noticeGrant := none } : State).writeWords g.words := by
    simp [State.endGrant, granted, back]
  conv => { lhs; rw [written, writeWords_eq] }
  rw [written]

/-- The end of a grant publishes the held notice (R169). -/
theorem endGrant_published {s : State} {g : NoticeGrant} {n : Notice} (granted : s.noticeGrant = some g)
    (publish : g.publish = true) (held : s.held = some n) :
    s.endGrant = { s with
        noticeGrant := none, mem := s.endGrant.mem, badParity := s.endGrant.badParity, held := none,
        writeIx := s.writeIx + BitVec.ofNat 10 (n.payload.length + 2), dspFlags := s.endGrant.dspFlags,
        dirty := s.endGrant.dirty }
      ∧ (∀ f, s.endGrant.dsp f = (s.dsp f || decide (f = .noticesPending)
          || decide (f = .noticeThreshold
            ∧ (if s.tuning[6] = 0 then 768 else (s.tuning[6]).toNat) ≤ (s.endGrant.writeIx - s.readIx).toNat)))
      ∧ s.marks s.endGrant [.control .writeIx] := by
  have written : s.endGrant = (({ s with noticeGrant := none } : State).writeWords g.words).publish := by
    simp [State.endGrant, granted, publish]
  obtain ⟨m, b, words⟩ : ∃ m b, ({ s with noticeGrant := none } : State).writeWords g.words
      = { s with noticeGrant := none, mem := m, badParity := b } := ⟨_, _, writeWords_eq _ _⟩
  rw [words] at written
  obtain ⟨rest, dsp, marks⟩ := publish_spec (s := { s with noticeGrant := none, mem := m, badParity := b }) held
  rw [written]
  refine ⟨?_, dsp, marks_from marks⟩
  rw [publish_mem, publish_badParity]
  exact rest

/-! ### The mirror writer (R35) -/

theorem grantNext_mirror (s : State) :
    s.grantNext s.portWaiters = some .mirror
      ↔ s.mirrorWaits = true ∧ (s.noticeWaits = false ∨ s.lastServed ≠ .mirror) := by
  unfold State.grantNext State.portWaiters
  cases s.lastServed <;> cases s.mirrorWaits <;> cases s.noticeWaits <;> simp [portCycle]

/-- The mirror writer takes the record that R35 chooses. -/
theorem nextRecord_of_chosen {s : State} {r : MirrorRec} (sorted : s.marksLaw) (h : recordChosen s r) :
    s.nextRecord = some r := by
  unfold State.nextRecord
  rcases h with promoted | ⟨none, dirty, ahead | round⟩
  · cases promo : s.promo with
    | nil => rw [promo] at promoted; cases promoted
    | cons q l => rw [promo] at promoted; exact promoted
  · obtain ⟨beyond, least⟩ := ahead
    simp only [none]
    cases found : s.dirty.find? (fun q => decide (s.lastWritten < q.addr)) with
    | none =>
      have nothing := List.find?_eq_none.mp found r dirty
      simp [beyond] at nothing
    | some q =>
      obtain ⟨past, before, after, split, none⟩ := List.find?_eq_some_iff_append.mp found
      have past : s.lastWritten < q.addr := by simpa using past
      have mem : q ∈ s.dirty := List.mem_of_find?_eq_some found
      have le := least q mem past
      rw [split] at dirty
      rcases List.mem_append.mp dirty with early | late
      · have short := none r early
        simp [beyond] at short
      · rcases List.mem_cons.mp late with same | later
        · rw [same]
        · have order : s.dirty.Pairwise fun a b => a.addr < b.addr := sorted
          rw [split, List.pairwise_append] at order
          have lt := (List.pairwise_cons.mp order.2.1).1 r later
          omega
  · obtain ⟨behind, least⟩ := round
    have nothing : s.dirty.find? (fun q => decide (s.lastWritten < q.addr)) = Option.none := by
      rw [List.find?_eq_none]
      intro q mem
      have le := behind q mem
      simpa using le
    simp only [none, nothing]
    have order : s.dirty.Pairwise fun a b => a.addr < b.addr := sorted
    cases list : s.dirty with
    | nil => rw [list] at dirty; cases dirty
    | cons q l =>
      rw [list] at dirty order least
      rcases List.mem_cons.mp dirty with same | later
      · rw [same]; rfl
      · have lt := (List.pairwise_cons.mp order).1 r later
        have le := least q List.mem_cons_self
        omega

theorem nodup_of_marksLaw {s : State} (sorted : s.marksLaw) : s.dirty.Nodup :=
  List.Pairwise.imp (fun lt e => by rw [e] at lt; exact lt.false) sorted

/-- A grant of the mirror writer makes its record's words stand (R35). -/
theorem mirrorGrant_spec {s : State} {r : MirrorRec} (memory : s.memoryLaw) (next : s.nextRecord = some r) :
    s.mirrorGrant = { s with
        dirty := s.dirty.erase r, promo := s.promo.erase r, lastWritten := r.addr, mem := s.mirrorGrant.mem,
        badParity := s.mirrorGrant.badParity, lastServed := .mirror }
      ∧ (∀ p ∈ s.recordWords r, s.mirrorGrant.readWord p.1 = p.2 ∧ s.mirrorGrant.wordBad p.1 = false)
      ∧ ∀ a, (∀ p ∈ s.recordWords r, p.1 ≠ a) →
          s.mirrorGrant.readWord a = s.readWord a ∧ s.mirrorGrant.wordBad a = s.wordBad a := by
  have granted : s.mirrorGrant = ((s.takeRecord r).writeWords (s.recordWords r)).served .mirror := by
    rw [State.mirrorGrant, next]
  have bad (a : BitVec 18) := wordBad_writeWords (s.recordWords r) (s.takeRecord r) a
  refine ⟨?_, fun p mem => ?_, fun a apart => ?_⟩
  · conv => { lhs; rw [granted, writeWords_eq] }
    rw [granted]
    rfl
  · rw [granted]
    exact ⟨readWord_writeWords _ (s.takeRecord r) memory (nodup_recordWords s r) p mem,
      (bad p.1).trans (if_pos (List.mem_map.mpr ⟨p, mem, rfl⟩))⟩
  · rw [granted]
    refine ⟨readWord_writeWords_other _ (s.takeRecord r) memory a apart, (bad a).trans (if_neg fun listed => ?_)⟩
    obtain ⟨p, mem, e⟩ := List.mem_map.mp listed
    exact apart p mem e

/-- Settles O55, writer by writer. -/
theorem writers : Obligations.Writers := by
  refine ⟨fun s => ⟨fun rests => ?_, fun n rest works empty staged => ⟨fun fits => ?_, fun full => ?_⟩⟩,
    fun s memory => ⟨fun free => ?_, fun g granted fits => ?_⟩,
    fun s memory sorted => ⟨fun rests => ?_, fun r works free turn chosen => ?_⟩⟩
  · change Host.Outcome.next s.noticeAdmission = _
    congr 1
    unfold State.noticeAdmission
    split
    · rfl
    · rename_i on
      have staged : s.staging = [] := by
        rcases rests with e | e | e
        · exact absurd (.inl e) on
        · exact absurd (.inr (Option.isSome_iff_ne_none.mpr e)) on
        · exact e
      rw [staged]
  · change Host.Outcome.next s.noticeAdmission = _
    have room : n.length ≤ s.free := by
      unfold Notice.length State.free State.fill
      omega
    simp [State.noticeAdmission, works, empty, staged, room]
  · have room : ¬ n.length ≤ s.free := by
      unfold Notice.length State.free State.fill
      omega
    have dropped : exec .noticeAdmission s = .next (({ s with staging := rest } : State).setDsp .noticeLost) := by
      change Host.Outcome.next s.noticeAdmission = _
      simp [State.noticeAdmission, works, empty, staged, room, State.dropNotice]
    exact ⟨_, dropped, rfl, dsp_setDsp _ _, marks_from (marks_setDsp_self { s with staging := rest } .noticeLost)⟩
  · change Host.Outcome.next s.noticePublish = _
    simp [State.noticePublish, free]
  · have ended : exec .noticePublish s = .next s.endGrant.arbitrate := by
      change Host.Outcome.next s.noticePublish = _
      simp [State.noticePublish, granted]
    obtain ⟨words, others⟩ := endGrant_notice memory granted fits
    exact ⟨s.endGrant, ended, rfl, words, others, endGrant_unpublished granted,
      fun n publish held => endGrant_published granted publish held⟩
  · change Host.Outcome.next s.mirrorWrite = _
    congr 1
    unfold State.mirrorWrite
    split
    · rename_i turn
      rw [Bool.and_eq_true, decide_eq_true_eq, Option.isNone_iff_eq_none, grantNext_mirror, mirrorWaits_iff] at turn
      obtain ⟨free, asks, other⟩ := turn
      rcases rests with quiet | busy | ⟨held, last⟩
      · exact absurd asks quiet
      · exact absurd free busy
      · have waits := (noticeWaits_free free).mpr held
        exact absurd last (other.resolve_left (by simp [waits]))
    · rfl
  · have next := nextRecord_of_chosen sorted chosen
    have asks : s.mirrorWaits = true := by simp [State.mirrorWaits, works, next]
    have mirror : s.grantNext s.portWaiters = some .mirror := by
      refine (grantNext_mirror s).mpr ⟨asks, turn.imp (fun empty => ?_) id⟩
      rw [← Bool.not_eq_true, noticeWaits_free free]
      exact not_not_intro empty
    have row : exec .mirrorRecordWrite s = .next s.mirrorGrant.arbitrate := by
      change Host.Outcome.next s.mirrorWrite = _
      simp [State.mirrorWrite, free, mirror]
    obtain ⟨shape, words, others⟩ := mirrorGrant_spec memory next
    have once := nodup_of_marksLaw sorted
    have dirty : s.mirrorGrant.dirty = s.dirty.erase r := by rw [shape]
    refine ⟨_, row, rfl, shape, ?_, fun q ne => ?_, words, others⟩
    · rw [dirty]
      exact once.not_mem_erase
    · rw [dirty]
      exact List.mem_erase_of_ne ne

end Sys2Proof.Machine
end

section
/-! SUPPORT. Writes of report cells, moisture figures and slot drafts (R58, R89, R137). -/
namespace Sys2Proof.Machine
open Sys2Proof
set_option Elab.async false

/-! ### The rows of watched words -/

theorem took_cell {s : State} (memory : s.memoryLaw) (modes : s.mode = .recovery ∨ s.mode = .service) (c : CellIx)
    (w : Fin 3) (v : Word) :
    ∃ t, exec (.reportCellWrite c w v) s = .next t.arbitrate ∧ s.tookWord (s.cellWrite c w v) t (cellAddr c w.val) v := by
  have low : w.val < 4 := by omega
  exact handsOver memory (quietOutside_of_outside (outside_cellWrite s c w v))
    ((congrArg _ (busAccess_cell s c ⟨w.val, low⟩ v (running_of_modes modes))).trans (by simp [State.watchedCopy]))

theorem took_report {s : State} (memory : s.memoryLaw) (modes : s.mode = .recovery ∨ s.mode = .service) (c : CellIx)
    (v : Word) : ∃ t, exec (.report c v) s = .next t.arbitrate ∧ s.tookWord (s.reportEvent c v) t (cellAddr c 3) v :=
  handsOver memory (quietOutside_reportEvent s c v) (congrArg _ (busAccess_cell s c 3 v (running_of_modes modes)))

theorem took_sample {s : State} (memory : s.memoryLaw) (modes : s.mode = .recovery ∨ s.mode = .service) (z : ZoneIx)
    (v : Word) : ∃ t, exec (.sample z v) s = .next t.arbitrate
      ∧ s.tookWord (s.zoneSample z (presenceOf v)) t (figureAddr z false) v :=
  handsOver memory (quietOutside_of_outside (outside_zoneSample s z _))
    (congrArg _ (busAccess_figure s z false v (running_of_modes modes)))

theorem took_moisture {s : State} (memory : s.memoryLaw) (modes : s.mode = .recovery ∨ s.mode = .service) (z : ZoneIx)
    (v : Word) : ∃ t, exec (.moistureFigureWrite z v) s = .next t.arbitrate
      ∧ s.tookWord (s.moisture z (presenceOf v)) t (figureAddr z true) v :=
  handsOver memory (quietOutside_of_outside (outside_moisture s z _))
    (congrArg _ (busAccess_figure s z true v (running_of_modes modes)))

theorem took_draft {s : State} (memory : s.memoryLaw) (modes : s.mode = .recovery ∨ s.mode = .service) (k : SlotIx)
    (w : Fin 11) (v : Word) (idle : (s.slot k).state = .idle) :
    ∃ t, exec (.slotDraftWrite k w v) s = .next t.arbitrate
      ∧ s.tookWord (s.draftWrite k w v) t (slotAddr k w.val) v :=
  handsOver memory (quietOutside_of_outside (outside_draftWrite s k w v))
    (congrArg _ (busAccess_draft s k w v (running_of_modes modes) idle))

/-! ### Cells and moisture figures -/

theorem written_eq (c : CellCapture) (i : Fin 3) (v : Word) : c.written i v = { c with
    word0 := if i.val = 0 then some v else c.word0, word1 := if i.val = 1 then some v else c.word1,
    word2 := if i.val = 2 then some v else c.word2 } := by
  match i with
  | 0 => rfl
  | 1 => rfl
  | 2 => rfl

/-- Settles O20. -/
theorem cellAndMoistureWrites : Obligations.CellAndMoistureWrites := by
  refine ⟨fun s c i v memory modes => ?_, fun s z v memory modes => ?_⟩
  · obtain ⟨t, row, took⟩ := took_cell memory modes c i v
    refine ⟨_, t, row, took, rfl, fun d ne => cell_setCell_other s c d _ ne.symm, ?_⟩
    rw [State.cellWrite, cell_setCell_same, written_eq]
  · obtain ⟨t, row, took⟩ := took_moisture memory modes z v
    refine ⟨_, t, row, took, ?_⟩
    unfold State.moisture
    by_cases inside : z.val < s.z
    · rw [if_pos inside, if_pos inside]
      exact ⟨rfl, zone_setZone_same s z _, fun y ne => zone_setZone_other s z y _ ne.symm⟩
    · rw [if_neg inside, if_neg inside]
      exact ⟨rfl, rfl, fun _ _ => rfl⟩

/-! ### Drafts -/

theorem draftWrite_shape (s : State) (k : SlotIx) (w : Fin 11) (v : Word) :
    s.draftWrite k w v = { s with slots := (s.draftWrite k w v).slots } := by
  have status : ({ s.slot k with draft := (s.slot k).draft.written w v } : Slot).statusWord = (s.slot k).statusWord := rfl
  have progress : ({ s.slot k with draft := (s.slot k).draft.written w v } : Slot).progressWord
      = (s.slot k).progressWord := rfl
  simp [State.draftWrite, State.setSlot, State.markIf, status, progress]

theorem written_header (d : Draft) (w : Fin 11) (v : Word) (h : w.val = 0) :
    d.written w v = { d with scrubber := byteAt v 0, mode := byteAt v 1, length := byteAt v 2 } := by
  rw [Draft.written, dif_pos h]
  rfl

theorem written_rest (d : Draft) (w : Fin 11) (v : Word) (h : w.val ≠ 0) : (d.written w v).scrubber = d.scrubber
    ∧ (d.written w v).mode = d.mode ∧ (d.written w v).length = d.length := by
  rw [Draft.written, dif_neg h]
  exact ⟨rfl, rfl, rfl⟩

theorem drafter_operations (k : SlotIx) : drafterOf k = .operations ↔ 20 ≤ k.val := by
  rw [← not_lt]
  by_cases fleet : k.val < 20 <;> simp [drafterOf, isFleet, fleet]

/-- A draft write to a live slot is not allowed (R22). -/
theorem allows_liveDraft {s : State} (running : s.mode ≠ .noSite) (k : SlotIx) (w : Fin 11) (v : Word)
    (live : (s.slot k).state ≠ .idle) : s.allows (goodWrite (drafterOf k) (slotAddr k w.val) v) = false := by
  have word : w.val < 16 := by omega
  rw [allows_running s _ _ v running, placeOf_slot k ⟨w.val, word⟩, ← Bool.not_eq_true]
  intro both
  simp only [State.stateAllows, Bool.and_eq_true, Bool.or_eq_true, decide_eq_true_eq, Bool.not_eq_true', live_iff] at both
  rcases both.2 with high | idle
  · omega
  · exact live idle

/-- Settles O21. -/
theorem slotDraftWrite : Obligations.SlotDraftWrite := by
  intro s k i v memory modes
  refine ⟨fun idle => ?_, fun live => ?_⟩
  · obtain ⟨t, row, took⟩ := took_draft memory modes k i v idle
    refine ⟨_, t, (s.slot k).draft.written i v, row, took, draftWrite_shape s k i v,
      ⟨slot_setSlot_same s k _, fun j ne => slot_setSlot_other s k j _ ne.symm⟩, written_header _ i v, fun route => ?_⟩
    obtain ⟨scrubber, mode, length⟩ := written_rest (s.slot k).draft i v route
    refine ⟨scrubber, mode, length, fun j => (route_written _ i v j.val j.isLt).trans ?_⟩
    simp only [eq_comm]
  · have attends : s.attends = true := by rcases modes with e | e <;> simp [State.attends, e]
    have refused := allows_liveDraft (by rcases modes with e | e <;> simp [e]) k i v live
    have denied : exec (.slotDraftWrite k i v) s = .next (s.deny (goodWrite (drafterOf k) (slotAddr k i.val) v)) :=
      congrArg _ (busAccess_refused attends (.inr ⟨addrParityOk_goodWrite _ _ _, refused⟩))
    obtain ⟨rest, capture, marks⟩ := deny_spec s (goodWrite (drafterOf k) (slotAddr k i.val) v)
    obtain ⟨dsp, ops⟩ := deny_flags s (goodWrite (drafterOf k) (slotAddr k i.val) v)
    have tag : (goodWrite (drafterOf k) (slotAddr k i.val) v).tag = .operations ↔ 20 ≤ k.val := drafter_operations k
    refine ⟨_, denied, rest, capture, fun f => ?_, fun f => ?_, marks⟩
    · rw [dsp f]
      simp only [ne_eq, tag, not_le]
    · rw [ops f]
      simp only [tag]

end Sys2Proof.Machine
end

section
/-! SUPPORT. What the requests on held floor, the changes of slots and the re-evaluation of the queue leave alone: all
that lies outside, cells and zones, occupants and closures, and of the scrubbers all but the live slot (R39 to R49, R65 to
R74, R112 to R114). -/
namespace Sys2Proof.Machine
open Sys2Proof
set_option Elab.async false

/-- The frame of a change of held floor and slots. A calm one, which starts and ends no waiting and grants nothing, keeps
besides the queue, the scrubbers, the operations flags and the claims. -/
structure FloorWork (calm : Prop) (s t : State) : Prop where
  outside : t.outside = s.outside
  cells : t.cells = s.cells
  zones : t.zones = s.zones
  scrub : ∀ x, t.scrub x = { s.scrub x with liveSlot := (t.scrub x).liveSlot }
  occupant : ∀ g, (t.seg g).occupant = (s.seg g).occupant
  closure : ∀ g, (t.seg g).closure = (s.seg g).closure
  still : calm → t.queue = s.queue ∧ t.scrubbers = s.scrubbers ∧ t.opsFlags = s.opsFlags
    ∧ ∀ g, (t.seg g).claims = (s.seg g).claims

section Work
variable {calm : Prop} {s t : State}

theorem FloorWork.refl (s : State) : FloorWork calm s s :=
  ⟨rfl, rfl, rfl, fun _ => rfl, fun _ => rfl, fun _ => rfl, fun _ => ⟨rfl, rfl, rfl, fun _ => rfl⟩⟩

theorem FloorWork.trans {u : State} (a : FloorWork calm s t) (b : FloorWork calm t u) : FloorWork calm s u where
  outside := b.outside.trans a.outside
  cells := b.cells.trans a.cells
  zones := b.zones.trans a.zones
  scrub x := by rw [b.scrub x, a.scrub x]
  occupant g := (b.occupant g).trans (a.occupant g)
  closure g := (b.closure g).trans (a.closure g)
  still c := by
    obtain ⟨queue, scrubbers, ops, claims⟩ := a.still c
    obtain ⟨queue', scrubbers', ops', claims'⟩ := b.still c
    exact ⟨queue'.trans queue, scrubbers'.trans scrubbers, ops'.trans ops, fun g => (claims' g).trans (claims g)⟩

theorem FloorWork.weaken (h : FloorWork True s t) : FloorWork calm s t := { h with still := fun _ => h.still trivial }

/-- A step that stores no segment, scrubber, zone or cell. -/
theorem FloorWork.aside {u : State} (h : FloorWork calm s t) (outside : u.outside = t.outside := by rfl)
    (segs : u.segs = t.segs := by rfl) (cells : u.cells = t.cells := by rfl) (zones : u.zones = t.zones := by rfl)
    (scrubbers : u.scrubbers = t.scrubbers := by rfl) (queue : calm → u.queue = t.queue := by exact fun _ => rfl)
    (ops : calm → u.opsFlags = t.opsFlags := by exact fun _ => rfl) : FloorWork calm s u := by
  have seg (g : SegIx) : u.seg g = t.seg g := by unfold State.seg; rw [segs]
  have scrub (x : ScrubIx) : u.scrub x = t.scrub x := by unfold State.scrub; rw [scrubbers]
  exact h.trans ⟨outside, cells, zones, fun x => by rw [scrub], fun g => by rw [seg], fun g => by rw [seg],
    fun c => ⟨queue c, scrubbers, ops c, fun g => by rw [seg]⟩⟩

/-- A store of a segment that keeps its occupant and closure. -/
theorem FloorWork.seg (h : FloorWork calm s t) (g : SegIx) (r : Seg) (occupant : r.occupant = (t.seg g).occupant := by rfl)
    (closure : r.closure = (t.seg g).closure := by rfl)
    (claims : calm → r.claims = (t.seg g).claims := by exact fun _ => rfl) : FloorWork calm s (t.setSeg g r) := by
  refine h.trans ⟨rfl, rfl, rfl, fun _ => rfl, fun f => ?_, fun f => ?_, fun c => ⟨rfl, rfl, rfl, fun f => ?_⟩⟩ <;>
    rw [seg_setSeg] <;> split
  · rename_i e; subst e; exact occupant
  · rfl
  · rename_i e; subst e; exact closure
  · rfl
  · rename_i e; subst e; exact claims c
  · rfl

theorem FloorWork.ite (c : Prop) [Decidable c] {a b : State} (ha : c → FloorWork calm s a) (hb : ¬ c → FloorWork calm s b) :
    FloorWork calm s (if c then a else b) := by
  split
  · exact ha ‹_›
  · exact hb ‹_›

theorem fw_foldl {α : Type} (f : State → α → State) (hf : ∀ t a, FloorWork calm s t → FloorWork calm s (f t a))
    (l : List α) (h : FloorWork calm s t) : FloorWork calm s (l.foldl f t) := by
  induction l generalizing t with
  | nil => exact h
  | cons a l ih => exact ih (hf t a h)

/-! ### Notices, slots and the pinch table -/

theorem fw_slot (h : FloorWork calm s t) (k : SlotIx) (r : Slot) : FloorWork calm s (t.setSlot k r) := h.aside

theorem fw_markDirty (h : FloorWork calm s t) (r : MirrorRec) : FloorWork calm s (t.markDirty r) := h.aside

theorem fw_noteFreeing (h : FloorWork calm s t) : FloorWork calm s t.noteFreeing := h.aside

theorem fw_clearFreeing (h : FloorWork calm s t) : FloorWork calm s t.clearFreeing := h.aside

theorem fw_setDsp (h : FloorWork calm s t) (f : DspFlag) : FloorWork calm s (t.setDsp f) := h.aside

theorem fw_notify (h : FloorWork calm s t) (kind : NoticeKind) (p : List Word) : FloorWork calm s (t.notify kind p) :=
  .ite _ (fun _ => h) (fun _ => .ite _ (fun _ => fw_setDsp h _) (fun _ => h.aside))

theorem fw_notifySlot (h : FloorWork calm s t) (kind : NoticeKind) (k : SlotIx) (b c : Nat) :
    FloorWork calm s (t.notifySlot kind k b c) := fw_notify h _ _

theorem fw_refreshPinchOf (h : FloorWork calm s t) (g : SegIx) (gain : Option ScrubIx) :
    FloorWork calm s (t.refreshPinchOf g gain) := by
  unfold State.refreshPinchOf
  split
  · exact h
  unfold State.refreshPinch
  split
  · split
    · exact h
    · exact h.aside
  · refine .ite _ (fun _ => h.aside) (fun _ => ?_)
    split
    · exact h.aside
    · exact h.aside

/-! ### Held floor -/

theorem fw_markWet (h : FloorWork calm s t) (g : SegIx) : FloorWork calm s (t.markWet g) :=
  FloorWork.seg (t := t.setDrying _) h.aside g _

theorem fw_suspendWet (h : FloorWork calm s t) (g : SegIx) : FloorWork calm s (t.suspendWet g) := by
  unfold State.suspendWet
  split
  · exact h
  · exact fw_noteFreeing (FloorWork.seg (t := t.dropEntry g) h.aside g _)

theorem fw_takeFleet (h : FloorWork calm s t) (k : SlotIx) (e : SegIx × Nat) : FloorWork calm s (t.takeFleet k e) :=
  have held := fw_refreshPinchOf (h.seg e.1 { t.seg e.1 with holder := some k }) e.1 (t.slot k).scrubber
  .ite _ (fun _ => fw_suspendWet held _) (fun _ => held)

theorem fw_removeClaim (grants : ¬ calm) (h : FloorWork calm s t) (k : SlotIx) (g : SegIx) :
    FloorWork calm s (t.removeClaim k g) :=
  .ite _ (fun _ => fw_noteFreeing (h.seg g _ rfl rfl (fun c => absurd c grants))) (fun _ => h)

theorem fw_takeHold (grants : ¬ calm) (h : FloorWork calm s t) (k : SlotIx) : FloorWork calm s (t.takeHold k) :=
  .ite _ (fun _ => fw_foldl _ (fun _ e m => fw_takeFleet m k e) _ h)
    (fun _ => fw_foldl _ (fun u g m => fw_removeClaim grants (m.seg g { u.seg g with holder := some k }) k g) _ h)

theorem fw_release (h : FloorWork calm s t) (k : SlotIx) (wet : Bool) (g : SegIx) :
    FloorWork calm s (t.release k wet g) := by
  refine .ite _ (fun _ => ?_) (fun _ => h)
  have freed := fw_noteFreeing (h.seg g { t.seg g with holder := none, pendingRel := false })
  have counted := FloorWork.ite (isFleet k = true) (fun _ => fw_refreshPinchOf freed g none) (fun _ => freed)
  exact .ite _ (fun _ => fw_markWet (counted.seg g _) g)
    (fun _ => .ite _ (fun _ => fw_markWet counted g) (fun _ => counted))

theorem fw_releaseWhere (h : FloorWork calm s t) (k : SlotIx) (pick : SegIx × Nat → Bool) :
    FloorWork calm s (t.releaseWhere k pick) := fw_foldl _ (fun _ e m => fw_release m k _ e.1) _ h

theorem fw_markPending (h : FloorWork calm s t) (k : SlotIx) (i : Nat) : FloorWork calm s (t.markPending k i) :=
  fw_foldl _ (fun u e m => m.seg e.1 { u.seg e.1 with pendingRel := true }) _ h

/-! ### Slots -/

theorem fw_setChanged (h : FloorWork calm s t) (k : SlotIx) : FloorWork calm s (t.setChanged k) :=
  .ite _ (fun _ => fw_slot h k _) (fun _ => h)

theorem fw_shorten (h : FloorWork calm s t) (k : SlotIx) (e : Nat) : FloorWork calm s (t.shorten k e) := by
  have told {u : State} (m : FloorWork calm s u) : FloorWork calm s (u.shortenedNotice k) :=
    fw_notifySlot (fw_markDirty m _) _ _ _ _
  exact .ite _ (fun _ => h) (fun _ => .ite _ (fun _ => told (fw_slot (fw_releaseWhere h k _) k _))
    (fun _ => told (fw_slot (fw_markPending h k _) k _)))

theorem fw_shortenBefore (h : FloorWork calm s t) (k : SlotIx) (want : SegIx → Bool) :
    FloorWork calm s (t.shortenBefore k want) := by
  unfold State.shortenBefore
  split
  · exact fw_shorten h k _
  · exact h

theorem fw_leaveQueue (grants : ¬ calm) (h : FloorWork calm s t) (k : SlotIx) : FloorWork calm s (t.leaveQueue k) :=
  h.aside (queue := fun c => absurd c grants)

/-- A scrubber's live slot is stored. -/
theorem fw_setLive (grants : ¬ calm) (h : FloorWork calm s t) (x : Option ScrubIx) (k : Option FleetIx) :
    FloorWork calm s (t.setLive x k) := by
  cases x with
  | none => exact h
  | some x =>
    refine h.trans ⟨rfl, rfl, rfl, fun y => ?_, fun _ => rfl, fun _ => rfl, fun c => absurd c grants⟩
    change (t.setScrub x { t.scrub x with liveSlot := k }).scrub y
      = { t.scrub y with liveSlot := ((t.setScrub x { t.scrub x with liveSlot := k }).scrub y).liveSlot }
    rw [scrub_setScrub]
    split
    · rename_i e; subst e; rfl
    · rfl

theorem fw_toIdle (h : FloorWork calm s t) (k : SlotIx) (res : Result) (i : Nat) : FloorWork calm s (t.toIdle k res i) := by
  have idle : FloorWork calm s ((t.setSlot k ((t.slot k).toIdle res i)).markSlotWords k) :=
    fw_markDirty (fw_markDirty (fw_slot h k _) _) _
  exact .ite _ (fun _ => fw_setChanged idle k) (fun _ => idle)

theorem fw_clearLiveOf (grants : ¬ calm) (h : FloorWork calm s t) (k : SlotIx) : FloorWork calm s (t.clearLiveOf k) :=
  .ite _ (fun _ => fw_setLive grants h _ _) (fun _ => h)

theorem fw_endWaiting (grants : ¬ calm) (h : FloorWork calm s t) (k : SlotIx) (f : Result × Nat) :
    FloorWork calm s (t.endWaiting k f) :=
  fw_notifySlot (fw_clearLiveOf grants (fw_toIdle (fw_leaveQueue grants h k) k _ _) k) _ _ _ _

theorem fw_grant (grants : ¬ calm) (h : FloorWork calm s t) (k : SlotIx) : FloorWork calm s (t.grant k) := by
  have left := fw_leaveQueue grants (fw_slot (fw_takeHold grants h k) k ((t.takeHold k).slot k).granted) k
  exact fw_notifySlot (fw_markDirty (fw_markDirty (fw_setLive grants left _ _) _) _) _ _ _ _

theorem fw_activate (grants : ¬ calm) (h : FloorWork calm s t) (k : SlotIx) : FloorWork calm s (t.activate k) := by
  have left := fw_leaveQueue grants (fw_slot (fw_takeHold grants h k) k ((t.takeHold k).slot k).activated) k
  refine fw_notifySlot ?_ _ _ _ _
  exact FloorWork.aside (fw_markDirty left (.slotStatus k)) (ops := fun c => absurd c grants)

theorem fw_reevalEntry (grants : ¬ calm) (h : FloorWork calm s t) (k : SlotIx) : FloorWork calm s (t.reevalEntry k) := by
  have noted (f : Result × Nat) : FloorWork calm s (t.stillWaiting k f) := fw_slot h k _
  refine .ite _ (fun _ => h) (fun _ => .ite _ (fun _ => ?_) (fun _ => ?_))
  · split
    · exact h
    split
    · exact fw_endWaiting grants h k _
    split
    · exact fw_grant grants h k
    · exact .ite _ (fun _ => noted _) (fun _ => fw_endWaiting grants h k _)
  · split
    · exact fw_activate grants h k
    · exact noted _

theorem fw_settle (h : FloorWork False s t) : FloorWork False s t.settle :=
  .ite _ (fun _ => fw_clearFreeing (fw_foldl _ (fun _ k m => fw_reevalEntry id m k) _ h)) (fun _ => h)

end Work

end Sys2Proof.Machine
end

section
/-! SUPPORT. What a sample does to its zone, and the entry to QUIET (R138 to R142, R148). -/
namespace Sys2Proof.Machine
open Sys2Proof
set_option Elab.async false

/-! ### Zone records -/

theorem setZone_setZone (s : State) (z : ZoneIx) (a b : Zone) : (s.setZone z a).setZone z b = s.setZone z b := by
  simp [State.setZone]

theorem setZone_zone (s : State) (z : ZoneIx) : s.setZone z (s.zone z) = s := by
  simp [State.setZone, State.zone]

theorem zone_of_zones {s t : State} (h : t.zones = s.zones) (z : ZoneIx) : t.zone z = s.zone z := by
  unfold State.zone
  rw [h]

theorem slot_of_slots {s t : State} (h : t.slots = s.slots) (k : SlotIx) : t.slot k = s.slot k := by
  unfold State.slot
  rw [h]

section Work
variable {calm : Prop} {s t : State}

theorem fw_zoneNotice (h : FloorWork calm s t) (kind : NoticeKind) (z : ZoneIx) :
    FloorWork calm s (t.zoneNotice kind z) := .ite _ (fun _ => fw_notify h _ _) (fun _ => h)

theorem fw_dropHolding (h : FloorWork calm s t) (z : ZoneIx) (k : SlotIx) : FloorWork calm s (t.dropHolding z k) :=
  .ite _ (fun _ => .ite _ (fun _ => fw_setChanged (fw_slot h k _) k) (fun _ => fw_slot h k _)) (fun _ => h)

theorem fw_addHolding (h : FloorWork calm s t) (z : ZoneIx) (k : SlotIx) : FloorWork calm s (t.addHolding z k) :=
  .ite _ (fun _ => fw_setChanged (fw_slot h k _) k) (fun _ => fw_slot h k _)

theorem fw_presentSlot (h : FloorWork calm s t) (z : ZoneIx) (k : SlotIx) : FloorWork calm s (t.presentSlot z k) :=
  .ite _ (fun _ => .ite _ (fun _ => fw_addHolding h z k) (fun _ => fw_shortenBefore h k _)) (fun _ => h)

end Work

/-! ### Entries to QUIET, SETTLING and PRESENT -/

/-- The record of a zone that enters SETTLING, or QUIET when the quiet time is 0 (R142). -/
def State.settledZone (s : State) (z : ZoneIx) (r : Zone) : Zone :=
  if (s.profile z).quietTime = 0 then { r with state := .quiet, stuckTimer := none, quietTimer := none }
  else { r with
    state := .settling, stuckTimer := none,
    quietTimer := some (s.clock + BitVec.ofNat 32 (10 * (s.profile z).quietTime)) }

theorem reachQuiet_work (s : State) (z : ZoneIx) :
    FloorWork True (s.setZone z { s.zone z with state := .quiet, quietTimer := none }) (s.reachQuiet z) :=
  fw_noteFreeing (fw_zoneNotice (fw_foldl _ (fun _ k m => fw_dropHolding m z (fleetSlot k)) _ (.refl _)) _ z)

theorem enterSettling_work (s : State) (z : ZoneIx) :
    FloorWork True (s.setZone z (s.settledZone z (s.zone z))) (s.enterSettling z) := by
  unfold State.enterSettling State.settledZone
  dsimp only
  split
  · have quiet := reachQuiet_work (s.setZone z { s.zone z with stuckTimer := none }) z
    rw [setZone_setZone, zone_setZone_same] at quiet
    exact quiet
  · exact .refl _

theorem enterPresent_work (s : State) (z : ZoneIx) :
    FloorWork True (s.setZone z ((s.zone z).entered (s.profile z) (s.after (s.profile z).stuckTenths))) (s.enterPresent z) :=
  fw_zoneNotice (fw_foldl _ (fun _ k m => fw_presentSlot m z (fleetSlot k)) _ (.refl _)) _ z

/-! ### The judgement of a sample (R139 to R141) -/

/-- What the judgement of a sample keeps of its zone's record: the values, and the halt timer but at an entry to PRESENT,
which stops it (R144). -/
structure Zone.Judged (r t : Zone) : Prop where
  filtered : t.filtered = r.filtered
  baseline : t.baseline = r.baseline
  moisture : t.moisture = r.moisture
  stopped : t.state = .present → r.state ≠ .present → r.state ≠ .leaving → t.haltTimer = none
  kept : (t.state = .present → r.state = .present ∨ r.state = .leaving) → t.haltTimer = r.haltTimer

/-- A judgement that is no entry to PRESENT. -/
theorem Zone.Judged.of_kept {r t : Zone} (entry : t.state = .present → r.state = .present ∨ r.state = .leaving)
    (halt : t.haltTimer = r.haltTimer := by rfl) (filtered : t.filtered = r.filtered := by rfl)
    (baseline : t.baseline = r.baseline := by rfl) (moisture : t.moisture = r.moisture := by rfl) : r.Judged t :=
  ⟨filtered, baseline, moisture, fun now stay leave => ((entry now).elim stay leave).elim, fun _ => halt⟩

theorem settledZone_judged (s : State) (z : ZoneIx) {r t : Zone} (halt : t.haltTimer = r.haltTimer := by rfl)
    (filtered : t.filtered = r.filtered := by rfl) (baseline : t.baseline = r.baseline := by rfl)
    (moisture : t.moisture = r.moisture := by rfl) : r.Judged (s.settledZone z t) := by
  unfold State.settledZone
  split
  · exact .of_kept (fun e => by cases e) halt filtered baseline moisture
  · exact .of_kept (fun e => by cases e) halt filtered baseline moisture

/-- The judgement of a sample stores one zone record and works on the floor. -/
theorem judgeZone_work (s : State) (z : ZoneIx) (d : Int) :
    ∃ r, (s.zone z).Judged r ∧ FloorWork True (s.setZone z r) (s.judgeZone z d) := by
  have stays : ∃ r, (s.zone z).Judged r ∧ FloorWork True (s.setZone z r) s :=
    ⟨s.zone z, .of_kept .inl, by rw [setZone_zone]; exact .refl s⟩
  have stored (r : Zone) (h : (s.zone z).Judged r) :
      ∃ r', (s.zone z).Judged r' ∧ FloorWork True (s.setZone z r') (s.setZone z r) := ⟨r, h, .refl _⟩
  have enters (apart : (s.zone z).state ≠ .present ∧ (s.zone z).state ≠ .leaving) :
      ∃ r, (s.zone z).Judged r ∧ FloorWork True (s.setZone z r) (s.enterPresent z) :=
    ⟨(s.zone z).entered (s.profile z) (s.after (s.profile z).stuckTenths),
      ⟨rfl, rfl, rfl, fun _ _ _ => rfl, fun now => ((now rfl).elim apart.1 apart.2).elim⟩, enterPresent_work s z⟩
  have settles (n : Nat) : ∃ r, (s.zone z).Judged r
      ∧ FloorWork True (s.setZone z r) ((s.setZone z { s.zone z with debounce := n }).enterSettling z) := by
    have work := enterSettling_work (s.setZone z { s.zone z with debounce := n }) z
    rw [setZone_setZone, zone_setZone_same] at work
    exact ⟨_, settledZone_judged _ z, work⟩
  unfold State.judgeZone
  dsimp only
  split
  case h_1 now | h_2 now =>
    have apart : (s.zone z).state ≠ .present ∧ (s.zone z).state ≠ .leaving := by simp [now]
    split
    · exact stays
    split
    · exact enters apart
    · exact stored _ (.of_kept fun e => by cases e)
  case h_3 now =>
    have apart : (s.zone z).state ≠ .present ∧ (s.zone z).state ≠ .leaving := by simp [now]
    split
    · unfold State.endEntry
      dsimp only
      split
      · exact stored _ (.of_kept fun e => by cases e)
      · have work := reachQuiet_work (s.setZone z { s.zone z with debounce := 0 }) z
        rw [setZone_setZone, zone_setZone_same] at work
        exact ⟨_, .of_kept (fun e => by cases e), work⟩
    split
    · exact enters apart
    · exact stored _ (.of_kept fun e => by rw [← e]; exact .inl rfl)
  case h_4 now =>
    split
    · exact stays
    split
    · exact ⟨_, settledZone_judged s z, enterSettling_work s z⟩
    · exact stored _ (.of_kept fun _ => .inl now)
  case h_5 now =>
    split
    · exact stored _ (.of_kept fun _ => .inr now)
    split
    · exact settles _
    · exact stored _ (.of_kept fun _ => .inr now)
  case h_6 | h_7 => exact stays

/-! ### The arithmetic of a sample (R138, R144) -/

theorem follows_iff (x : ZoneState) : x.follows = true ↔ x = .settling ∨ x = .quiet := by
  cases x <;> simp [ZoneState.follows]

theorem haltable_iff (x : ZoneState) : x.haltable = true ↔ x = .settling ∨ x = .quiet ∨ x = .entering := by
  cases x <;> simp [ZoneState.haltable]

theorem baselineAfter_eq (s : State) (z : ZoneIx) (v : Word) :
    baselineAfter (s.profile z) (s.zone z).state (filteredAfter s z v) (s.zone z).baseline (sampleDelta s z v)
      = if sampleDelta s z v < -((s.profile z).fastBound : Int) then baselineMoved s z v (s.profile z).fastShift
        else if ((s.zone z).state = .settling ∨ (s.zone z).state = .quiet)
            ∧ sampleDelta s z v < ((s.profile z).halt : Int) then
          baselineMoved s z v (s.profile z).baselineShift
        else (s.zone z).baseline := by
  simp only [baselineAfter, Bool.and_eq_true, follows_iff, decide_eq_true_eq]
  rfl

theorem haltChecked_timer (r : Zone) (p : Profile) (d : Int) (expiry : Word) : (r.haltChecked p d expiry).haltTimer
    = if d < (p.halt : Int) then none
      else if (r.state = .settling ∨ r.state = .quiet ∨ r.state = .entering) ∧ r.haltTimer = none ∧ p.stuckTimeout ≠ 0 then
        some expiry
      else r.haltTimer := by
  unfold Zone.haltChecked
  simp only [Bool.and_eq_true, haltable_iff, Option.isNone_iff_eq_none, bne_iff_ne, and_assoc]
  split
  · rfl
  · split <;> rfl

theorem haltChecked_rest (r : Zone) (p : Profile) (d : Int) (expiry : Word) :
    r.haltChecked p d expiry = { r with haltTimer := (r.haltChecked p d expiry).haltTimer } := by
  unfold Zone.haltChecked
  split
  · rfl
  · split <;> rfl

/-- The record of a zone before a sample is judged (R138, steps 1 to 3; R144). -/
def sampledZone (s : State) (z : ZoneIx) (v : Word) : Zone :=
  ({ s.zone z with
      filtered := filteredAfter s z v
      baseline := baselineAfter (s.profile z) (s.zone z).state (filteredAfter s z v) (s.zone z).baseline
        (sampleDelta s z v) } : Zone).haltChecked (s.profile z) (sampleDelta s z v) (s.after (s.profile z).stuckTenths)

theorem takeSample_seeded {s : State} {z : ZoneIx} (v : Word) (seeded : seededState (s.zone z).state) :
    s.takeSample z (presenceOf v) = (s.setZone z (sampledZone s z v)).judgeZone z (sampleDelta s z v) := by
  obtain ⟨unseeded, stale⟩ := seeded
  have work : s.takeSample z (presenceOf v) = s.workSample z (presenceOf v) := by
    unfold State.takeSample
    cases now : (s.zone z).state <;> simp_all
  exact work

theorem clock_of_outside {s t : State} (h : t.outside = s.outside) : t.clock = s.clock := congrArg Outside.clock h

/-- Settles O23: the judgement and the re-evaluation keep what the sample has computed. -/
theorem sampleArithmetic : Obligations.SampleArithmetic := by
  intro s z v memory modes inside seeded
  obtain ⟨t, row, took⟩ := took_sample memory modes z v
  refine ⟨_, t, row, took, ?_⟩
  have sample : s.zoneSample z (presenceOf v)
      = (((s.clearFreeing.setZone z (sampledZone s z v)).judgeZone z (sampleDelta s z v)).restartSample z).settle := by
    have judged := takeSample_seeded (s := s.clearFreeing) (z := z) v seeded
    rw [State.zoneSample, if_pos inside, State.event, judged]
    rfl
  rw [sample]
  obtain ⟨r, judged, work⟩ := judgeZone_work (s.clearFreeing.setZone z (sampledZone s z v)) z (sampleDelta s z v)
  rw [zone_setZone_same] at judged
  rw [setZone_setZone] at work
  generalize (s.clearFreeing.setZone z (sampledZone s z v)).judgeZone z (sampleDelta s z v) = w at work ⊢
  have zone : w.zone z = r := (zone_of_zones work.zones z).trans (zone_setZone_same _ z r)
  have others (y : ZoneIx) (ne : y ≠ z) : w.zone y = s.zone y :=
    (zone_of_zones work.zones y).trans (zone_setZone_other _ z y r ne.symm)
  have restarted : w.restartSample z = w.setZone z { r with sampleTimer := some (s.clock + 100) } := by
    rw [State.restartSample, zone, State.after, clock_of_outside work.outside]
    rfl
  rw [restarted]
  obtain ⟨outside, cells, zones, scrub, _, _, _⟩ := fw_settle (FloorWork.refl (calm := False)
    (w.setZone z { r with sampleTimer := some (s.clock + 100) }))
  have here := (zone_of_zones zones z).trans (zone_setZone_same _ z _)
  rw [here]
  refine ⟨outside.trans work.outside, cells.trans work.cells, fun y ne => ?_, fun x => ?_, ?_, ?_,
    fun present stay leave => ?_, fun entry => ?_, rfl, ?_⟩
  · exact (zone_of_zones zones y).trans ((zone_setZone_other _ z y _ ne.symm).trans (others y ne))
  · have before : w.scrub x = { s.scrub x with liveSlot := (w.scrub x).liveSlot } := work.scrub x
    have after := scrub x
    rw [scrub_setZone, before] at after
    exact after
  · change r.filtered = _
    rw [judged.filtered, sampledZone, haltChecked_rest]
  · change r.baseline = _
    rw [judged.baseline, sampledZone, haltChecked_rest, ← baselineAfter_eq]
  · refine judged.stopped present ?_ ?_
    · rw [sampledZone, haltChecked_rest]; exact stay
    · rw [sampledZone, haltChecked_rest]; exact leave
  · change r.haltTimer = _
    have timer := haltChecked_timer { s.zone z with
      filtered := filteredAfter s z v
      baseline := baselineAfter (s.profile z) (s.zone z).state (filteredAfter s z v) (s.zone z).baseline
        (sampleDelta s z v) } (s.profile z) (sampleDelta s z v) (s.after (s.profile z).stuckTenths)
    rw [judged.kept fun present => ?_]
    · exact timer
    · rw [sampledZone, haltChecked_rest]; exact entry present
  · change r.moisture = _
    rw [judged.moisture, sampledZone, haltChecked_rest]

end Sys2Proof.Machine
end

section
/-! SUPPORT. The entry to QUIET slot by slot, and samples that seed or revive a zone (R139, R142, R143, R148). -/
namespace Sys2Proof.Machine
open Sys2Proof
set_option Elab.async false

/-! ### Every fleet slot in turn -/

/-- A run over slots that changes each slot by itself. -/
theorem slot_foldl (f : State → SlotIx → State) (g : SlotIx → Slot → Slot) (l : List SlotIx) (once : l.Nodup) (s : State)
    (own : ∀ t, ∀ k ∈ l, (f t k).slot k = g k (t.slot k)) (others : ∀ t, ∀ k ∈ l, ∀ j, j ≠ k → (f t k).slot j = t.slot j)
    (j : SlotIx) : (l.foldl f s).slot j = if j ∈ l then g j (s.slot j) else s.slot j := by
  induction l generalizing s with
  | nil => simp
  | cons k l ih =>
    obtain ⟨apart, once⟩ := List.nodup_cons.mp once
    rw [List.foldl_cons, ih once _ (fun t i mem => own t i (List.mem_cons_of_mem _ mem))
      (fun t i mem => others t i (List.mem_cons_of_mem _ mem))]
    have head := own s k List.mem_cons_self
    have rest := others s k List.mem_cons_self
    by_cases same : j = k
    · subst same
      rw [if_neg apart, if_pos List.mem_cons_self, head]
    · rw [rest j same]
      simp [same]

/-- The fleet slots in order. -/
def fleetSlots : List SlotIx := (List.finRange 20).map fleetSlot

theorem mem_fleetSlots (k : SlotIx) : k ∈ fleetSlots ↔ k.val < 20 := by
  constructor
  · intro mem
    obtain ⟨j, _, rfl⟩ := List.mem_map.mp mem
    exact j.isLt
  · intro fleet
    exact List.mem_map.mpr ⟨⟨k.val, fleet⟩, List.mem_finRange _, rfl⟩

theorem nodup_fleetSlots : fleetSlots.Nodup :=
  (List.nodup_finRange 20).map fun i j e => Fin.ext (show (fleetSlot i).val = (fleetSlot j).val by rw [e])

theorem foldl_fleet (f : SlotIx → State → State) (s : State) :
    (List.finRange 20).foldl (fun s k => f (fleetSlot k) s) s = fleetSlots.foldl (fun s k => f k s) s := by
  rw [fleetSlots, List.foldl_map]

/-! ### The holds that go with QUIET (R148) -/

/-- A fleet slot's record when a zone leaves its holding zones. -/
def Slot.unheldBy (z : ZoneIx) (r : Slot) : Slot :=
  if z ∈ r.holdingZones then
    if r.holdingZones.filter (fun y => y != z) = [] then { r with holdingZones := [], scrubHold := false, changed := true }
    else { r with holdingZones := r.holdingZones.filter (fun y => y != z) }
  else r

theorem slot_dropHolding (s : State) (z : ZoneIx) (k : SlotIx) (fleet : k.val < 20) :
    (s.dropHolding z k).slot k = (s.slot k).unheldBy z := by
  unfold State.dropHolding Slot.unheldBy
  split
  · by_cases last : (s.slot k).holdingZones.filter (fun y => y != z) = []
    · simp [last, State.setChanged, isFleet, fleet]
    · simp [last]
  · rfl

theorem slot_dropHolding_other (s : State) (z : ZoneIx) (k j : SlotIx) (ne : j ≠ k) :
    (s.dropHolding z k).slot j = s.slot j := by
  unfold State.dropHolding State.setChanged
  split
  · dsimp only
    split
    · split
      · rw [slot_setSlot_other _ k j _ ne.symm, slot_setSlot_other _ k j _ ne.symm]
      · rw [slot_setSlot_other _ k j _ ne.symm]
    · rw [slot_setSlot_other _ k j _ ne.symm]
  · rfl

/-- Only slot records and dirty marks have changed. -/
def State.slotStores (s t : State) : Prop := t = { s with slots := t.slots, dirty := t.dirty }

theorem slotStores_refl (s : State) : s.slotStores s := rfl

theorem slotStores_trans {s t u : State} (a : s.slotStores t) (b : t.slotStores u) : s.slotStores u := by
  unfold State.slotStores at *
  rw [b, a]

theorem slotStores_dropHolding (s : State) (z : ZoneIx) (k : SlotIx) : s.slotStores (s.dropHolding z k) := by
  unfold State.dropHolding State.setChanged
  split
  · dsimp only
    split
    · split <;> rfl
    · rfl
  · rfl

theorem slotStores_foldl {α : Type} (f : State → α → State) (hf : ∀ (t : State) a, t.slotStores (f t a)) (l : List α) (s : State) :
    s.slotStores (l.foldl f s) := by
  induction l generalizing s with
  | nil => exact slotStores_refl s
  | cons a l ih => exact slotStores_trans (hf s a) (ih _)

/-- A notice changes the queue of notices and what says that it is full. -/
theorem notify_shape (s : State) (kind : NoticeKind) (p : List Word) : s.notify kind p = { s with
    staging := (s.notify kind p).staging, dspFlags := (s.notify kind p).dspFlags, dirty := (s.notify kind p).dirty } := by
  unfold State.notify State.stage
  split
  · rfl
  · split <;> rfl

theorem zoneNotice_shape (s : State) (kind : NoticeKind) (z : ZoneIx) : s.zoneNotice kind z = { s with
    staging := (s.zoneNotice kind z).staging, dspFlags := (s.zoneNotice kind z).dspFlags,
    dirty := (s.zoneNotice kind z).dirty } := by
  unfold State.zoneNotice
  split
  · exact notify_shape _ _ _
  · rfl

/-- A ZONE notice is the event's next, as the profile says (R146). -/
theorem notices_zoneNotice {s u : State} {l : List (NoticeKind × List Word)} {flags : List DspFlag}
    (h : s.notices u l flags) (outside : u.outside = s.outside) (kind : NoticeKind) (z : ZoneIx) :
    s.notices (u.zoneNotice kind z) (l ++ if (s.profile z).notices then
      [(kind, zoneWords z (u.zone z).filtered (u.zone z).baseline)] else []) flags := by
  have profile : u.profile z = s.profile z := by
    have site : u.site = s.site := congrArg Outside.site outside
    unfold State.profile
    rw [site]
  unfold State.zoneNotice
  rw [profile]
  split
  · exact notices_notify h (congrArg Outside.tuning outside) (congrArg Outside.clock outside)
      (congrArg Outside.held outside) _ _
  · rwa [List.append_nil]

/-- A zone reaches QUIET: its record, the holds of the fleet slots, and the notice (R148). -/
theorem reachQuiet_spec (s : State) (z : ZoneIx) :
    s.broughtQuiet (s.reachQuiet z) z
      ∧ (s.reachQuiet z).zone z = { s.zone z with state := .quiet, quietTimer := none }
      ∧ s.notices (s.reachQuiet z) (if (s.profile z).notices then
          [(.zoneQuiet, zoneWords z (s.zone z).filtered (s.zone z).baseline)] else []) [] := by
  have zones := (reachQuiet_work s z).zones
  have here := (zone_of_zones zones z).trans (zone_setZone_same s z _)
  obtain ⟨u, held⟩ : ∃ u, u = fleetSlots.foldl (fun s k => s.dropHolding z k)
      (s.setZone z { s.zone z with state := .quiet, quietTimer := none }) := ⟨_, rfl⟩
  have reached : s.reachQuiet z = (u.zoneNotice .zoneQuiet z).noteFreeing := by
    rw [held, ← foldl_fleet (fun k s => s.dropHolding z k)]
    rfl
  have shape : (s.setZone z { s.zone z with state := .quiet, quietTimer := none }).slotStores u :=
    held ▸ slotStores_foldl _ (fun t k => slotStores_dropHolding t z k) _ _
  have record : u.zone z = { s.zone z with state := .quiet, quietTimer := none } := by
    refine (zone_of_zones ?_ z).trans (zone_setZone_same s z _)
    rw [shape]
  have slots (k : SlotIx) : u.slot k = if k.val < 20 then (s.slot k).unheldBy z else s.slot k := by
    have each := slot_foldl (fun s k => s.dropHolding z k) (fun _ => Slot.unheldBy z) fleetSlots nodup_fleetSlots
      (s.setZone z { s.zone z with state := .quiet, quietTimer := none })
      (fun t k mem => slot_dropHolding t z k ((mem_fleetSlots k).mp mem))
      (fun t k _ j ne => slot_dropHolding_other t z k j ne) k
    rw [← held, slot_setZone] at each
    simpa only [mem_fleetSlots] using each
  have outside : u.outside = s.outside := by rw [shape]; rfl
  have told : s.notices (u.zoneNotice .zoneQuiet z) (if (s.profile z).notices then
      [(.zoneQuiet, zoneWords z (s.zone z).filtered (s.zone z).baseline)] else []) [] := by
    have start : s.notices u [] [] := notices_start s u [] (by rw [shape]; rfl) fun f => by
      rw [dsp_eq_of_flags (s := s) (by rw [shape]; rfl)]
      simp
    have next := notices_zoneNotice start outside .zoneQuiet z
    rwa [record, List.nil_append] at next
  rw [reached]
  refine ⟨⟨?_, fun y ne => ?_, ?_, ?_, fun k => ?_⟩, ?_, told⟩
  · obtain ⟨slots, dirty, shape⟩ : ∃ a b, u = { s.setZone z { s.zone z with state := .quiet, quietTimer := none } with
        slots := a, dirty := b } := ⟨_, _, shape⟩
    subst shape
    rw [zoneNotice_shape]
    rfl
  · rw [← reached]
    exact (zone_of_zones zones y).trans (zone_setZone_other s z y _ ne.symm)
  · rw [← reached, here]
  · rw [← reached, here]
  · have kept : ((u.zoneNotice .zoneQuiet z).noteFreeing).slot k = u.slot k :=
      slot_of_slots (by rw [zoneNotice_shape]; rfl) k
    rw [kept, slots k]
    unfold Slot.unheldBy
    by_cases fleet : k.val < 20 <;> simp [fleet]
  · rw [← reached, here]

/-! ### Samples that seed or revive a zone (R139, R143) -/

/-- The record of an UNSEEDED or STALE zone after a sample, before its entry to SETTLING. -/
def State.revivedZone (s : State) (z : ZoneIx) (v : Word) : Zone := { s.zone z with
  filtered := if (s.zone z).state = .unseeded then presenceOf v
    else towards (s.zone z).filtered (presenceOf v) (s.profile z).filterShift
  baseline := if (s.zone z).state = .unseeded then presenceOf v else (s.zone z).baseline
  debounce := if (s.zone z).state = .unseeded then 0 else (s.zone z).debounce }

theorem takeSample_revives (s : State) (z : ZoneIx) (v : Word)
    (dead : (s.zone z).state = .unseeded ∨ (s.zone z).state = .stale) :
    s.takeSample z (presenceOf v) = (s.setZone z (s.revivedZone z v)).enterSettling z := by
  unfold State.takeSample State.revivedZone
  rcases dead with now | now <;> simp [now]

/-- An entry to SETTLING sets the quiet timer (R142). -/
theorem enterSettling_waits {s : State} {z : ZoneIx} (h : (s.profile z).quietTime ≠ 0) (r : Zone) :
    (s.setZone z r).enterSettling z = s.setZone z { r with
      state := .settling, stuckTimer := none,
      quietTimer := some (s.clock + BitVec.ofNat 32 (10 * (s.profile z).quietTime)) } := by
  have entered : (s.setZone z r).enterSettling z = (s.setZone z r).setZone z { (s.setZone z r).zone z with
      state := .settling, stuckTimer := none,
      quietTimer := some (s.clock + BitVec.ofNat 32 (10 * (s.profile z).quietTime)) } := if_neg h
  rw [entered, zone_setZone_same, setZone_setZone]

/-- With a quiet time of 0 it is an entry to QUIET (R142). -/
theorem enterSettling_atOnce {s : State} {z : ZoneIx} (h : (s.profile z).quietTime = 0) (r : Zone) :
    (s.setZone z r).enterSettling z = (s.setZone z { r with stuckTimer := none }).reachQuiet z := by
  have entered : (s.setZone z r).enterSettling z
      = ((s.setZone z r).setZone z { (s.setZone z r).zone z with stuckTimer := none }).reachQuiet z := if_pos h
  rw [entered, zone_setZone_same, setZone_setZone]

theorem zoneSample_inside (s : State) (z : ZoneIx) (fig : Nat) (inside : z.val < s.z) :
    s.zoneSample z fig = ((s.clearFreeing.takeSample z fig).restartSample z).settle := if_pos inside

/-- The restart of the sample timer stores one zone record. -/
theorem broughtQuiet_restart {s u : State} {z : ZoneIx} (h : s.broughtQuiet u z) :
    s.broughtQuiet (u.restartSample z) z := by
  obtain ⟨shape, others, quiet, stopped, slots⟩ := h
  refine ⟨?_, fun y ne => ?_, ?_, ?_, slots⟩
  · unfold State.restartSample
    rw [shape]
    rfl
  · exact (zone_setZone_other u z y _ ne.symm).trans (others y ne)
  · rw [State.restartSample, zone_setZone_same]
    exact quiet
  · rw [State.restartSample, zone_setZone_same]
    exact stopped

/-- Settles O22. -/
theorem sampleSeedsOrRevives : Obligations.SampleSeedsOrRevives := by
  intro s z v memory modes
  obtain ⟨t, row, took⟩ := took_sample memory modes z v
  refine ⟨fun above => ⟨t, row, ?_⟩, fun inside dead => ⟨fun waits => ?_, fun atOnce => ?_⟩⟩
  · rwa [State.zoneSample, if_neg (by omega)] at took
  · have sample : s.zoneSample z (presenceOf v) = s.clearFreeing.setZone z { s.revivedZone z v with
        state := .settling, stuckTimer := none,
        quietTimer := some (s.clock + BitVec.ofNat 32 (10 * (s.profile z).quietTime)),
        sampleTimer := some (s.clock + 100) } := by
      have revived := takeSample_revives s.clearFreeing z v dead
      rw [zoneSample_inside s z _ inside, revived, show s.clearFreeing.revivedZone z v = s.revivedZone z v from rfl,
        enterSettling_waits (s := s.clearFreeing) waits, State.restartSample, zone_setZone_same, setZone_setZone]
      rfl
    rw [sample] at took
    exact ⟨_, t, row, took, rfl, zone_setZone_same _ z _, fun y ne => zone_setZone_other _ z y _ ne.symm⟩
  · have sample : s.zoneSample z (presenceOf v)
        = (((s.clearFreeing.setZone z { s.revivedZone z v with stuckTimer := none }).reachQuiet z).restartSample z).settle := by
      have revived := takeSample_revives s.clearFreeing z v dead
      rw [zoneSample_inside s z _ inside, revived, show s.clearFreeing.revivedZone z v = s.revivedZone z v from rfl,
        enterSettling_atOnce (s := s.clearFreeing) atOnce]
    rw [sample] at took
    obtain ⟨brought, here, told⟩ :=
      reachQuiet_spec (s.clearFreeing.setZone z { s.revivedZone z v with stuckTimer := none }) z
    generalize (s.clearFreeing.setZone z { s.revivedZone z v with stuckTimer := none }).reachQuiet z = q at *
    rw [zone_setZone_same] at here told
    obtain ⟨shape, others, quiet, stopped, slots⟩ := broughtQuiet_restart brought
    have zone : (q.restartSample z).zone z = { q.zone z with sampleTimer := some (q.after 100) } :=
      zone_setZone_same q z _
    have clock : q.after 100 = s.clock + 100 := by
      rw [brought.1]
      rfl
    rw [here, clock] at zone
    refine ⟨_, t, row, took, ⟨?_, fun y ne => ?_, quiet, stopped, slots⟩, zone, ?_⟩
    · rw [shape]
      rfl
    · exact (others y ne).trans (zone_setZone_other _ z y _ ne.symm)
    · rw [zone]
      exact told

end Sys2Proof.Machine
end

section
/-! SUPPORT. The shortening of a fleet slot, and what one slot's change leaves of the others (R112 to R114, R147). -/
namespace Sys2Proof.Machine
open Sys2Proof
set_option Elab.async false

/-! ### Notices and other slots -/

theorem slot_notify (s : State) (kind : NoticeKind) (p : List Word) (k : SlotIx) : (s.notify kind p).slot k = s.slot k :=
  slot_of_slots (by rw [notify_shape]) k

theorem seg_notify (s : State) (kind : NoticeKind) (p : List Word) (g : SegIx) : (s.notify kind p).seg g = s.seg g := by
  have segs : (s.notify kind p).segs = s.segs := by rw [notify_shape]
  unfold State.seg
  rw [segs]

theorem slot_shortenedNotice (s : State) (k j : SlotIx) : (s.shortenedNotice k).slot j = s.slot j := slot_notify _ _ _ j

theorem seg_shortenedNotice (s : State) (k : SlotIx) (g : SegIx) : (s.shortenedNotice k).seg g = s.seg g :=
  seg_notify _ _ _ g

/-- What the shortening and the holds of slot k read: its record, what it holds, the scrubbers, and what lies outside. -/
structure State.Alike (k : SlotIx) (s t : State) : Prop where
  slot : t.slot k = s.slot k
  holds : ∀ g, (t.seg g).holder = some k ↔ (s.seg g).holder = some k
  scrubbers : t.scrubbers = s.scrubbers
  outside : t.outside = s.outside

theorem State.Alike.refl (k : SlotIx) (s : State) : s.Alike k s := ⟨rfl, fun _ => Iff.rfl, rfl, rfl⟩

theorem State.Alike.trans {k : SlotIx} {s t u : State} (a : s.Alike k t) (b : t.Alike k u) : s.Alike k u :=
  ⟨b.slot.trans a.slot, fun g => (b.holds g).trans (a.holds g), b.scrubbers.trans a.scrubbers, b.outside.trans a.outside⟩

/-- A run over slots of a change that reads only its own slot and leaves the other slots what they read: each slot comes
to what the change alone makes of it. -/
theorem slot_foldl_alike (f : State → SlotIx → State) (frame : ∀ (t : State) k j, j ≠ k → t.Alike j (f t k))
    (l : List SlotIx) (reads : ∀ (t u : State), ∀ k ∈ l, t.Alike k u → (f u k).slot k = (f t k).slot k) (once : l.Nodup)
    (s : State) (j : SlotIx) : (l.foldl f s).slot j = if j ∈ l then (f s j).slot j else s.slot j := by
  induction l generalizing s with
  | nil => rfl
  | cons k l ih =>
    obtain ⟨apart, once⟩ := List.nodup_cons.mp once
    rw [List.foldl_cons, ih (fun t u i mem => reads t u i (List.mem_cons_of_mem _ mem)) once]
    by_cases same : j = k
    · subst same
      rw [if_neg apart, if_pos List.mem_cons_self]
    · have alike := frame s k j same
      simp only [List.mem_cons, same, false_or, alike.slot]
      split
      · exact reads s (f s k) j (List.mem_cons_of_mem _ ‹_›) alike
      · rfl

theorem shortenTimeout_of_outside {s t : State} (h : t.outside = s.outside) : t.shortenTimeout = s.shortenTimeout := by
  have tuning : t.tuning = s.tuning := congrArg Outside.tuning h
  have site : t.site = s.site := congrArg Outside.site h
  simp only [State.shortenTimeout, State.tuned, State.timings, tuning, site]

/-! ### Shortening (R112 to R114) -/

/-- The record of a slot after the shortening request. -/
def State.shortenedSlot (s : State) (k : SlotIx) (e : Nat) : Slot :=
  if !isFleet k || !(s.slot k).state.authority || decide ((s.slot k).endIx ≤ (s.slot k).effectiveEnd e) then s.slot k
  else if (s.slot k).state = .granted then (s.slot k).shortenedGranted ((s.slot k).effectiveEnd e)
  else (s.slot k).shortenedSent ((s.slot k).effectiveEnd e) ((s.heldAbove k ((s.slot k).effectiveEnd e)).map (·.2))
    (s.after s.shortenTimeout)

theorem slot_shorten (s : State) (k : SlotIx) (e : Nat) : (s.shorten k e).slot k = s.shortenedSlot k e := by
  unfold State.shorten State.shortenedSlot
  dsimp only
  split
  · rfl
  split
  · rw [slot_shortenedNotice, slot_setSlot_same, slot_releaseWhere]
  · rw [slot_shortenedNotice, slot_setSlot_same, slot_markPending]

theorem shortenedSlot_alike {s t : State} {k : SlotIx} (h : s.Alike k t) (e : Nat) :
    t.shortenedSlot k e = s.shortenedSlot k e := by
  have above (i : Nat) : t.heldAbove k i = s.heldAbove k i := by
    unfold State.heldAbove
    rw [h.slot]
    refine List.filter_congr fun f _ => ?_
    have same : ((t.seg f.1).holder == some k) = ((s.seg f.1).holder == some k) := by
      rw [Bool.eq_iff_iff, beq_iff_eq, beq_iff_eq, h.holds]
    rw [same]
  unfold State.shortenedSlot State.after
  rw [h.slot, above, clock_of_outside h.outside, shortenTimeout_of_outside h.outside]

/-- The shortening of slot k leaves the other slots what they read. -/
theorem alike_shorten (s : State) (k j : SlotIx) (ne : j ≠ k) (e : Nat) : s.Alike j (s.shorten k e) := by
  have work := fw_shorten (FloorWork.refl (calm := True) s) k e
  suffices both : (s.shorten k e).slot j = s.slot j ∧ ∀ g, ((s.shorten k e).seg g).holder = some j ↔ (s.seg g).holder = some j by
    exact ⟨both.1, both.2, (work.still trivial).2.1, work.outside⟩
  unfold State.shorten
  dsimp only
  split
  · exact ⟨rfl, fun _ => Iff.rfl⟩
  split
  · refine ⟨by rw [slot_shortenedNotice, slot_setSlot_other _ k j _ ne.symm, slot_releaseWhere], fun g => ?_⟩
    rw [seg_shortenedNotice, seg_setSlot]
    exact (released_grip s k _ g).1 j ne
  · refine ⟨by rw [slot_shortenedNotice, slot_setSlot_other _ k j _ ne.symm, slot_markPending], fun g => ?_⟩
    rw [seg_shortenedNotice, seg_setSlot]
    have now := grip_markPending s k ((s.slot k).effectiveEnd e) g
    split at now
    · rw [show ((s.markPending k ((s.slot k).effectiveEnd e)).seg g).holder = (s.seg g).holder from
        congrArg Prod.fst now]
    · rw [(grip_eq now).1]

/-- A shortening of a fleet slot in authority to an index below its end is a cut at it. -/
theorem cut_shortenedSlot {s t : State} {k : SlotIx} {e : Nat} (fleet : k.val < 20)
    (authority : (s.slot k).state.authority = true) (low : (s.slot k).effectiveEnd e < (s.slot k).endIx)
    (slot : t.slot k = s.shortenedSlot k e) : s.cut t k ((s.slot k).effectiveEnd e) := by
  have applies : ¬ (!isFleet k || !(s.slot k).state.authority
      || decide ((s.slot k).endIx ≤ (s.slot k).effectiveEnd e)) = true := by
    simp [isFleet, fleet, authority, low]
  rw [State.shortenedSlot, if_neg applies] at slot
  unfold State.cut
  rw [slot]
  by_cases granted : (s.slot k).state = .granted
  · rw [if_pos granted]
    exact ⟨rfl, fun _ => ⟨granted, rfl, rfl, rfl⟩, fun sent => absurd granted sent⟩
  · rw [if_neg granted]
    refine ⟨rfl, fun e => absurd e granted, fun _ => ⟨rfl, rfl, rfl, fun j => ?_⟩⟩
    refine (mem_foldl_insert _ _ j).trans (or_comm.trans (or_congr_right ?_))
    simp only [State.heldAbove, List.mem_map, List.mem_filter, Bool.and_eq_true, decide_eq_true_eq, beq_iff_eq]
    constructor
    · rintro ⟨f, ⟨hf, past, here⟩, rfl⟩
      exact ⟨f.1, hf, past, here⟩
    · rintro ⟨g, hg, past, here⟩
      exact ⟨(g, j), ⟨hg, past, here⟩, rfl⟩

/-- A step that stages no notice and sets no dispatch flag. -/
def State.silent (s t : State) : Prop := t.staging = s.staging ∧ t.dspFlags = s.dspFlags

theorem silent_foldl {α : Type} (f : State → α → State) (hf : ∀ (t : State) a, t.silent (f t a)) (l : List α) (s : State) :
    s.silent (l.foldl f s) :=
  ⟨foldl_keeps State.staging f (fun t a => (hf t a).1) l s, foldl_keeps State.dspFlags f (fun t a => (hf t a).2) l s⟩

theorem silent_ite {s a b : State} (c : Prop) [Decidable c] (ha : s.silent a) (hb : s.silent b) :
    s.silent (if c then a else b) := by
  split
  · exact ha
  · exact hb

theorem silent_release (s : State) (k : SlotIx) (wet : Bool) (g : SegIx) : s.silent (s.release k wet g) := by
  have counted (u : State) : u.silent (if isFleet k then u.refreshPinchOf g none else u) := by
    split
    · obtain ⟨l, f, e⟩ := refreshPinchOf_eq u g none
      rw [e]
      exact ⟨rfl, rfl⟩
    · exact ⟨rfl, rfl⟩
  unfold State.release
  split
  · have same := counted (s.setSeg g { s.seg g with holder := none, pendingRel := false }).noteFreeing
    exact silent_ite _ same (silent_ite _ same same)
  · exact ⟨rfl, rfl⟩

theorem silent_releaseWhere (s : State) (k : SlotIx) (pick : SegIx × Nat → Bool) : s.silent (s.releaseWhere k pick) :=
  silent_foldl _ (fun t _ => silent_release t k _ _) _ s

theorem silent_pend (s : State) (g : SegIx) : s.silent (s.pend g) := ⟨rfl, rfl⟩

theorem silent_markPending (s : State) (k : SlotIx) (i : Nat) : s.silent (s.markPending k i) := by
  unfold State.markPending
  exact silent_foldl _ (fun (t : State) (e : SegIx × Nat) => silent_pend t e.1) _ s

/-- A shortening stages at most a SHORTENED notice. -/
theorem notices_shorten {s u : State} {l : List (NoticeKind × List Word)} {flags : List DspFlag}
    (h : s.notices u l flags) (outside : u.outside = s.outside) (k : SlotIx) (e : Nat) :
    ∃ l', s.notices (u.shorten k e) (l ++ l') flags ∧ ∀ p ∈ l', p.1 = .shortened := by
  have told (v : State) (same : v.outside = u.outside) (silent : u.silent v) :
      ∃ l', s.notices (v.shortenedNotice k) (l ++ l') flags ∧ ∀ p ∈ l', p.1 = .shortened := by
    have before : s.notices (v.markDirty (.slotStatus k)) l flags := by
      refine ⟨silent.1.trans h.1, fun f => ?_⟩
      have kept : (v.markDirty (.slotStatus k)).dspFlags = u.dspFlags := silent.2
      rw [dsp_eq_of_flags kept]
      exact h.2 f
    have all := same.trans outside
    refine ⟨[_], notices_notify before (congrArg Outside.tuning all) (congrArg Outside.clock all)
      (congrArg Outside.held all) .shortened _, fun p mem => ?_⟩
    rw [List.mem_singleton.mp mem]
  unfold State.shorten
  dsimp only
  split
  · exact ⟨[], by rwa [List.append_nil], fun p mem => by cases mem⟩
  split
  · generalize freed : u.releaseWhere k _ = v
    have outside' : v.outside = u.outside := freed ▸ outside_releaseWhere u k _
    have silent : u.silent v := freed ▸ silent_releaseWhere u k _
    exact told (v.setSlot k _) outside' silent
  · generalize marked : u.markPending k _ = v
    have outside' : v.outside = u.outside := marked ▸ outside_markPending u k _
    have silent : u.silent v := marked ▸ silent_markPending u k _
    exact told (v.setSlot k _) outside' silent

end Sys2Proof.Machine
end

section
/-! SUPPORT. The entry to PRESENT slot by slot (R141, R147). -/
namespace Sys2Proof.Machine
open Sys2Proof
set_option Elab.async false

/-! ### The first wanted entry ahead (R147, R155) -/

theorem entries_ascending (r : Slot) : r.entries.Pairwise (fun a b => a.2 < b.2) := by
  have indices : (r.entries.map Prod.snd).Pairwise (· < ·) := by
    rw [Slot.entries, List.zipIdx_map_snd]
    exact List.pairwise_lt_range'
  exact List.pairwise_map.mp indices

theorem firstReaching_eq_some {r : Slot} {want : SegIx → Bool} {g : SegIx} {i : Nat} (entry : (g, i) ∈ r.entries)
    (ahead : r.progress < i) (within : i ≤ r.endIx) (wanted : want g = true)
    (first : ∀ j h, (h, j) ∈ r.entries → r.progress < j → j < i → want h = false) : r.firstReaching want = some i := by
  have meets (e : SegIx × Nat) : (decide (r.progress < e.2) && decide (e.2 ≤ r.endIx) && want e.1) = true
      ↔ r.progress < e.2 ∧ e.2 ≤ r.endIx ∧ want e.1 = true := by
    simp only [Bool.and_eq_true, decide_eq_true_eq, and_assoc]
  unfold Slot.firstReaching
  cases found : r.entries.find? (fun e => decide (r.progress < e.2) && decide (e.2 ≤ r.endIx) && want e.1) with
  | none =>
    have never := List.find?_eq_none.mp found (g, i) entry
    exact absurd ((meets (g, i)).mpr ⟨ahead, within, wanted⟩) never
  | some e =>
    obtain ⟨holds, before, after, split, fails⟩ := List.find?_eq_some_iff_append.mp found
    obtain ⟨past, reached, want'⟩ := (meets e).mp holds
    have mem : e ∈ r.entries := List.mem_of_find?_eq_some found
    suffices same : e.2 = i by rw [Option.map_some, same]
    have notBefore : ¬ e.2 < i := fun lt => by
      rw [first e.2 e.1 mem past lt] at want'
      cases want'
    have ascending := entries_ascending r
    rw [split] at entry ascending
    rcases List.mem_append.mp entry with early | late
    · have fail := fails _ early
      rw [(meets (g, i)).mpr ⟨ahead, within, wanted⟩] at fail
      cases fail
    · rcases List.mem_cons.mp late with here | later
      · rw [← here]
      · have lt := (List.pairwise_cons.mp (List.pairwise_append.mp ascending).2.1).1 _ later
        exact absurd lt notBefore

theorem firstReaching_eq_none {r : Slot} {want : SegIx → Bool}
    (clear : ∀ j h, (h, j) ∈ r.entries → r.progress < j → j ≤ r.endIx → want h = false) : r.firstReaching want = none := by
  unfold Slot.firstReaching
  rw [Option.map_eq_none_iff, List.find?_eq_none]
  intro e mem holds
  simp only [Bool.and_eq_true, decide_eq_true_eq, and_assoc] at holds
  obtain ⟨past, reached, wanted⟩ := holds
  rw [clear e.2 e.1 mem past reached] at wanted
  cases wanted

theorem firstReaching_of_shorten {s : State} {k : SlotIx} {want : SegIx → Bool} {i : Nat}
    (h : (s.slot k).firstReaching want = some i) : s.shortenBefore k want = s.shorten k (i - 1) := by
  unfold State.shortenBefore
  rw [h]

theorem shortenBefore_clear {s : State} {k : SlotIx} {want : SegIx → Bool} (h : (s.slot k).firstReaching want = none) :
    s.shortenBefore k want = s := by
  unfold State.shortenBefore
  rw [h]

/-! ### One slot (R147) -/

theorem inZone_iff (s : State) (z : ZoneIx) (g : SegIx) : s.inZone z g = true ↔ (s.fixed g).zone = some z := by
  simp [State.inZone]

theorem standsIn_iff (s : State) (x : ScrubIx) (z : ZoneIx) : s.standsIn x z = true
    ↔ ∃ g, ((s.scrub x).current = some g ∨ (s.scrub x).trailing = some g) ∧ (s.fixed g).zone = some z := by
  unfold State.standsIn
  rw [List.any_eq_true]
  simp only [List.mem_append, Option.mem_toList, inZone_iff]

/-- The slots that a zone turning PRESENT examines, whatever their kind (R147). -/
def Slot.scrubbing (r : Slot) : Prop := r.mode = .scrub ∧ r.state.authority = true

theorem presentSlot_apart {s : State} {k : SlotIx} (h : ¬ (s.slot k).scrubbing) (z : ZoneIx) : s.presentSlot z k = s :=
  if_neg h

theorem presentSlot_stands {s : State} {k : SlotIx} {z : ZoneIx} (h : (s.slot k).scrubbing) (stands : slotStandsIn s k z) :
    s.presentSlot z k = s.addHolding z k := by
  obtain ⟨x, g, named, there, zone⟩ := stands
  have inside := (standsIn_iff s x z).mpr ⟨g, there, zone⟩
  refine (if_pos h).trans (if_pos ?_)
  simp only [named, inside]

theorem presentSlot_ahead {s : State} {k : SlotIx} {z : ZoneIx} (h : (s.slot k).scrubbing)
    (stands : ¬ slotStandsIn s k z) : s.presentSlot z k = s.shortenBefore k (s.inZone z) := by
  refine (if_pos h).trans (if_neg fun inside => ?_)
  cases named : (s.slot k).scrubber with
  | none => simp only [named] at inside; cases inside
  | some x =>
    simp only [named] at inside
    obtain ⟨g, there, zone⟩ := (standsIn_iff s x z).mp inside
    exact stands ⟨x, g, named, there, zone⟩

theorem slot_addHolding (s : State) (z : ZoneIx) (k : SlotIx) (fleet : k.val < 20) :
    (s.addHolding z k).slot k = { s.slot k with
      holdingZones := insertBy Fin.val z (s.slot k).holdingZones,
      scrubHold := (s.slot k).scrubHold || (s.slot k).holdingZones.isEmpty,
      changed := (s.slot k).changed || (s.slot k).holdingZones.isEmpty } := by
  unfold State.addHolding State.setChanged
  dsimp only
  by_cases none : (s.slot k).holdingZones.isEmpty = true
  · rw [if_pos none, if_pos (by simp [isFleet, fleet]), slot_setSlot_same, slot_setSlot_same, none]
    simp
  · rw [if_neg none, slot_setSlot_same]
    simp [none]

theorem slot_addHolding_other (s : State) (z : ZoneIx) (k j : SlotIx) (ne : j ≠ k) :
    (s.addHolding z k).slot j = s.slot j := by
  unfold State.addHolding State.setChanged
  dsimp only
  split
  · split
    · rw [slot_setSlot_other _ k j _ ne.symm, slot_setSlot_other _ k j _ ne.symm]
    · rw [slot_setSlot_other _ k j _ ne.symm]
  · rw [slot_setSlot_other _ k j _ ne.symm]

theorem slotStores_addHolding (s : State) (z : ZoneIx) (k : SlotIx) : s.slotStores (s.addHolding z k) := by
  unfold State.addHolding State.setChanged
  dsimp only
  split
  · split <;> rfl
  · rfl

theorem alike_presentSlot (s : State) (z : ZoneIx) (k j : SlotIx) (ne : j ≠ k) : s.Alike j (s.presentSlot z k) := by
  by_cases works : (s.slot k).scrubbing
  · by_cases stands : slotStandsIn s k z
    · rw [presentSlot_stands works stands]
      have stores := slotStores_addHolding s z k
      exact ⟨slot_addHolding_other s z k j ne, fun g => by rw [stores]; exact Iff.rfl, by rw [stores], by rw [stores]; rfl⟩
    · rw [presentSlot_ahead works stands]
      cases reach : (s.slot k).firstReaching (s.inZone z) with
      | none => rw [shortenBefore_clear reach]; exact .refl j s
      | some i => rw [firstReaching_of_shorten reach]; exact alike_shorten s k j ne _
  · rw [presentSlot_apart works]
    exact .refl j s

theorem slotStandsIn_alike {s t : State} {k : SlotIx} (h : s.Alike k t) (z : ZoneIx) :
    slotStandsIn t k z ↔ slotStandsIn s k z := by
  have site : t.site = s.site := congrArg Outside.site h.outside
  unfold slotStandsIn State.scrub State.fixed
  rw [h.slot, h.scrubbers, site]

theorem presentSlot_reads (s t : State) (z : ZoneIx) (k : SlotIx) (fleet : k.val < 20) (h : s.Alike k t) :
    (t.presentSlot z k).slot k = (s.presentSlot z k).slot k := by
  have inZone : t.inZone z = s.inZone z := by
    have site : t.site = s.site := congrArg Outside.site h.outside
    funext g
    unfold State.inZone State.fixed
    rw [site]
  by_cases works : (s.slot k).scrubbing
  · have works' : (t.slot k).scrubbing := by rw [h.slot]; exact works
    by_cases stands : slotStandsIn s k z
    · rw [presentSlot_stands works stands, presentSlot_stands works' ((slotStandsIn_alike h z).mpr stands),
        slot_addHolding t z k fleet, slot_addHolding s z k fleet, h.slot]
    · rw [presentSlot_ahead works stands, presentSlot_ahead works' (fun c => stands ((slotStandsIn_alike h z).mp c)), inZone]
      cases reach : (s.slot k).firstReaching (s.inZone z) with
      | none => rw [shortenBefore_clear reach, shortenBefore_clear (by rw [h.slot]; exact reach), h.slot]
      | some i =>
        rw [firstReaching_of_shorten reach, firstReaching_of_shorten (s := t) (by rw [h.slot]; exact reach), slot_shorten,
          slot_shorten, shortenedSlot_alike h]
  · have works' : ¬ (t.slot k).scrubbing := by rw [h.slot]; exact works
    rw [presentSlot_apart works, presentSlot_apart works', h.slot]

theorem notices_presentSlot {s u : State} {l : List (NoticeKind × List Word)} {flags : List DspFlag}
    (h : s.notices u l flags) (outside : u.outside = s.outside) (z : ZoneIx) (k : SlotIx) :
    ∃ l', s.notices (u.presentSlot z k) (l ++ l') flags ∧ ∀ p ∈ l', p.1 = .shortened := by
  have still : ∃ l', s.notices u (l ++ l') flags ∧ ∀ p ∈ l', p.1 = .shortened :=
    ⟨[], by rwa [List.append_nil], fun p mem => by cases mem⟩
  by_cases works : (u.slot k).scrubbing
  · by_cases stands : slotStandsIn u k z
    · obtain ⟨l', told, all⟩ := still
      rw [presentSlot_stands works stands, slotStores_addHolding u z k]
      exact ⟨l', told, all⟩
    · rw [presentSlot_ahead works stands]
      cases reach : (u.slot k).firstReaching (u.inZone z) with
      | none => rw [shortenBefore_clear reach]; exact still
      | some i => rw [firstReaching_of_shorten reach]; exact notices_shorten h outside k _
  · rw [presentSlot_apart works]
    exact still

end Sys2Proof.Machine
end

section
/-! SUPPORT. A sample that turns its zone PRESENT (R141, R147). -/
namespace Sys2Proof.Machine
open Sys2Proof
set_option Elab.async false

/-- The state at an entry to PRESENT once the zone's record is stored. -/
def State.presentFrom (s : State) (z : ZoneIx) : State :=
  s.setZone z ((s.zone z).entered (s.profile z) (s.after (s.profile z).stuckTenths))

theorem enterPresent_eq (s : State) (z : ZoneIx) : s.enterPresent z
    = (fleetSlots.foldl (fun s k => s.presentSlot z k) (s.presentFrom z)).zoneNotice .zonePresent z := by
  rw [← foldl_fleet (fun k s => s.presentSlot z k)]
  rfl

/-- An entry to PRESENT does to each fleet slot what it does to that slot alone. -/
theorem slot_enterPresent (s : State) (z : ZoneIx) (k : SlotIx) :
    (s.enterPresent z).slot k = if k.val < 20 then ((s.presentFrom z).presentSlot z k).slot k else s.slot k := by
  have each := slot_foldl_alike (fun s k => s.presentSlot z k) (fun t k j ne => alike_presentSlot t z k j ne) fleetSlots
    (fun t u k mem alike => presentSlot_reads t u z k ((mem_fleetSlots k).mp mem) alike) nodup_fleetSlots (s.presentFrom z) k
  have told (u : State) : (u.zoneNotice .zonePresent z).slot k = u.slot k := slot_of_slots (by rw [zoneNotice_shape]) k
  rw [enterPresent_eq, told, each]
  simp only [mem_fleetSlots]
  rfl

/-- A run over slots that stages SHORTENED notices only. -/
theorem notices_foldl_presentSlot (z : ZoneIx) (slots : List SlotIx) {s u : State} {l : List (NoticeKind × List Word)}
    {flags : List DspFlag} (h : s.notices u l flags) (outside : u.outside = s.outside) :
    ∃ l', s.notices (slots.foldl (fun s k => s.presentSlot z k) u) (l ++ l') flags ∧ ∀ p ∈ l', p.1 = .shortened := by
  induction slots generalizing u l with
  | nil => exact ⟨[], by rwa [List.append_nil], fun p mem => by cases mem⟩
  | cons k slots ih =>
    obtain ⟨l₁, told₁, all₁⟩ := notices_presentSlot h outside z k
    obtain ⟨l₂, told₂, all₂⟩ := ih told₁ ((fw_presentSlot (FloorWork.refl (calm := True) u) z k).outside.trans outside)
    refine ⟨l₁ ++ l₂, by rwa [← List.append_assoc], fun p mem => ?_⟩
    exact (List.mem_append.mp mem).elim (all₁ p) (all₂ p)

theorem notices_enterPresent (s : State) (z : ZoneIx) :
    ∃ l, s.notices (s.enterPresent z) (l ++ if (s.profile z).notices then
        [(.zonePresent, zoneWords z (s.zone z).filtered (s.zone z).baseline)] else []) []
      ∧ ∀ p ∈ l, p.1 = .shortened := by
  have start : s.notices (s.presentFrom z) [] [] :=
    notices_start s _ [] rfl fun f => by
      have kept : (s.presentFrom z).dspFlags = s.dspFlags := rfl
      rw [dsp_eq_of_flags kept]
      simp
  obtain ⟨l, told, all⟩ := notices_foldl_presentSlot z fleetSlots start rfl
  have work := fw_foldl (fun s k => s.presentSlot z k) (fun _ k m => fw_presentSlot m z k) fleetSlots
    (FloorWork.refl (calm := True) (s.presentFrom z))
  rw [enterPresent_eq]
  generalize fleetSlots.foldl (fun s k => s.presentSlot z k) (s.presentFrom z) = u at *
  have record : u.zone z = (s.zone z).entered (s.profile z) (s.after (s.profile z).stuckTenths) :=
    (zone_of_zones work.zones z).trans (zone_setZone_same s z _)
  have next := notices_zoneNotice told work.outside .zonePresent z
  rw [record, List.nil_append] at next
  exact ⟨l, next, all⟩

/-- A sample that enters PRESENT is judged so (R139 to R141). -/
theorem judgeZone_enters {s : State} {z : ZoneIx} {v : Word} (enters : sampleEnters s z v) :
    (s.clearFreeing.setZone z (sampledZone s z v)).judgeZone z (sampleDelta s z v)
      = (s.clearFreeing.setZone z (sampledZone s z v)).enterPresent z := by
  obtain ⟨exceeds, states⟩ := enters
  have higher : (s.profile z).exceeds (sampleDelta s z v) = true := decide_eq_true exceeds
  have record : (s.clearFreeing.setZone z (sampledZone s z v)).zone z = sampledZone s z v := zone_setZone_same _ z _
  have profile : (s.clearFreeing.setZone z (sampledZone s z v)).profile z = s.profile z := rfl
  have state : (sampledZone s z v).state = (s.zone z).state := by
    rw [sampledZone, haltChecked_rest]
  have debounce : (sampledZone s z v).debounce = (s.zone z).debounce := by
    rw [sampledZone, haltChecked_rest]
  unfold State.judgeZone
  rw [record, profile]
  rcases states with ⟨now | now, once⟩ | ⟨now, enough⟩
  · simp [state, now, higher, once]
  · simp [state, now, higher, once]
  · simp [state, now, higher, debounce, enough]

/-- A fleet slot whose scrubber stands elsewhere is cut before the first segment ahead that lies in the zone (R147). -/
theorem cut_presentSlot {s : State} {z : ZoneIx} {k : SlotIx} {i : Nat} {g : SegIx} (authority : scrubAuthority s k)
    (stands : ¬ slotStandsIn s k z) (entry : (g, i) ∈ (s.slot k).entries) (ahead : (s.slot k).progress < i)
    (within : i ≤ (s.slot k).endIx) (zone : (s.fixed g).zone = some z)
    (first : ∀ j h, (h, j) ∈ (s.slot k).entries → (s.slot k).progress < j → j < i → (s.fixed h).zone ≠ some z) :
    s.cut (s.presentSlot z k) k (i - 1) := by
  obtain ⟨fleet, scrubbing⟩ := authority
  have reach : (s.slot k).firstReaching (s.inZone z) = some i :=
    firstReaching_eq_some entry ahead within ((inZone_iff s z g).mpr zone) fun j h mem past before =>
      Bool.eq_false_iff.mpr fun wanted => first j h mem past before ((inZone_iff s z h).mp wanted)
  have shortens : (s.presentSlot z k).slot k = s.shortenedSlot k (i - 1) := by
    rw [presentSlot_ahead scrubbing stands, firstReaching_of_shorten reach, slot_shorten]
  have effective : (s.slot k).effectiveEnd (i - 1) = i - 1 := Nat.max_eq_left (by omega)
  have cut := cut_shortenedSlot fleet scrubbing.2 (by rw [effective]; omega) shortens
  rwa [effective] at cut

theorem slot_presentSlot_clear {s : State} {z : ZoneIx} {k : SlotIx} (authority : scrubAuthority s k)
    (stands : ¬ slotStandsIn s k z)
    (clear : ∀ j h, (h, j) ∈ (s.slot k).entries → (s.slot k).progress < j → j ≤ (s.slot k).endIx →
      (s.fixed h).zone ≠ some z) : s.presentSlot z k = s := by
  have reach : (s.slot k).firstReaching (s.inZone z) = none :=
    firstReaching_eq_none fun j h mem past within =>
      Bool.eq_false_iff.mpr fun wanted => clear j h mem past within ((inZone_iff s z h).mp wanted)
  rw [presentSlot_ahead authority.2 stands, shortenBefore_clear reach]

/-- What a zone turning PRESENT has done to the slots (R147). -/
structure PresentEffects (s u : State) (z : ZoneIx) : Prop where
  others : ∀ k, ¬ scrubAuthority s k → u.slot k = s.slot k
  holds : ∀ k, scrubAuthority s k → slotStandsIn s k z → u.slot k = { s.slot k with
    holdingZones := insertBy Fin.val z (s.slot k).holdingZones,
    scrubHold := (s.slot k).scrubHold || (s.slot k).holdingZones.isEmpty,
    changed := (s.slot k).changed || (s.slot k).holdingZones.isEmpty }
  cuts : ∀ k i g, scrubAuthority s k → ¬ slotStandsIn s k z → (g, i) ∈ (s.slot k).entries → (s.slot k).progress < i →
    i ≤ (s.slot k).endIx → (s.fixed g).zone = some z →
    (∀ j h, (h, j) ∈ (s.slot k).entries → (s.slot k).progress < j → j < i → (s.fixed h).zone ≠ some z) →
    s.cut u k (i - 1)
  clear : ∀ k, scrubAuthority s k → ¬ slotStandsIn s k z →
    (∀ j h, (h, j) ∈ (s.slot k).entries → (s.slot k).progress < j → j ≤ (s.slot k).endIx → (s.fixed h).zone ≠ some z) →
    u.slot k = s.slot k

theorem presentEffects_of_slots {s u : State} {z : ZoneIx}
    (slots : ∀ k, u.slot k = if k.val < 20 then (s.presentSlot z k).slot k else s.slot k) : PresentEffects s u z where
  others k other := by
    rw [slots k]
    split
    · rw [presentSlot_apart (fun scrubbing => other ⟨‹_›, scrubbing⟩) z]
    · rfl
  holds k authority stands := by
    rw [slots k, if_pos authority.1, presentSlot_stands authority.2 stands, slot_addHolding s z k authority.1]
  cuts k i g authority stands entry ahead within zone first := by
    have cut := cut_presentSlot authority stands entry ahead within zone first
    unfold State.cut at cut ⊢
    rwa [slots k, if_pos authority.1]
  clear k authority stands clear := by
    rw [slots k, if_pos authority.1, slot_presentSlot_clear authority stands clear]

/-- Settles O25: what the entry does to the floor and to each slot stands when the sample's event ends. -/
theorem presentZoneEffects : Obligations.PresentZoneEffects := by
  intro s z v memory modes inside enters
  obtain ⟨t, row, took⟩ := took_sample memory modes z v
  have seeded : seededState (s.zone z).state := by
    rcases enters.2 with ⟨now | now, _⟩ | ⟨now, _⟩ <;> simp [seededState, now]
  rw [zoneSample_inside s z _ inside, takeSample_seeded (s := s.clearFreeing) v seeded] at took
  replace took : s.tookWord ((((s.clearFreeing.setZone z (sampledZone s z v)).judgeZone z (sampleDelta s z v)).restartSample
    z).settle) t (figureAddr z false) v := took
  rw [judgeZone_enters enters] at took
  obtain ⟨l, told, all⟩ := notices_enterPresent (s.clearFreeing.setZone z (sampledZone s z v)) z
  have slots := slot_enterPresent (s.clearFreeing.setZone z (sampledZone s z v)) z
  have work := enterPresent_work (s.clearFreeing.setZone z (sampledZone s z v)) z
  rw [zone_setZone_same, setZone_setZone] at work
  rw [State.presentFrom, zone_setZone_same, setZone_setZone] at slots
  rw [zone_setZone_same] at told
  generalize (s.clearFreeing.setZone z (sampledZone s z v)).enterPresent z = q at *
  have record := (zone_of_zones work.zones z).trans (zone_setZone_same s.clearFreeing z _)
  have present : (q.zone z).state = .present := by rw [record]; rfl
  have filtered : (q.zone z).filtered = (sampledZone s z v).filtered := by rw [record]; rfl
  have baseline : (q.zone z).baseline = (sampledZone s z v).baseline := by rw [record]; rfl
  rw [← filtered, ← baseline] at told
  have restarted : (q.restartSample z).zone z = { q.zone z with sampleTimer := some (q.after 100) } :=
    zone_setZone_same q z _
  obtain ⟨e, shape, stored⟩ : ∃ e, e = s.clearFreeing.setZone z _ ∧ FloorWork True e q := ⟨_, rfl, work⟩
  rw [← shape] at slots
  obtain ⟨zones, shape⟩ : ∃ a, e = { s with zones := a, freeing := false } := ⟨_, shape⟩
  obtain ⟨others, holds, cuts, clear⟩ : PresentEffects s (q.restartSample z) z := by
    have effects := presentEffects_of_slots (s := e) (u := q.restartSample z) fun k => by
      rw [show (q.restartSample z).slot k = q.slot k from rfl, slots k, shape]
      rfl
    rw [shape] at effects
    exact ⟨effects.others, effects.holds, effects.cuts, effects.clear⟩
  rw [shape] at stored
  obtain ⟨queue, scrubbers, ops, claims⟩ := stored.still trivial
  refine ⟨q.restartSample z, t, row, took, stored.outside, queue, scrubbers, stored.cells, ops, ?_,
    fun g => ⟨stored.occupant g, stored.closure g, claims g⟩, others, holds, cuts, clear, l, ?_, all⟩
  · rw [restarted]
    exact present
  · rw [restarted]
    exact told

end Sys2Proof.Machine
end

section
/-! SUPPORT. Valid reports, and reports that are discarded (R92, R93). -/
namespace Sys2Proof.Machine
open Sys2Proof
set_option Elab.async false

/-! ### Validity (R93) -/

theorem ixOf_eq_some_iff (k v : Nat) (x : Fin k) : ixOf k v = some x ↔ v = x.val + 1 := by
  refine ⟨ixOf_eq_some k v x, fun e => ?_⟩
  obtain ⟨y, named, value⟩ := ixOf_in_range k v (by omega) (by omega)
  rw [named, Fin.ext (show y.val = x.val by omega)]

theorem ixOf_byte_eq_none (b : Byte) : ixOf 255 b.toNat = none ↔ b.toNat = 0 := by
  have bound := b.isLt
  unfold ixOf
  split
  · simp only [reduceCtorEq, false_iff]
    omega
  · simp only [true_iff]
    omega

/-- What a report says of its trailing segment (R93). -/
def State.trailingValid (s : State) (r : Report) (p : Position) : Prop :=
  p.trailing = none ∧ r.trailing.toNat = 0
    ∨ ∃ h, p.trailing = some h ∧ r.trailing.toNat = h.val + 1 ∧ h.val < s.n ∧ h ≠ p.current
      ∧ h ∈ (s.fixed p.current).nbrs

theorem validReport_iff (s : State) (r : Report) (x : ScrubIx) (p : Position) : s.validReport r = some (x, p) ↔
    r.scrubber.toNat = x.val + 1 ∧ (s.scrub x).state ≠ .absent ∧ r.current.toNat = p.current.val + 1
      ∧ p.current.val < s.n ∧ s.trailingValid r p := by
  obtain ⟨c, trailing⟩ := p
  rw [← ixOf_eq_some_iff 16, ← ixOf_eq_some_iff 255]
  unfold State.validReport State.trailingValid
  cases named : ixOf 16 r.scrubber.toNat with
  | none => simp
  | some y =>
    cases placed : ixOf 255 r.current.toNat with
    | none => simp
    | some d =>
      dsimp only
      by_cases bad : (s.scrub y).state = .absent ∨ s.n ≤ d.val
      · rw [if_pos bad]
        simp only [reduceCtorEq, Option.some.injEq, false_iff]
        rintro ⟨rfl, present, rfl, inside, -⟩
        rcases bad with absent | outside
        · exact present absent
        · omega
      · rw [if_neg bad]
        obtain ⟨present, inside⟩ := not_or.mp bad
        have inside : d.val < s.n := by omega
        cases behind : ixOf 255 r.trailing.toNat with
        | none =>
          have zero := (ixOf_byte_eq_none r.trailing).mp behind
          have never (h : SegIx) : r.trailing.toNat ≠ h.val + 1 := by omega
          simp only [Option.some.injEq, Prod.mk.injEq, Position.mk.injEq]
          constructor
          · rintro ⟨rfl, rfl, rfl⟩
            exact ⟨rfl, present, rfl, inside, .inl ⟨rfl, zero⟩⟩
          · rintro ⟨rfl, -, rfl, -, ⟨rfl, -⟩ | ⟨h, -, value, -⟩⟩
            · exact ⟨rfl, rfl, rfl⟩
            · exact absurd value (never h)
        | some t =>
          have value := ixOf_eq_some _ _ _ behind
          have only (h : SegIx) (e : r.trailing.toNat = h.val + 1) : t = h := Fin.ext (by omega)
          dsimp only
          by_cases wrong : s.n ≤ t.val ∨ t = d ∨ s.adjacent d t = false
          · rw [if_pos wrong]
            simp only [reduceCtorEq, Option.some.injEq, false_iff]
            rintro ⟨-, -, rfl, -, ⟨-, zero⟩ | ⟨h, -, e, low, apart, near⟩⟩
            · omega
            · obtain rfl := only h e
              rcases wrong with high | same | far
              · omega
              · exact apart same
              · simp only [State.adjacent, decide_eq_false_iff_not] at far
                exact far near
          · rw [if_neg wrong]
            simp only [not_or, Bool.not_eq_false] at wrong
            obtain ⟨low, apart, near⟩ := wrong
            simp only [Option.some.injEq, Prod.mk.injEq, Position.mk.injEq]
            constructor
            · rintro ⟨rfl, rfl, rfl⟩
              exact ⟨rfl, present, rfl, inside, .inr ⟨t, rfl, value, by omega, apart, by simpa [State.adjacent] using near⟩⟩
            · rintro ⟨rfl, -, rfl, -, ⟨-, zero⟩ | ⟨h, rfl, e, -⟩⟩
              · omega
              · exact ⟨rfl, rfl, by rw [only h e]⟩

/-! ### Discarded reports -/

theorem marks_notify {s t : State} {l : List MirrorRec} (h : s.marks t l)
    (mono : t.dspFlags = s.dspFlags ∨ ∃ p, t.dspFlags = s.dspFlags ||| p) (kind : NoticeKind) (p : List Word) :
    s.marks (t.notify kind p) l := by
  unfold State.notify State.stage
  split
  · exact h
  split
  · exact marks_setDsp h _ mono
  · exact marks_congr h

theorem took_discarded {s : State} (memory : s.memoryLaw) (modes : s.mode = .recovery ∨ s.mode = .service) (c : CellIx)
    (v : Word) {u : State} (event : s.reportEvent c v = u) :
    ∃ t, exec (.report c v) s = .next t.arbitrate ∧ s.tookWord u t (cellAddr c 3) v := event ▸ took_report memory modes c v

theorem notices_setCell (s : State) (c : CellIx) (r : CellCapture) : s.notices (s.setCell c r) [] [] :=
  notices_start s _ [] rfl fun f => by
    have kept : (s.setCell c r).dspFlags = s.dspFlags := rfl
    rw [dsp_eq_of_flags kept]
    simp

theorem cell_of_cells {s t : State} (h : t.cells = s.cells) (c : CellIx) : t.cell c = s.cell c := by
  unfold State.cell
  rw [h]

/-- Settles O31. -/
theorem validAndDiscardedReports : Obligations.ValidAndDiscardedReports := by
  refine ⟨validReport_iff, fun s c v memory modes => ⟨fun invalid => ?_, fun x p valid withdrawn => ?_⟩⟩
  · have event : s.reportEvent c v = ((s.setCell c {}).setDsp .reportInvalid).notify .reportInvalid
        [pack4 c.val (reportOf (s.cell c) v).scrubber.toNat 0 0] := by
      have none : (s.setCell c {}).validReport (reportOf (s.cell c) v) = none := invalid
      unfold State.reportEvent
      simp only [none]
      rfl
    obtain ⟨t, row, took⟩ := took_discarded memory modes c v event
    have cells : (((s.setCell c {}).setDsp .reportInvalid).notify .reportInvalid
        [pack4 c.val (reportOf (s.cell c) v).scrubber.toNat 0 0]).cells = (s.setCell c {}).cells := by
      rw [notify_shape]
      rfl
    have cleared : s.marks (s.setCell c {}) [] := marks_congr (marks_refl s)
    refine ⟨_, t, row, took, ?_, (cell_of_cells cells c).trans (cell_setCell_same s c _), fun d ne =>
      (cell_of_cells cells d).trans (cell_setCell_other s c d _ ne.symm),
      notices_notify (notices_setDsp (notices_setCell s c {}) .reportInvalid) rfl rfl rfl _ _,
      marks_notify (marks_setDsp cleared .reportInvalid (.inl rfl)) (.inr ⟨_, rfl⟩) _ _⟩
    rw [notify_shape]
    rfl
  · have event : s.reportEvent c v = (s.setCell c {}).notify .withdrawnHeard
        [pack4 (x.val + 1) (p.current.val + 1) 0 0] := by
      have some : (s.setCell c {}).validReport (reportOf (s.cell c) v) = some (x, p) := valid
      have gone : ((s.setCell c {}).scrub x).state = .withdrawn := withdrawn
      unfold State.reportEvent
      simp only [some, gone, if_true]
    obtain ⟨t, row, took⟩ := took_discarded memory modes c v event
    have cells : ((s.setCell c {}).notify .withdrawnHeard [pack4 (x.val + 1) (p.current.val + 1) 0 0]).cells
        = (s.setCell c {}).cells := by
      rw [notify_shape]
    have cleared : s.marks (s.setCell c {}) [] := marks_congr (marks_refl s)
    refine ⟨_, t, row, took, ?_, (cell_of_cells cells c).trans (cell_setCell_same s c _), fun d ne =>
      (cell_of_cells cells d).trans (cell_setCell_other s c d _ ne.symm), notices_notify (notices_setCell s c {}) rfl rfl rfl _ _,
      marks_notify cleared (.inl rfl) _ _⟩
    rw [notify_shape]
    rfl

end Sys2Proof.Machine
end

section
/-! SUPPORT. The progress mark of a slot whose progress index lies beyond the four places of its progress word. -/
namespace Sys2Proof.Machine
open Sys2Proof
set_option Elab.async false

/-! ### Dirty marks and slots through the end of an event -/

/-- No move clears a dirty mark (R35). -/
theorem Moves.dirty {R : Slot → Slot → Prop} {s t : State} (m : Moves R s t) {r : MirrorRec} (h : r ∈ s.dirty) :
    r ∈ t.dirty := by
  induction m with
  | refl => exact h
  | seg _ g q ih => exact (mem_dirty_setSeg _ g q r).mpr (.inr ih)
  | slot _ k q _ ih => exact (mem_dirty_setSlot _ k q r).mpr (.inr (.inr ih))
  | scrub _ x q ih => exact (mem_dirty_setScrub _ x q r).mpr (.inr ih)
  | markDirty _ q ih => exact (mem_dirty_markDirty _ q r).mpr (.inr ih)
  | setDsp _ f ih => exact (mem_dirty_markIf _ _ _ r).mpr (.inr ih)
  | setOps _ f ih => exact (mem_dirty_markIf _ _ _ r).mpr (.inr ih)
  | _ => assumption

/-- A slot that is live after a run of moves was live before it (R58). -/
theorem Moves.live {s t : State} (m : Moves Slot.KeepsRoute s t) (k : SlotIx) (live : (t.slot k).state ≠ .idle) :
    (s.slot k).state ≠ .idle := by
  induction m with
  | refl => exact live
  | @slot t _ j q change ih =>
    by_cases here : j = k
    · subst here
      rw [slot_setSlot_same] at live
      exact ih (change.live live).1
    · rw [slot_setSlot_other t j k q here] at live
      exact ih live
  | _ => simp_all

theorem mv_enterService (s : State) : Moves Slot.KeepsRoute { s with mode := .service } s.enterService :=
  mv_notify (mv_foldl _ (fun _ g m => mv_ite _ (fun _ => mv_markWet m g) (fun _ => m)) _ (.refl _)) _ _

theorem dirty_judgeService {s : State} {r : MirrorRec} (h : r ∈ s.dirty) : r ∈ s.judgeService.dirty := by
  unfold State.judgeService
  split
  · exact (mv_enterService s).dirty h
  · exact h

theorem live_judgeService {s : State} {k : SlotIx} (h : (s.judgeService.slot k).state ≠ .idle) : (s.slot k).state ≠ .idle := by
  unfold State.judgeService at h
  split at h
  · exact (mv_enterService s).live k h
  · exact h

theorem arbitrate_tables (s : State) : s.arbitrate.slots = s.slots ∧ s.arbitrate.dirty = s.dirty := by
  unfold State.arbitrate State.beginGrant
  split
  · split
    · exact ⟨rfl, rfl⟩
    · exact ⟨rfl, rfl⟩
  · exact ⟨rfl, rfl⟩

/-! ### The refuting state -/

/-- One segment, in no zone and no pinch group. -/
def oneSegmentSite : Site :=
  { defaultClass := 0, enrolled := 1, dspPolarity := .activeLowOpenDrain, gwyPolarity := .activeLowOpenDrain,
    opsPolarity := .activeHighDriven,
    timings := { report := 30, confirm := 50, shorten := 40, fleetWait := 30, passengerWait := 90 },
    classes := Vector.replicate 8 { drying := 2, wetScrub := true, moistureCheck := true, restartWet := true },
    profiles := Vector.replicate 4
      { filterShift := 0, baselineShift := 4, fastShift := 1, fastBound := 50, presence := 40, halt := 10, hysteresis := 64,
        debounceIn := 1, debounceOut := 1, quietTime := 1, stuckTimeout := 1, dryThreshold := 500, notices := true },
    zones := [],
    segs := [{ zone := none, cls := none, pinch := none, nbrs := [] }] }

/-- An ACTIVE slot over segment 1 whose progress index 17 lies beyond its end index 1. -/
def overrunSlot : Slot :=
  { state := .active, scrubber := some 0, route := [0], evidence := [.none], endIx := 1, progress := 17 }

/-- SERVICE, with the overrun slot live for scrubber 1, which reports from segment 1 for slot 2. -/
def overrun : State :=
  { mode := .service, load := .idle, site := some oneSegmentSite, dirty := [], staging := [],
    slots := (Vector.replicate 24 {}).set 0 overrunSlot,
    scrubbers := (Vector.replicate 16 {}).set 0 { state := .heard, current := some 0, liveSlot := some 0 },
    cells := (Vector.replicate 64 {}).set 0 { word0 := some 1, word1 := some 1, word2 := some 2 } }

/-- Whether an outcome goes on with slot 1 live and no mark on its progress word. -/
def unmarkedProgress : Host.Outcome State Fault Refusal → Bool
  | .next t => decide ((t.slot 0).state ≠ .idle ∧ MirrorRec.slotProgress 0 ∉ t.dirty)
  | _ => false

theorem overrun_unmarked : unmarkedProgress (exec (.report 0 0) overrun) = true := by decide +kernel

/-- Refutes O29: nothing keeps the progress index within the four places that the progress word shows (R98, 13.2). From
index 17 a report on segment 1 brings the slot to its end index 1, the word shows 1 before and after, and no mark is
set. -/
theorem not_reportProgressAndReleases : ¬ Obligations.ReportProgressAndReleases := by
  intro h
  obtain ⟨u, t, row, took, progress, -⟩ := h overrun 0 0 0 { current := 0, trailing := none } 0 0 overrunSlot
    (overrunSlot.walked { current := 0, trailing := none } false) (by delta State.memoryLaw; decide +kernel)
    (by delta State.routeLaw; decide +kernel) (.inr rfl) (by decide +kernel) (by decide +kernel) (by decide +kernel) rfl
    (by decide +kernel) (by decide +kernel) (by decide) (by decide) (by decide)
  have outcome := overrun_unmarked
  rw [row] at outcome
  obtain ⟨live, unmarked⟩ := of_decide_eq_true outcome
  obtain ⟨slots, dirty⟩ := arbitrate_tables t
  have turn : overrun.turn u.settle.judgeService = u.settle.judgeService := if_pos (by decide +kernel)
  have shape := took.1
  rw [turn] at shape
  have event : Moves Slot.KeepsRoute u u.settle := mv_settle (.refl u)
  have alive : (u.slot 0).state ≠ .idle := by
    refine event.live 0 (live_judgeService fun idle => live ?_)
    rw [slot_of_slots slots, shape]
    exact idle
  refine unmarked ?_
  rw [dirty, shape]
  exact dirty_judgeService (event.dirty ((progress alive).2.2 (by decide)))

end Sys2Proof.Machine
end

section
/-! SUPPORT. What a processed report leaves: its scrubber's record and the occupied segments (R92 to R104). -/
namespace Sys2Proof.Machine
open Sys2Proof
set_option Elab.async false

/-! ### The occupancy move (R97) -/

theorem seg_setOccupant (s : State) (x : ScrubIx) (g h : SegIx) : (s.setOccupant x g).seg h
    = if h = g ∧ (s.seg h).occupant = none then { s.seg h with occupant := some x } else s.seg h := by
  unfold State.setOccupant
  split
  · rename_i y e
    rw [if_neg]
    rintro ⟨rfl, free⟩
    rw [e] at free
    cases free
  · rename_i e
    rw [seg_refreshPinchOf, seg_setSeg]
    by_cases here : g = h
    · subst here; rw [if_pos rfl, if_pos ⟨rfl, e⟩]
    · rw [if_neg here, if_neg (fun c => here c.1.symm)]

theorem seg_clearOccupant (s : State) (x : ScrubIx) (g h : SegIx) : (s.clearOccupant x g).seg h
    = if h = g ∧ (s.seg h).occupant = some x then { s.seg h with occupant := none } else s.seg h := by
  unfold State.clearOccupant
  split
  · rename_i e
    rw [seg_refreshPinchOf, seg_noteFreeing, seg_setSeg]
    by_cases here : g = h
    · subst here; rw [if_pos rfl, if_pos ⟨rfl, e⟩]
    · rw [if_neg here, if_neg (fun c => here c.1.symm)]
  · rename_i e
    rw [if_neg]
    rintro ⟨rfl, mine⟩
    exact e mine

theorem seg_foldl_setOccupant (x : ScrubIx) (l : List SegIx) (s : State) (h : SegIx) :
    (l.foldl (fun s g => s.setOccupant x g) s).seg h
      = if h ∈ l ∧ (s.seg h).occupant = none then { s.seg h with occupant := some x } else s.seg h := by
  induction l generalizing s with
  | nil => simp
  | cons g l ih =>
    rw [List.foldl_cons, ih, seg_setOccupant]
    by_cases now : h = g ∧ (s.seg h).occupant = none
    · rw [if_pos now, if_neg (by simp), if_pos ⟨now.1 ▸ List.mem_cons_self, now.2⟩]
    · rw [if_neg now]
      refine if_congr (and_congr_left fun free => ?_) rfl rfl
      exact ⟨List.mem_cons_of_mem g, fun mem => (List.mem_cons.mp mem).resolve_left fun same => now ⟨same, free⟩⟩

theorem seg_foldl_clearOccupant (x : ScrubIx) (l : List SegIx) (s : State) (h : SegIx) :
    (l.foldl (fun s g => s.clearOccupant x g) s).seg h
      = if h ∈ l ∧ (s.seg h).occupant = some x then { s.seg h with occupant := none } else s.seg h := by
  induction l generalizing s with
  | nil => simp
  | cons g l ih =>
    rw [List.foldl_cons, ih, seg_clearOccupant]
    by_cases now : h = g ∧ (s.seg h).occupant = some x
    · rw [if_pos now, if_neg (by simp), if_pos ⟨now.1 ▸ List.mem_cons_self, now.2⟩]
    · rw [if_neg now]
      refine if_congr (and_congr_left fun mine => ?_) rfl rfl
      exact ⟨List.mem_cons_of_mem g, fun mem => (List.mem_cons.mp mem).resolve_left fun same => now ⟨same, mine⟩⟩

theorem mem_occupiedBy (s : State) (x : ScrubIx) (g : SegIx) :
    g ∈ s.occupiedBy x ↔ g.val < s.n ∧ (s.seg g).occupant = some x := by
  simp [State.occupiedBy, State.segIxs, and_comm]

theorem mem_segs (p : Position) (g : SegIx) : g ∈ p.segs ↔ g = p.current ∨ some g = p.trailing := by
  obtain ⟨current, trailing⟩ := p
  cases trailing <;> simp [Position.segs]

/-- The occupant that the move of scrubber x leaves on a segment (R97). -/
def State.occupantMoved (s : State) (x : ScrubIx) (p : Position) (g : SegIx) : Option ScrubIx :=
  if g ∈ p.segs then some ((s.seg g).occupant.getD x)
  else if g.val < s.n ∧ (s.seg g).occupant = some x then none
  else (s.seg g).occupant

/-- The occupancy move stores occupants alone. -/
theorem seg_moveTo (s : State) (x : ScrubIx) (p : Position) (g : SegIx) :
    (s.moveTo x p).seg g = { s.seg g with occupant := s.occupantMoved x p g } := by
  have left : g ∈ (s.occupiedBy x).filter (fun g => !decide (g ∈ p.segs))
      ↔ (g.val < s.n ∧ (s.seg g).occupant = some x) ∧ g ∉ p.segs := by
    rw [List.mem_filter, mem_occupiedBy]
    simp
  unfold State.moveTo State.occupantMoved
  dsimp only
  rw [seg_setScrub, seg_foldl_clearOccupant, seg_foldl_setOccupant]
  simp only [left]
  by_cases stands : g ∈ p.segs
  · generalize s.seg g = q
    obtain ⟨holder, occupant⟩ := q
    cases occupant with
    | none => simp [stands]
    | some y => simp [stands]
  · by_cases leaves : g.val < s.n ∧ (s.seg g).occupant = some x
    · simp [stands, leaves]
    · simp [stands, leaves]

theorem pinchOnly_setOccupant (s : State) (x : ScrubIx) (g : SegIx) : ∃ segs pinch freeing dirty,
    s.setOccupant x g = { s with segs := segs, pinch := pinch, freeing := freeing, dirty := dirty } := by
  unfold State.setOccupant
  split
  · exact ⟨_, _, _, _, rfl⟩
  · obtain ⟨pinch, freeing, shape⟩ := refreshPinchOf_eq (s.setSeg g { s.seg g with occupant := some x }) g (some x)
    exact ⟨_, _, _, _, shape⟩

theorem pinchOnly_clearOccupant (s : State) (x : ScrubIx) (g : SegIx) : ∃ segs pinch freeing dirty,
    s.clearOccupant x g = { s with segs := segs, pinch := pinch, freeing := freeing, dirty := dirty } := by
  unfold State.clearOccupant
  split
  · obtain ⟨pinch, freeing, shape⟩ := refreshPinchOf_eq ((s.setSeg g { s.seg g with occupant := none }).noteFreeing) g none
    exact ⟨_, _, _, _, shape⟩
  · exact ⟨_, _, _, _, rfl⟩

/-- What reads none of segments, pinch entries, the note of a freeing change and dirty marks is the same after a move. -/
theorem moveTo_keeps {α : Type} (read : State → α)
    (blind : ∀ (s : State) segs pinch freeing dirty,
      read { s with segs := segs, pinch := pinch, freeing := freeing, dirty := dirty } = read s)
    (stored : ∀ (s : State) x r, read (s.setScrub x r) = read s) (s : State) (x : ScrubIx) (p : Position) :
    read (s.moveTo x p) = read s := by
  unfold State.moveTo
  dsimp only
  rw [stored, foldl_keeps read _ (fun t g => ?_), foldl_keeps read _ (fun t g => ?_)]
  · obtain ⟨_, _, _, _, shape⟩ := pinchOnly_setOccupant t x g
    rw [shape, blind]
  · obtain ⟨_, _, _, _, shape⟩ := pinchOnly_clearOccupant t x g
    rw [shape, blind]

/-! ### The frame of a report -/

/-- What the work of a report leaves beside slots and held floor: cells, zones, closures, the other scrubbers but for
their live slots; of its own scrubber the mark and the live slot may change. -/
structure ReportWork (x : ScrubIx) (s t : State) : Prop where
  outside : t.outside = s.outside
  cells : t.cells = s.cells
  zones : t.zones = s.zones
  own : ∃ m l, t.scrub x = { s.scrub x with mark := m, liveSlot := l }
  others : ∀ y, y ≠ x → t.scrub y = { s.scrub y with liveSlot := (t.scrub y).liveSlot }
  occupant : ∀ g, (t.seg g).occupant = (s.seg g).occupant
  closure : ∀ g, (t.seg g).closure = (s.seg g).closure

theorem ReportWork.of_floor {calm : Prop} {s t : State} (x : ScrubIx) (h : FloorWork calm s t) : ReportWork x s t :=
  ⟨h.outside, h.cells, h.zones, ⟨_, _, h.scrub x⟩, fun y _ => h.scrub y, h.occupant, h.closure⟩

theorem ReportWork.trans {x : ScrubIx} {s t u : State} (a : ReportWork x s t) (b : ReportWork x t u) : ReportWork x s u where
  outside := b.outside.trans a.outside
  cells := b.cells.trans a.cells
  zones := b.zones.trans a.zones
  own := by
    obtain ⟨m, l, first⟩ := a.own
    obtain ⟨m', l', second⟩ := b.own
    exact ⟨m', l', by rw [second, first]⟩
  others y ne := by rw [b.others y ne, a.others y ne]
  occupant g := (b.occupant g).trans (a.occupant g)
  closure g := (b.closure g).trans (a.closure g)

theorem scrub_setMark (s : State) (x y : ScrubIx) : (s.setMark x).scrub y = (s.placeMark x).scrub y := by
  unfold State.setMark State.raising
  split <;> rfl

theorem work_setMark (s : State) (x : ScrubIx) : ReportWork x s (s.setMark x) := by
  have shape : ∃ flags dirty, s.setMark x = { s.placeMark x with dspFlags := flags, dirty := dirty } := by
    unfold State.setMark State.raising
    split
    · exact ⟨_, _, rfl⟩
    · exact ⟨_, _, rfl⟩
  have scrub (y : ScrubIx) : (s.setMark x).scrub y = if x = y then { s.scrub x with mark := true } else s.scrub y := by
    rw [scrub_setMark, State.placeMark, scrub_setScrub]
  obtain ⟨flags, dirty, shape⟩ := shape
  refine ⟨by rw [shape]; rfl, by rw [shape]; rfl, by rw [shape]; rfl, ⟨true, (s.scrub x).liveSlot, ?_⟩, fun y ne => ?_,
    fun g => by rw [shape]; rfl, fun g => by rw [shape]; rfl⟩
  · rw [scrub, if_pos rfl]
  · rw [scrub, if_neg ne.symm]

section Work
variable {s t : State}

theorem fw_shortenHolder (h : FloorWork False s t) (g : SegIx) (except : Option SlotIx) :
    FloorWork False s (t.shortenHolder g except) := by
  unfold State.shortenHolder
  split
  · exact h
  · refine .ite _ (fun _ => ?_) (fun _ => h)
    split
    · exact .ite _ (fun _ => fw_shorten h _ _) (fun _ => h)
    · exact h

theorem fw_endSlot (h : FloorWork False s t) (k : SlotIx) (res : Result) : FloorWork False s (t.endSlot k res) :=
  fw_clearLiveOf id (fw_notifySlot (fw_toIdle h k res 0) _ _ _ _) k

theorem fw_releaseAndEnd (h : FloorWork False s t) (k : SlotIx) (res : Result) : FloorWork False s (t.releaseAndEnd k res) :=
  fw_endSlot (fw_releaseWhere h k _) k res

theorem fw_giveUp (h : FloorWork False s t) (k : SlotIx) (res : Result) : FloorWork False s (t.giveUp k res) :=
  fw_endSlot (fw_slot (fw_releaseWhere h k _) k _) k res

theorem fw_confirmedNotice (h : FloorWork False s t) (k : SlotIx) : FloorWork False s (t.confirmedNotice k) :=
  fw_notifySlot (fw_markDirty h _) _ _ _ _

theorem fw_progressTo (h : FloorWork False s t) (x : ScrubIx) (p : Position) : FloorWork False s (t.progressTo x p) := by
  unfold State.progressTo
  split
  · exact h
  split
  · exact h
  · exact fw_slot h _ _

theorem fw_releaseBehind (h : FloorWork False s t) (x : ScrubIx) (p : Position) :
    FloorWork False s (t.releaseBehind x p) := by
  unfold State.releaseBehind
  split
  · exact h
  · exact fw_releaseWhere h _ _

theorem fw_witness (h : FloorWork False s t) (x : ScrubIx) (p : Position) (scrubbing : Bool) :
    FloorWork False s (t.witness x p scrubbing) := by
  unfold State.witness
  split
  · exact h
  · exact fw_slot h _ _

theorem fw_slotField (h : FloorWork False s t) (x : ScrubIx) (p : Position) (r : Report) (beyond : Bool) :
    FloorWork False s (t.slotField x p r beyond) := by
  unfold State.slotField
  split
  · exact h
  refine .ite _ (fun _ => fw_giveUp h _ _) (fun _ => .ite _ (fun _ => h) fun _ => ?_)
  split
  · exact fw_confirmedNotice (fw_slot h _ _) _
  · exact .ite _ (fun _ => fw_endSlot (fw_confirmedNotice (fw_slot (fw_releaseWhere (fw_releaseWhere h _ _) _ _) _ _) _) _ _)
      (fun _ => fw_confirmedNotice (fw_slot (fw_releaseWhere h _ _) _ _) _)
  all_goals exact h

theorem fw_complete (h : FloorWork False s t) (x : ScrubIx) (p : Position) (f : ReportFlags) :
    FloorWork False s (t.complete x p f) := by
  unfold State.complete
  split
  · exact h
  · exact .ite _ (fun _ => fw_releaseAndEnd h _ _) (fun _ => h)

end Work

theorem work_violation (s : State) (x : ScrubIx) (p : Position) (v : List SegIx) : ReportWork x s (s.violation x p v) := by
  unfold State.violation
  split
  · exact .of_floor x (.refl (calm := False) s)
  · rename_i first rest
    have marked : ReportWork x s (if (s.scrub x).mark then s else s.setMark x) := by
      split
      · exact .of_floor x (.refl (calm := False) s)
      · exact work_setMark s x
    dsimp only
    generalize (if (s.scrub x).mark then s else s.setMark x) = t at marked ⊢
    refine marked.trans (.of_floor x (calm := False) ?_)
    have cut : FloorWork False t ((first :: rest).foldl (fun u g => u.shortenHolder g ((s.scrub x).liveSlot.map fleetSlot))
        (match (s.scrub x).liveSlot.map fleetSlot with
          | none => t
          | some k => t.shortenToProgress k)) := by
      refine fw_foldl _ (fun _ g m => fw_shortenHolder m g _) _ ?_
      split
      · exact .refl t
      · exact fw_shorten (.refl t) _ _
    exact .ite _ (fun _ => cut) (fun _ => fw_notify (fw_setDsp cut _) _ _)

end Sys2Proof.Machine
end

section
/-! SUPPORT. A processed report, from the notice of its scrubber to its record (R92 to R104). -/
namespace Sys2Proof.Machine
open Sys2Proof
set_option Elab.async false

/-! ### The steps before the floor's (R94, R97) -/

theorem hear_tables (s : State) (x : ScrubIx) (p : Position) :
    (s.hear x p).cells = s.cells ∧ (s.hear x p).zones = s.zones ∧ (s.hear x p).segs = s.segs := by
  unfold State.hear
  dsimp only
  split
  · rw [notify_shape]
    exact ⟨rfl, rfl, rfl⟩
  · exact ⟨rfl, rfl, rfl⟩

/-- A scrubber that is neither ABSENT nor WITHDRAWN is HEARD after step 2 (R94). -/
theorem scrub_hear {s : State} {x : ScrubIx} (p : Position) (present : (s.scrub x).state ≠ .absent)
    (stays : (s.scrub x).state ≠ .withdrawn) (y : ScrubIx) :
    (s.hear x p).scrub y = if x = y then { s.scrub x with state := .heard } else s.scrub y := by
  have notified (t : State) (kind : NoticeKind) (l : List Word) : (t.notify kind l).scrub y = t.scrub y := by
    have scrubbers : (t.notify kind l).scrubbers = t.scrubbers := by rw [notify_shape]
    unfold State.scrub
    rw [scrubbers]
  unfold State.hear
  dsimp only
  split
  · rw [notified, scrub_setScrub]
  · rename_i heard
    have heard : (s.scrub x).state = .heard := by
      cases now : (s.scrub x).state <;> simp_all
    split
    · rename_i same
      subst same
      rw [← heard]
    · rfl

theorem scrub_moveTo (s : State) (x : ScrubIx) (p : Position) (y : ScrubIx) : (s.moveTo x p).scrub y
    = if x = y then { s.scrub x with current := some p.current, trailing := p.trailing, parked := none } else s.scrub y := by
  have folded (l m : List SegIx) : (m.foldl (fun s g => s.clearOccupant x g) (l.foldl (fun s g => s.setOccupant x g) s)).scrubbers
      = s.scrubbers := by
    rw [foldl_keeps State.scrubbers _ (fun t g => ?_), foldl_keeps State.scrubbers _ (fun t g => ?_)]
    · obtain ⟨_, _, _, _, shape⟩ := pinchOnly_setOccupant t x g
      rw [shape]
    · obtain ⟨_, _, _, _, shape⟩ := pinchOnly_clearOccupant t x g
      rw [shape]
  have same (l m : List SegIx) (z : ScrubIx) :
      (m.foldl (fun s g => s.clearOccupant x g) (l.foldl (fun s g => s.setOccupant x g) s)).scrub z = s.scrub z := by
    unfold State.scrub
    rw [folded]
  unfold State.moveTo
  dsimp only
  rw [scrub_setScrub, same, same]

theorem moveTo_tables (s : State) (x : ScrubIx) (p : Position) :
    (s.moveTo x p).cells = s.cells ∧ (s.moveTo x p).zones = s.zones :=
  ⟨moveTo_keeps State.cells (fun _ _ _ _ _ => rfl) (fun _ _ _ => rfl) s x p,
    moveTo_keeps State.zones (fun _ _ _ _ _ => rfl) (fun _ _ _ => rfl) s x p⟩

/-! ### The whole report -/

/-- Steps 4 to 9 of a report, from the violated segments and the judgement of its place (R98 to R103). -/
theorem work_steps (s : State) (x : ScrubIx) (p : Position) (r : Report) (v : List SegIx) (beyond : Bool) :
    ReportWork x s ((((((s.progressTo x p).violation x p v).releaseBehind x p).witness x p r.flags.scrubbing).slotField x p r
      beyond).complete x p r.flags) := by
  have progressed : ReportWork x s (s.progressTo x p) := .of_floor x (fw_progressTo (.refl s) x p)
  refine (progressed.trans (work_violation _ x p v)).trans (.of_floor x (calm := False) ?_)
  exact fw_complete (fw_slotField (fw_witness (fw_releaseBehind (.refl _) x p) x p _) x p r beyond) x p _

/-- What a processed report leaves, before the end of its event. -/
structure Reported (x : ScrubIx) (p : Position) (r : Report) (s t : State) : Prop where
  cells : t.cells = s.cells
  zones : t.zones = s.zones
  own : ∃ m l, t.scrub x = { s.scrub x with
    state := .heard, current := some p.current, trailing := p.trailing, parked := none, liveSlot := l, mark := m,
    lastTime := s.clock, timer := some (s.clock + BitVec.ofNat 32 s.reportTimeout), flags := r.flags,
    lastSlot := r.slot, lastRevision := r.revision }
  others : ∀ y, y ≠ x → t.scrub y = { s.scrub y with liveSlot := (t.scrub y).liveSlot }
  occupant : ∀ g, (t.seg g).occupant = s.occupantMoved x p g
  closure : ∀ g, (t.seg g).closure = (s.seg g).closure
  marked : MirrorRec.scrubView x ∈ t.dirty

theorem reportTimeout_of_outside {s t : State} (h : t.outside = s.outside) : t.reportTimeout = s.reportTimeout := by
  have tuning : t.tuning = s.tuning := congrArg Outside.tuning h
  have site : t.site = s.site := congrArg Outside.site h
  simp only [State.reportTimeout, State.tuned, State.timings, tuning, site]

theorem reported_processReport {s : State} {x : ScrubIx} (p : Position) (r : Report)
    (present : (s.scrub x).state ≠ .absent) (stays : (s.scrub x).state ≠ .withdrawn) :
    Reported x p r s (s.processReport x p r) := by
  have outside : (s.hear x p).outside = s.outside := outside_hear s x p
  obtain ⟨cells₁, zones₁, segs₁⟩ := hear_tables s x p
  have seg₁ (g : SegIx) : (s.hear x p).seg g = s.seg g := by unfold State.seg; rw [segs₁]
  have scrub₁ := scrub_hear p present stays
  obtain ⟨cells₂, zones₂⟩ := moveTo_tables (s.hear x p) x p
  have scrub₂ := scrub_moveTo (s.hear x p) x p
  have seg₂ := seg_moveTo (s.hear x p) x p
  have outside₂ : ((s.hear x p).moveTo x p).outside = s.outside := (outside_moveTo _ x p).trans outside
  have occupants (g : SegIx) : (s.hear x p).occupantMoved x p g = s.occupantMoved x p g := by
    have count : (s.hear x p).n = s.n := by
      have site : (s.hear x p).site = s.site := congrArg Outside.site outside
      unfold State.n
      rw [site]
    unfold State.occupantMoved
    rw [seg₁, count]
  have work := work_steps ((s.hear x p).moveTo x p) x p r
    (p.segs.filter fun g => (s.hear x p).violated x ((s.scrub x).state == .unheard) g)
    (((s.hear x p).moveTo x p).beyondEnd x p)
  obtain ⟨t, processed⟩ : ∃ t, t = (((((((s.hear x p).moveTo x p).progressTo x p).violation x p (p.segs.filter fun g =>
    (s.hear x p).violated x ((s.scrub x).state == .unheard) g)).releaseBehind x p).witness x p
    r.flags.scrubbing).slotField x p r (((s.hear x p).moveTo x p).beyondEnd x p)).complete x p r.flags := ⟨_, rfl⟩
  have whole : s.processReport x p r = t.storeReport x r := by rw [processed]; rfl
  rw [← processed] at work
  obtain ⟨m, l, own⟩ := work.own
  have stored (y : ScrubIx) : (t.storeReport x r).scrub y = if x = y then
      (t.scrub x).reported t.clock (t.after t.reportTimeout) r else t.scrub y := scrub_setScrub t x y _
  have outside₃ : t.outside = s.outside := work.outside.trans outside₂
  rw [whole]
  refine ⟨?_, ?_, ⟨m, l, ?_⟩, fun y ne => ?_, fun g => ?_, fun g => ?_, (mem_dirty_markDirty _ _ _).mpr (.inl rfl)⟩
  · exact work.cells.trans (cells₂.trans cells₁)
  · exact work.zones.trans (zones₂.trans zones₁)
  · rw [stored, if_pos rfl, own, scrub₂, if_pos rfl, scrub₁, if_pos rfl, State.after, clock_of_outside outside₃,
      reportTimeout_of_outside outside₃]
    rfl
  · rw [stored, if_neg ne.symm, work.others y ne, scrub₂, if_neg ne.symm, scrub₁, if_neg ne.symm]
  · change (t.seg g).occupant = _
    rw [work.occupant, seg₂, occupants]
  · change (t.seg g).closure = _
    rw [work.closure, seg₂, seg₁]

theorem fw_enterService (s : State) : FloorWork False { s with mode := .service } s.enterService :=
  fw_notify (fw_foldl _ (fun _ g m => .ite _ (fun _ => fw_markWet m g) (fun _ => m)) _ (.refl _)) _ _

/-- The judgement of SERVICE keeps what a report has left of the tables. -/
theorem Reported.judgeService {x : ScrubIx} {p : Position} {r : Report} {s t : State} (h : Reported x p r s t) :
    Reported x p r s t.judgeService := by
  have marked := dirty_judgeService h.marked
  unfold State.judgeService at marked ⊢
  split
  · rename_i enters
    rw [if_pos enters] at marked
    have work := fw_enterService t
    obtain ⟨m, l, own⟩ := h.own
    have own' := work.scrub x
    have same (y : ScrubIx) : ({ t with mode := .service } : State).scrub y = t.scrub y := rfl
    rw [same, own] at own'
    refine ⟨work.cells.trans h.cells, work.zones.trans h.zones, ⟨m, _, own'⟩, fun y ne => ?_,
      fun g => (work.occupant g).trans (h.occupant g), fun g => (work.closure g).trans (h.closure g), marked⟩
    have after := work.scrub y
    rw [same, h.others y ne] at after
    exact after
  · exact h

theorem Reported.settle {x : ScrubIx} {p : Position} {r : Report} {s t : State} (h : Reported x p r s t) :
    Reported x p r s t.settle := by
  have work := fw_settle (FloorWork.refl (calm := False) t)
  obtain ⟨m, l, own⟩ := h.own
  refine ⟨work.cells.trans h.cells, work.zones.trans h.zones, ⟨m, _, by rw [work.scrub x, own]⟩, fun y ne => ?_,
    fun g => (work.occupant g).trans (h.occupant g), fun g => (work.closure g).trans (h.closure g),
    (mv_settle (.refl t)).dirty h.marked⟩
  rw [work.scrub y, h.others y ne]

/-- Settles O32. -/
theorem processedReport : Obligations.ProcessedReport := by
  intro s c v x p memory modes valid stays
  have event : s.reportEvent c v
      = ((s.setCell c {}).clearFreeing.processReport x p (reportOf (s.cell c) v)).settle.judgeService := by
    have known : (s.setCell c {}).validReport (reportOf (s.cell c) v) = some (x, p) := valid
    have here : ((s.setCell c {}).scrub x).state ≠ .withdrawn := stays
    unfold State.reportEvent
    simp only [known, here, if_false]
    rfl
  have quiet := quietOutside_reportEvent s c v
  obtain ⟨t, row, took⟩ := took_discarded memory modes c v event
  obtain ⟨_, present, _⟩ := (validReport_iff s _ x p).mp valid
  have reported : Reported x p (reportOf (s.cell c) v) (s.setCell c {}).clearFreeing _ :=
    (reported_processReport (s := (s.setCell c {}).clearFreeing) p (reportOf (s.cell c) v) present stays).settle.judgeService
  rw [event] at quiet
  generalize ((s.setCell c {}).clearFreeing.processReport x p (reportOf (s.cell c) v)).settle.judgeService = u at *
  refine ⟨u, t, row, took, quiet, (cell_of_cells reported.cells c).trans (cell_setCell_same s c _), fun d ne =>
    (cell_of_cells reported.cells d).trans (cell_setCell_other s c d _ ne.symm), reported.zones, reported.own,
    reported.others, fun g inside => ?_, reported.closure, reported.marked⟩
  rw [reported.occupant g]
  change (if g ∈ p.segs then some ((s.seg g).occupant.getD x)
    else if g.val < s.n ∧ (s.seg g).occupant = some x then none else (s.seg g).occupant) = _
  simp only [mem_segs, inside, true_and]
  cases (s.seg g).occupant <;> rfl

end Sys2Proof.Machine
end

section
/-! SUPPORT. Commands that are turned away (R160, R161). -/
namespace Sys2Proof.Machine
open Sys2Proof
set_option Elab.async false

/-! ### What a refusal leaves (R161) -/

theorem marks_setOps {s t : State} {l : List MirrorRec} (h : s.marks t l) (same : t.opsFlags = s.opsFlags) (f : OpsFlag) :
    s.marks (t.setOps f) l := by
  intro r
  rw [marks_setOps_self t f r, h r]
  have dsp : (t.setOps f).dspFlags = t.dspFlags := rfl
  rw [dsp, same]
  simp only [List.not_mem_nil, ne_eq, not_true_eq_false, and_false, false_or, or_false]
  tauto

theorem setResultRec_spec (s : State) (i : Issuer) (r : CmdResult) :
    (s.setResultRec i r).resultOf i = r ∧ (∀ j, j ≠ i → (s.setResultRec i r).resultOf j = s.resultOf j)
      ∧ s.setResultRec i r = { s with
        dspResult := (s.setResultRec i r).dspResult, opsResult := (s.setResultRec i r).opsResult,
        dirty := (s.setResultRec i r).dirty }
      ∧ s.marks (s.setResultRec i r) [resultRecord i] := by
  cases i with
  | dispatch =>
    refine ⟨rfl, fun j ne => ?_, rfl, marks_markDirty (t := { s with dspResult := r }) (marks_congr (marks_refl s)) _⟩
    cases j with
    | dispatch => exact absurd rfl ne
    | operations => rfl
  | operations =>
    refine ⟨rfl, fun j ne => ?_, rfl, marks_markDirty (t := { s with opsResult := r }) (marks_congr (marks_refl s)) _⟩
    cases j with
    | dispatch => rfl
    | operations => exact absurd rfl ne

/-- The dispatch flag of a refused command (R161). -/
def refusalFlags (i : Issuer) : List DspFlag := if i = .dispatch then [.commandRefused] else []

theorem flagRefused_spec {s u : State} (i : Issuer) {l : List MirrorRec} (marks : s.marks u l)
    (dsp : u.dspFlags = s.dspFlags) (ops : u.opsFlags = s.opsFlags) :
    u.flagRefused i = { u with
        dspFlags := (u.flagRefused i).dspFlags, opsFlags := (u.flagRefused i).opsFlags, dirty := (u.flagRefused i).dirty }
      ∧ (∀ f, (u.flagRefused i).dsp f = (s.dsp f || decide (f ∈ refusalFlags i)))
      ∧ (∀ f, (u.flagRefused i).ops f = (s.ops f || decide (f = .commandRefused ∧ i = .operations)))
      ∧ s.marks (u.flagRefused i) l
      ∧ ((u.flagRefused i).dspFlags = s.dspFlags ∨ ∃ p, (u.flagRefused i).dspFlags = s.dspFlags ||| p) := by
  have dspOf (f : DspFlag) : u.dsp f = s.dsp f := dsp_eq_of_flags dsp f
  have opsOf (f : OpsFlag) : u.ops f = s.ops f := by unfold State.ops; rw [ops]
  cases i with
  | dispatch =>
    refine ⟨rfl, fun f => ?_, fun f => ?_, marks_setDsp marks .commandRefused (.inl dsp), .inr ⟨_, congrArg (· ||| _) dsp⟩⟩
    · change (u.setDsp .commandRefused).dsp f = _
      rw [dsp_setDsp, dspOf]
      simp [refusalFlags]
    · change u.ops f = _
      rw [opsOf]
      simp
  | operations =>
    refine ⟨rfl, fun f => ?_, fun f => ?_, marks_setOps marks ops .commandRefused, .inl dsp⟩
    · change u.dsp f = _
      rw [dspOf]
      simp [refusalFlags]
    · change (u.setOps .commandRefused).ops f = _
      rw [ops_setOps, opsOf]
      simp

theorem refusedCommand_refuse (s : State) (i : Issuer) (code : Byte) (f : CmdFields) (o : CmdOutcome) :
    s.refusedCommand ((s.refuseCommand i code f o).answered tookOne) i code f.tag o := by
  obtain ⟨own, others, shape, marks⟩ := setResultRec_spec s i { code := code, tag := f.tag, outcome := o }
  unfold State.refuseCommand
  generalize s.setResultRec i { code := code, tag := f.tag, outcome := o } = u at *
  obtain ⟨shape', dsp, ops, marks', mono⟩ := flagRefused_spec i marks (by rw [shape]) (by rw [shape])
  generalize u.flagRefused i = v at *
  have results (j : Issuer) : ((v.notify .commandRefused
      [pack4 (tagCode (issuerTag i)) code.toNat f.tag.toNat o.code]).answered tookOne).resultOf j = u.resultOf j := by
    rw [notify_shape, shape']
    cases j <;> rfl
  have start : s.notices v [] (refusalFlags i) := notices_start s v _ (by rw [shape', shape]) dsp
  have told := notices_notify start (by rw [shape', shape]) (by rw [shape', shape]) (by rw [shape', shape]) .commandRefused
    [pack4 (tagCode (issuerTag i)) code.toNat f.tag.toNat o.code]
  refine ⟨?_, (results i).trans own, fun j ne => (results j).trans (others j ne), ?_, fun g => ?_,
    marks_congr (marks_notify marks' mono .commandRefused
      [pack4 (tagCode (issuerTag i)) code.toNat f.tag.toNat o.code])⟩
  · obtain ⟨dspRes, opsRes, dirty, shape⟩ : ∃ a b d, u = { s with dspResult := a, opsResult := b, dirty := d } :=
      ⟨_, _, _, shape⟩
    obtain ⟨flags, opsFlags, marked, shape'⟩ : ∃ a b d, v = { u with dspFlags := a, opsFlags := b, dirty := d } :=
      ⟨_, _, _, shape'⟩
    subst shape'
    subst shape
    rw [notify_shape]
    rfl
  · cases i with
    | dispatch => exact told
    | operations => exact told
  · have kept : (v.notify .commandRefused [pack4 (tagCode (issuerTag i)) code.toNat f.tag.toNat o.code]).opsFlags
        = v.opsFlags := by rw [notify_shape]
    have same : ((v.notify .commandRefused [pack4 (tagCode (issuerTag i)) code.toNat f.tag.toNat o.code]).answered
        tookOne).ops g = v.ops g := by
      unfold State.ops
      exact congrArg (fun w => BitVec.getLsbD w _) kept
    rw [same, ops g]

/-! ### The judgement of a command (R160) -/

/-- A command whose judgement is an error is turned away with it. -/
theorem turnsAway_of_error {s : State} {c : Instr} {i : Issuer} {code : Byte} {f : CmdFields} {o : CmdOutcome}
    (row : exec c s = .next (s.busAccess (commandAccess i code f))) (attends : s.attends = true)
    (issuer : s.mode = .noSite → i = .dispatch)
    (judged : (if i.knows code then s.cmdOf i code.toNat f else .error .unknownCode) = .error o) :
    s.turnsAway c i code f.tag o := by
  obtain ⟨loaded, begun⟩ := (attends_iff s).mp attends
  have issued : s.issue i code f = s.refuseCommand i code f o := by
    unfold State.issue
    rw [judged]
  refine ⟨_, row, ?_⟩
  rw [busAccess_command s i code f loaded begun issuer, issued]
  exact refusedCommand_refuse s i code f o

theorem turnsAway_known {s : State} {c : Instr} {i : Issuer} {code : Byte} {f : CmdFields} {o : CmdOutcome}
    (row : exec c s = .next (s.busAccess (commandAccess i code f))) (attends : s.attends = true)
    (issuer : s.mode = .noSite → i = .dispatch) (knows : i.knows code = true)
    (judged : s.cmdOf i code.toNat f = .error o) : s.turnsAway c i code f.tag o :=
  turnsAway_of_error row attends issuer (by rw [if_pos knows, judged])

/-! ### Operands (R160) -/

theorem attends_of_running {s : State} (h : s.running = true) : s.attends = true := by
  obtain ⟨loaded, begun, _⟩ := running_modes s h
  exact (attends_iff s).mpr ⟨loaded, begun⟩

theorem scrubOperand_none {s : State} {v : Byte}
    (h : v = 0 ∨ 16 < v.toNat ∨ ∃ x : ScrubIx, v.toNat = x.val + 1 ∧ (s.scrub x).state = .absent) :
    s.scrubOperand v = none := by
  unfold State.scrubOperand
  cases named : ixOf 16 v.toNat with
  | none => rfl
  | some x =>
    have value := ixOf_eq_some _ _ _ named
    rcases h with rfl | high | ⟨y, value', absent⟩
    · simp at value
    · omega
    · obtain rfl : x = y := Fin.ext (by omega)
      exact if_pos absent

theorem scrubOperand_some {s : State} {v : Byte} {x : ScrubIx} (value : v.toNat = x.val + 1)
    (present : (s.scrub x).state ≠ .absent) : s.scrubOperand v = some x := by
  unfold State.scrubOperand
  rw [(ixOf_eq_some_iff _ _ _).mpr value]
  exact if_neg present

theorem segOperand_none {s : State} {v : Byte} (h : v = 0 ∨ s.n < v.toNat) : s.segOperand v = none := by
  unfold State.segOperand
  cases named : ixOf 255 v.toNat with
  | none => rfl
  | some g =>
    have value := ixOf_eq_some _ _ _ named
    rcases h with rfl | high
    · simp at value
    · exact if_neg (by omega)

theorem segOperand_some {s : State} {v : Byte} {g : SegIx} (value : v.toNat = g.val + 1) (inside : v.toNat ≤ s.n) :
    s.segOperand v = some g := by
  unfold State.segOperand
  rw [(ixOf_eq_some_iff _ _ _).mpr value]
  exact if_pos (by omega)

theorem zoneOperand_none {s : State} {v : Byte} (h : v = 0 ∨ s.z < v.toNat) : s.zoneOperand v = none := by
  unfold State.zoneOperand
  cases named : ixOf 32 v.toNat with
  | none => rfl
  | some z =>
    have value := ixOf_eq_some _ _ _ named
    rcases h with rfl | high
    · simp at value
    · exact if_neg (by omega)

theorem zoneOperand_some {s : State} {v : Byte} {z : ZoneIx} (value : v.toNat = z.val + 1) (inside : v.toNat ≤ s.z) :
    s.zoneOperand v = some z := by
  unfold State.zoneOperand
  rw [(ixOf_eq_some_iff _ _ _).mpr value]
  exact if_pos (by omega)

end Sys2Proof.Machine
end

section
/-! SUPPORT. The refusals of each command (R108 to R110, R145, R149, R152, R160, R176). -/
namespace Sys2Proof.Machine
open Sys2Proof
set_option Elab.async false

/-! ### Codes and modes (R160) -/

theorem turnsAway_unknown {s : State} {i : Issuer} {code : Byte} (f : CmdFields) (attends : s.attends = true)
    (dispatch : i = .dispatch → code = 0 ∨ code = 7 ∨ code = 8 ∨ 12 ≤ code.toNat)
    (operations : i = .operations → s.mode ≠ .noSite ∧ (code.toNat < 5 ∨ 9 < code.toNat)) :
    s.turnsAway (.unknownCode i code f) i code f.tag .unknownCode := by
  have unknown : i.knows code = false := by
    cases i with
    | dispatch =>
      have codes := dispatch rfl
      refine decide_eq_false fun known => ?_
      rcases codes with rfl | rfl | rfl | high
      · exact absurd known.1 (by decide)
      · exact known.2.2.1 rfl
      · exact known.2.2.2 rfl
      · omega
    | operations =>
      have codes := (operations rfl).2
      exact decide_eq_false fun known => by omega
  refine turnsAway_of_error rfl attends (fun noSite => ?_) (by rw [unknown]; rfl)
  cases i with
  | dispatch => rfl
  | operations => exact absurd noSite (operations rfl).1

theorem noSite_refuses_operations {s : State} (code : Byte) (f : CmdFields) (mode : s.mode = .noSite) :
    ∃ t, exec (.unknownCode .operations code f) s = .next t ∧ t.answer = some .refused ∧ t.opsResult = s.opsResult
      ∧ t.staging = s.staging := by
  have attends : s.attends = true := by simp [State.attends, mode]
  have refused : s.allows (commandAccess .operations code f) = false := by
    refine Bool.eq_false_iff.mpr fun allowed => ?_
    obtain ⟨_, place⟩ := (allows_noSite s _ _ _ mode (by decide)).mp allowed
    rcases place with general | control
    · exact absurd general (by decide)
    · exact absurd control (by decide)
  have denied : s.busAccess (commandAccess .operations code f) = s.deny (commandAccess .operations code f) :=
    busAccess_refused attends (.inr ⟨addrParityOk_goodWrite _ _ _, refused⟩)
  have shape := (deny_spec s (commandAccess .operations code f)).1
  exact ⟨_, congrArg Host.Outcome.next denied, by rw [shape], by rw [shape], by rw [shape]⟩

/-- A dispatch command that is not taken in NO_SITE. -/
theorem turnsAway_noSite {s : State} {c : Instr} {code : Byte} {f : CmdFields}
    (row : exec c s = .next (s.busAccess (commandAccess .dispatch code f))) (mode : s.mode = .noSite)
    (knows : Issuer.dispatch.knows code = true)
    (judged : s.running = false → s.cmdOf .dispatch code.toNat f = .error .wrongMode) :
    s.turnsAway c .dispatch code f.tag .wrongMode :=
  turnsAway_known row (by simp [State.attends, mode]) (fun _ => rfl) knows (judged (by simp [State.running, mode]))

theorem turnsAway_notRunning {s : State} (f : CmdFields) (mode : s.mode = .noSite) :
    s.turnsAway (.withdraw f) .dispatch 2 f.tag .wrongMode ∧ s.turnsAway (.readmit f) .dispatch 3 f.tag .wrongMode
      ∧ s.turnsAway (.clearViolation f) .dispatch 4 f.tag .wrongMode
      ∧ s.turnsAway (.closeSegment .dispatch f) .dispatch 5 f.tag .wrongMode
      ∧ s.turnsAway (.reopenSegment .dispatch f) .dispatch 6 f.tag .wrongMode
      ∧ s.turnsAway (.reseedZone .dispatch f) .dispatch 9 f.tag .wrongMode
      ∧ s.turnsAway (.resetNotices f) .dispatch 10 f.tag .wrongMode := by
  have stops {α : Type} {a b : α} (h : s.running = false) : (if !s.running then a else b) = a := by rw [h]; rfl
  exact ⟨turnsAway_noSite rfl mode rfl fun h => stops h, turnsAway_noSite rfl mode rfl fun h => stops h,
    turnsAway_noSite rfl mode rfl fun h => stops h, turnsAway_noSite rfl mode rfl fun h => stops h,
    turnsAway_noSite rfl mode rfl fun h => stops h, turnsAway_noSite rfl mode rfl fun h => stops h,
    turnsAway_noSite rfl mode rfl fun h => stops h⟩

theorem cutForReload_same {s : State} (cut : PortCut) (h : s.reloadTaken = false) : s.cutForReload cut = s := by
  unfold State.cutForReload
  rw [h]
  rfl

/-- A RELOAD_SITE that is not taken cuts no grant short. -/
theorem turnsAway_reload {s : State} (f : CmdFields) (cut : PortCut) {o : CmdOutcome} (attends : s.attends = true)
    (kept : s.reloadTaken = false) (judged : s.cmdReloadSite = .error o) :
    s.turnsAway (.reloadSite f cut) .dispatch 11 f.tag o := by
  refine turnsAway_known (?_ : execReloadSite f cut s = _) attends (fun _ => rfl) rfl judged
  rw [execReloadSite, cutForReload_same cut kept]

theorem turnsAway_modes (s : State) (f : CmdFields) :
    (s.mode = .noSite ∨ s.mode = .service → s.turnsAway (.ackRestart f) .dispatch 1 f.tag .wrongMode)
      ∧ (s.mode = .recovery → ∀ c, s.turnsAway (.reloadSite f c) .dispatch 11 f.tag .wrongMode)
      ∧ (s.mode = .service → ∀ c k, (s.slot k).state ≠ .idle →
          s.turnsAway (.reloadSite f c) .dispatch 11 f.tag .notPermitted) := by
  refine ⟨fun modes => ?_, fun mode cut => ?_, fun mode cut k live => ?_⟩
  · have attends : s.attends = true := by rcases modes with e | e <;> simp [State.attends, e]
    have elsewhere : s.mode ≠ .recovery := by rcases modes with e | e <;> simp [e]
    exact turnsAway_known rfl attends (fun _ => rfl) rfl (if_neg elsewhere)
  · refine turnsAway_reload f cut (by simp [State.attends, mode]) (by simp [State.reloadTaken, mode]) ?_
    simp [State.cmdReloadSite, mode]
  · have busy : s.allIdle = false := by
      refine List.all_eq_false.mpr ⟨k, List.mem_finRange k, ?_⟩
      simpa using live
    refine turnsAway_reload f cut (by simp [State.attends, mode]) (by simp [State.reloadTaken, mode, busy]) ?_
    simp [State.cmdReloadSite, mode, busy]

/-! ### Operands and permissions (R160) -/

/-- A command in RECOVERY or SERVICE whose judgement past the mode is an error. -/
theorem turnsAway_running {s : State} {c : Instr} {i : Issuer} {code : Byte} {f : CmdFields} {o : CmdOutcome}
    (row : exec c s = .next (s.busAccess (commandAccess i code f))) (running : s.running = true)
    (knows : i.knows code = true) (judged : s.cmdOf i code.toNat f = .error o) : s.turnsAway c i code f.tag o :=
  turnsAway_known row (attends_of_running running) (fun noSite => absurd noSite (running_modes s running).2.2) knows judged

theorem goesOn {s : State} (running : s.running = true) {α : Type} {a b : α} : (if !s.running then a else b) = b := by
  rw [running]
  rfl

theorem turnsAway_scrubOperand {s : State} (f : CmdFields) (running : s.running = true)
    (h : s.scrubOperand f.a = none) :
    s.turnsAway (.withdraw f) .dispatch 2 f.tag .badOperand ∧ s.turnsAway (.readmit f) .dispatch 3 f.tag .badOperand
      ∧ s.turnsAway (.clearViolation f) .dispatch 4 f.tag .badOperand := by
  refine ⟨turnsAway_running rfl running rfl ?_, turnsAway_running rfl running rfl ?_, turnsAway_running rfl running rfl ?_⟩
  · refine (goesOn running).trans ?_
    rw [h]
  · refine (goesOn running).trans ?_
    rw [h]
  · refine (goesOn running).trans ?_
    rw [h]

theorem turnsAway_parking {s : State} (f : CmdFields) (running : s.running = true) (high : s.n < f.b.toNat) :
    s.turnsAway (.withdraw f) .dispatch 2 f.tag .badOperand := by
  refine turnsAway_running rfl running rfl ((goesOn running).trans ?_)
  split
  · rfl
  · exact if_pos high

theorem turnsAway_segOperand {s : State} (f : CmdFields) (running : s.running = true) (h : s.segOperand f.a = none)
    (i : Issuer) : s.turnsAway (.closeSegment i f) i 5 f.tag .badOperand
      ∧ s.turnsAway (.reopenSegment i f) i 6 f.tag .badOperand := by
  refine ⟨turnsAway_running rfl running (by cases i <;> rfl) ?_, turnsAway_running rfl running (by cases i <;> rfl) ?_⟩
  · refine (goesOn running).trans ?_
    rw [h]
  · refine (goesOn running).trans ?_
    rw [h]

theorem turnsAway_zoneOperand {s : State} (f : CmdFields) (running : s.running = true) (h : s.zoneOperand f.a = none) :
    s.turnsAway (.closeZone f) .operations 7 f.tag .badOperand
      ∧ s.turnsAway (.reopenZone f) .operations 8 f.tag .badOperand
      ∧ ∀ i, s.turnsAway (.reseedZone i f) i 9 f.tag .badOperand := by
  refine ⟨turnsAway_running rfl running rfl ?_, turnsAway_running rfl running rfl ?_,
    fun i => turnsAway_running rfl running (by cases i <;> rfl) ?_⟩
  · refine (goesOn running).trans ?_
    rw [h]
  · refine (goesOn running).trans ?_
    rw [h]
  · refine (goesOn running).trans ?_
    rw [h]

theorem turnsAway_occupied {s : State} (f : CmdFields) (running : s.running = true) {x y : ScrubIx} {g : SegIx}
    (named : s.scrubOperand f.a = some x) (value : f.b.toNat = g.val + 1) (inside : f.b.toNat ≤ s.n)
    (occupied : (s.seg g).occupant = some y) (other : y ≠ x) :
    s.turnsAway (.withdraw f) .dispatch 2 f.tag .notPermitted := by
  refine turnsAway_running rfl running rfl ((goesOn running).trans ?_)
  rw [named]
  refine (if_neg (Nat.not_lt.mpr inside)).trans ?_
  rw [(ixOf_eq_some_iff _ _ _).mpr value]
  refine if_pos ?_
  simp [occupied, other]

theorem turnsAway_readmit {s : State} (f : CmdFields) (running : s.running = true) {x : ScrubIx}
    (named : s.scrubOperand f.a = some x) (stays : (s.scrub x).state ≠ .withdrawn) :
    s.turnsAway (.readmit f) .dispatch 3 f.tag .notPermitted := by
  refine turnsAway_running rfl running rfl ((goesOn running).trans ?_)
  rw [named]
  exact if_neg stays

theorem turnsAway_clearViolation {s : State} (f : CmdFields) (running : s.running = true) {x : ScrubIx}
    (named : s.scrubOperand f.a = some x)
    (fails : (s.scrub x).state ≠ .heard ∨ (s.scrub x).mark = false ∨ (s.scrub x).flags.stopped = false) :
    s.turnsAway (.clearViolation f) .dispatch 4 f.tag .notPermitted := by
  refine turnsAway_running rfl running rfl ((goesOn running).trans ?_)
  rw [named]
  refine if_neg ?_
  rintro ⟨heard, marked, stopped⟩
  simp [heard, marked, stopped] at fails

theorem turnsAway_reopen {s : State} (f : CmdFields) (running : s.running = true) {g : SegIx}
    (named : s.segOperand f.a = some g) (closed : (s.seg g).closure.operations = true) :
    s.turnsAway (.reopenSegment .dispatch f) .dispatch 6 f.tag .notPermitted := by
  refine turnsAway_running rfl running rfl ((goesOn running).trans ?_)
  rw [named]
  refine if_neg ?_
  simp [State.mayReopen, closed]

theorem turnsAway_reseed {s : State} (f : CmdFields) (running : s.running = true) {z : ZoneIx}
    (named : s.zoneOperand f.a = some z) (dead : (s.zone z).state = .unseeded ∨ (s.zone z).state = .stale) (i : Issuer) :
    s.turnsAway (.reseedZone i f) i 9 f.tag .notPermitted := by
  refine turnsAway_running rfl running (by cases i <;> rfl) ((goesOn running).trans ?_)
  rw [named]
  refine if_neg ?_
  rcases dead with e | e <;> simp [e, ZoneState.seedable]

/-- Settles O47. -/
theorem commandRefusals : Obligations.CommandRefusals := by
  refine ⟨fun s i code f attends dispatch operations => turnsAway_unknown f attends dispatch operations,
    fun s code f mode => noSite_refuses_operations code f mode, fun s f mode => turnsAway_notRunning f mode,
    turnsAway_modes, fun s f modes => ?_, fun s f modes => ?_⟩
  · have running := running_of_modes modes
    exact ⟨fun bad => turnsAway_scrubOperand f running (scrubOperand_none bad), turnsAway_parking f running,
      fun bad => turnsAway_segOperand f running (segOperand_none bad),
      fun bad => turnsAway_zoneOperand f running (zoneOperand_none bad)⟩
  · have running := running_of_modes modes
    exact ⟨fun x y g value present parked inside occupied other =>
        turnsAway_occupied f running (scrubOperand_some value present) parked inside occupied other,
      fun x value present stays => turnsAway_readmit f running (scrubOperand_some value present) stays,
      fun x value present fails => turnsAway_clearViolation f running (scrubOperand_some value present) fails,
      fun g value inside closed => turnsAway_reopen f running (segOperand_some value inside) closed,
      fun z i value inside dead => turnsAway_reseed f running (zoneOperand_some value inside) dead i⟩

end Sys2Proof.Machine
end

section
/-! SUPPORT. The writes of the control words that the part acts on (R84, R162 to R165, R170). -/
namespace Sys2Proof.Machine
open Sys2Proof
set_option Elab.async false

/-! ### Tuning (R162) -/

theorem tuningOk_iff (i : Fin 8) (v : Word) : tuningOk i v = true ↔ tuningInRange i v := by
  unfold tuningInRange
  match i with
  | 0 => simp [tuningOk]
  | 1 => simp [tuningOk]
  | 2 => simp [tuningOk]
  | 3 => simp [tuningOk]
  | 4 => simp [tuningOk]
  | 5 => simp [tuningOk]
  | 6 => simp [tuningOk]
  | 7 => simp [tuningOk]; omega

theorem extractLsb'_zero_eq_setWidth (v : Word) (w : Nat) : v.extractLsb' 0 w = v.setWidth w := by
  ext i h
  simp

theorem fill_eq (s : State) : s.fill = (s.writeIx - s.readIx).toNat := rfl

/-- The record of a tuning word alone, before the threshold is judged. -/
def State.tunedTo (s : State) (i : Fin 8) (v : Word) : State :=
  ({ s with tuning := s.tuning.set i.val (tuningStored i v) } : State).markDirty (.control (.tuning i))

theorem tune_eq (s : State) (i : Fin 8) (v : Word) :
    s.tune i v = if i = 6 then (s.tunedTo i v).judgeThreshold else s.tunedTo i v := rfl

theorem tune_spec (s : State) (i : Fin 8) (v : Word) :
    s.tune i v = { s with tuning := (s.tune i v).tuning, dspFlags := (s.tune i v).dspFlags, dirty := (s.tune i v).dirty }
      ∧ (s.tune i v).tuning = s.tuning.set i.val (tuningStored i v)
      ∧ (∀ g, (s.tune i v).dsp g = (s.dsp g || decide (g = .noticeThreshold ∧ i = 6
          ∧ (if (s.tune i v).tuning[6] = 0 then 768 else ((s.tune i v).tuning[6]).toNat) ≤ (s.writeIx - s.readIx).toNat)))
      ∧ s.marks (s.tune i v) [.control (.tuning i)] := by
  have base : s.marks (s.tunedTo i v) [.control (.tuning i)] :=
    marks_markDirty (t := { s with tuning := s.tuning.set i.val (tuningStored i v) }) (marks_congr (marks_refl s)) _
  rw [tune_eq]
  by_cases threshold : i = 6
  · subst threshold
    rw [if_pos rfl]
    have tuning : (s.tunedTo 6 v).judgeThreshold.tuning = (s.tunedTo 6 v).tuning := by rw [judgeThreshold_shape]
    refine ⟨?_, tuning, fun g => ?_, marks_judgeThreshold base (.inl rfl)⟩
    · rw [judgeThreshold_shape]
      rfl
    · rw [dsp_judgeThreshold, noticeThreshold_eq]
      simp only [tuning, true_and]
      rfl
  · rw [if_neg threshold]
    refine ⟨rfl, rfl, fun g => ?_, base⟩
    have kept : (s.tunedTo i v).dsp g = s.dsp g := rfl
    simp [kept, threshold]

/-! ### Clearing flags (R163, R164) -/

theorem flagHolds_iff (s : State) (f : DspFlag) : s.flagHolds f = true ↔ latchedHolds s f := by
  cases f with
  | stopAll => rfl
  | violation => simp [State.flagHolds, latchedHolds, State.anyMark]
  | shortenOverdue => simp [State.flagHolds, latchedHolds, State.anyOverdue]
  | scrubberLost => simp [State.flagHolds, latchedHolds, State.anyLost]
  | zoneStale => simp [State.flagHolds, latchedHolds, State.anyStale, State.zoneIxs]
  | noticeThreshold => exact decide_eq_true_iff
  | noticesPending =>
    have empty : (s.writeIx - s.readIx).toNat = 0 ↔ s.writeIx = s.readIx := by
      rw [← BitVec.toNat_inj]
      have write := s.writeIx.isLt
      have read := s.readIx.isLt
      rw [BitVec.toNat_sub]
      omega
    refine (decide_eq_true_iff (p := 0 < s.fill)).trans (Iff.trans ?_ (not_congr empty))
    rw [fill_eq]
    omega
  | restarted | confirmOverdue | dryingOverdue | noticeLost | commandRefused | accessRefused | busParity | memoryParity
  | reportInvalid => simp [State.flagHolds, latchedHolds]

theorem getLsbD_heldPlaces (s : State) (f : DspFlag) : s.heldPlaces.getLsbD f.place = s.flagHolds f := by
  have folded (l : List DspFlag) (b : BitVec 16) :
      (l.foldl (fun b f => if s.flagHolds f then b ||| BitVec.twoPow 16 f.place else b) b).getLsbD f.place
        = (b.getLsbD f.place || (decide (f ∈ l) && s.flagHolds f)) := by
    induction l generalizing b with
    | nil => simp
    | cons g l ih =>
      have low := place_lt f
      rw [List.foldl_cons, ih]
      by_cases same : f = g
      · subst same
        cases holds : s.flagHolds f <;> simp [low]
      · have apart : g.place ≠ f.place := fun e => same (place_injective _ _ e.symm)
        have one : (if s.flagHolds g then b ||| BitVec.twoPow 16 g.place else b).getLsbD f.place = b.getLsbD f.place := by
          split
          · simp [BitVec.getLsbD_twoPow, apart]
          · rfl
        simp [one, same]
  have listed : f ∈ allDspFlags := by cases f <;> decide
  rw [State.heldPlaces, folded]
  simp [listed]

theorem dsp_putDsp (s : State) (v : BitVec 16) (g : DspFlag) : (s.putDsp v).dsp g = v.getLsbD g.place := rfl

theorem marks_putDsp (s : State) (v : BitVec 16) : s.marks (s.putDsp v) [] := by
  intro r
  have dirty : r ∈ (s.putDsp v).dirty ↔ (v ≠ s.dspFlags ∧ r = .control .dspStatus) ∨ r ∈ s.dirty := by
    unfold State.putDsp
    rw [mem_dirty_markIf]
    simp only [bne_iff_ne, ne_eq]
  have flags : (s.putDsp v).dspFlags = v := rfl
  have ops : (s.putDsp v).opsFlags = s.opsFlags := rfl
  rw [dirty, flags, ops]
  simp only [List.not_mem_nil, ne_eq, not_true_eq_false, and_false, false_or, or_false]
  tauto

theorem marks_putOps (s : State) (v : BitVec 5) : s.marks (s.putOps v) [] := by
  intro r
  have dirty : r ∈ (s.putOps v).dirty ↔ (v ≠ s.opsFlags ∧ r = .control .opsStatus) ∨ r ∈ s.dirty := by
    unfold State.putOps
    rw [mem_dirty_markIf]
    simp only [bne_iff_ne, ne_eq]
  have flags : (s.putOps v).opsFlags = v := rfl
  have dsp : (s.putOps v).dspFlags = s.dspFlags := rfl
  rw [dirty, flags, dsp]
  simp only [List.not_mem_nil, ne_eq, not_true_eq_false, and_false, false_or]
  tauto

theorem clearDsp_spec (s : State) (v : Word) :
    s.clearDsp v = { s with dspFlags := (s.clearDsp v).dspFlags, capture := (s.clearDsp v).capture, dirty := (s.clearDsp v).dirty }
      ∧ (∀ g, (s.clearDsp v).dsp g = true ↔ s.dsp g = true ∧ (v.getLsbD g.place = true → latchedHolds s g))
      ∧ (s.clearDsp v).capture = (if v.getLsbD 12 then none else s.capture)
      ∧ s.marks (s.clearDsp v) (if v.getLsbD 12 then [.control .refused] else []) := by
  have flag (g : DspFlag) : (s.putDsp (s.dspFlags &&& ~~~(v.setWidth 16 &&& ~~~s.heldPlaces))).dsp g = true
      ↔ s.dsp g = true ∧ (v.getLsbD g.place = true → latchedHolds s g) := by
    have low := place_lt g
    rw [dsp_putDsp, ← flagHolds_iff, ← getLsbD_heldPlaces]
    simp only [State.dsp, BitVec.getLsbD_and, BitVec.getLsbD_not, BitVec.getLsbD_setWidth, low, decide_true, Bool.true_and]
    cases v.getLsbD g.place <;> cases s.heldPlaces.getLsbD g.place <;> simp
  have put := marks_putDsp s (s.dspFlags &&& ~~~(v.setWidth 16 &&& ~~~s.heldPlaces))
  have asked : (v.setWidth 16).getLsbD DspFlag.accessRefused.place = v.getLsbD 12 := by
    simp [DspFlag.place]
  have cleared : s.clearDsp v = if v.getLsbD 12 then
      ({ s.putDsp (s.dspFlags &&& ~~~(v.setWidth 16 &&& ~~~s.heldPlaces)) with capture := none } : State).markDirty
        (.control .refused)
      else s.putDsp (s.dspFlags &&& ~~~(v.setWidth 16 &&& ~~~s.heldPlaces)) := by
    rw [← asked]
    rfl
  rw [cleared]
  by_cases empties : v.getLsbD 12 = true
  · simp only [empties, if_true]
    exact ⟨rfl, flag, rfl, marks_markDirty (t := { s.putDsp (s.dspFlags &&& ~~~(v.setWidth 16 &&& ~~~s.heldPlaces)) with
      capture := none }) (marks_congr put) _⟩
  · simp only [empties]
    exact ⟨rfl, flag, rfl, put⟩

theorem clearOps_spec (s : State) (v : Word) :
    s.clearOps v = { s with opsFlags := (s.clearOps v).opsFlags, dirty := (s.clearOps v).dirty }
      ∧ (∀ g, (s.clearOps v).ops g = true ↔ s.ops g = true ∧ v.getLsbD g.place = false)
      ∧ s.marks (s.clearOps v) [] := by
  refine ⟨rfl, fun g => ?_, marks_putOps s _⟩
  have low := opsPlace_lt g
  change (s.opsFlags &&& ~~~(v.setWidth 5)).getLsbD g.place = true ↔ _
  simp [State.ops, low]

/-! ### The rows -/

theorem controlRow {s : State} {c : Instr} {t : Tag} {w : CtlWord} {v : Word} (running : s.running = true)
    (row : exec c s = .next (s.busAccess (goodWrite t (controlAddr w) v))) (may : mayWriteControl t w = true)
    (plain : w ≠ .readIx) : exec c s = .next ((s.controlWrite w v).answered tookOne) := by
  rw [row, busAccess_control s t w v running may plain]
  rfl

/-- A store of a mask or index word, marked for the mirror writer. -/
theorem marks_stored {s t : State} (c : CtlWord) (dirty : t.dirty = s.dirty) (dsp : t.dspFlags = s.dspFlags)
    (ops : t.opsFlags = s.opsFlags) : s.marks ((t.markDirty (.control c)).answered tookOne) [.control c] :=
  marks_congr (marks_markDirty (marks_dirty_same s t dirty dsp ops) _)

/-- Settles O54. -/
theorem controlWrites : Obligations.ControlWrites := by
  intro s v modes
  have running := running_of_modes modes
  refine ⟨fun i => ?_, ⟨_, controlRow running rfl rfl (by decide), ?_, marks_stored _ rfl rfl rfl⟩,
    ⟨_, controlRow running rfl rfl (by decide), ?_, marks_stored _ rfl rfl rfl⟩,
    ⟨_, controlRow running rfl rfl (by decide), ?_, marks_stored _ rfl rfl rfl⟩, ?_, ?_, fun good => ?_, fun bad => ?_⟩
  · obtain ⟨shape, tuning, dsp, marks⟩ := tune_spec s i v
    refine ⟨_, controlRow running rfl rfl (by simp), ?_, fun j ne => ?_, fun good => ?_, fun bad => ?_, dsp,
      marks_congr marks⟩
    · change (s.tune i v).answered tookOne = _
      rw [shape]
      rfl
    · change (s.tune i v).tuning[j.val] = _
      simp only [tuning]
      rw [Vector.getElem_set_ne _ _ (fun e => ne (Fin.ext e.symm))]
    · change (s.tune i v).tuning[i.val] = _
      simp only [tuning, Vector.getElem_set_self]
      exact if_pos ((tuningOk_iff i v).mpr good)
    · change (s.tune i v).tuning[i.val] = _
      simp only [tuning, Vector.getElem_set_self]
      exact if_neg fun ok => bad ((tuningOk_iff i v).mp ok)
  · rw [extractLsb'_zero_eq_setWidth]
    rfl
  · rw [extractLsb'_zero_eq_setWidth]
    rfl
  · rw [extractLsb'_zero_eq_setWidth]
    rfl
  · obtain ⟨shape, dsp, capture, marks⟩ := clearDsp_spec s v
    refine ⟨_, controlRow running rfl rfl (by decide), ?_, dsp, capture, marks_congr marks⟩
    change (s.clearDsp v).answered tookOne = _
    rw [shape]
    rfl
  · obtain ⟨shape, ops, marks⟩ := clearOps_spec s v
    refine ⟨_, controlRow running rfl rfl (by decide), ?_, ops, marks_congr marks⟩
    change (s.clearOps v).answered tookOne = _
    rw [shape]
    rfl
  · refine ⟨_, congrArg Host.Outcome.next (busAccess_readIx s v running ((readIxOk_iff s v).mpr good)), ?_,
      marks_stored _ rfl rfl rfl⟩
    rw [extractLsb'_zero_eq_setWidth]
    rfl
  · have refused : s.allows (goodWrite .dispatch (controlAddr .readIx) v) = false := by
      rw [allows_running s _ _ v (running_modes s running).2.2, placeOf_control .readIx (by decide)]
      have notOk := Bool.eq_false_iff.mpr fun ok => bad ((readIxOk_iff s v).mp ok)
      simp [State.stateAllows, notOk]
    have denied := busAccess_refused (attends_of_running running) (.inr ⟨addrParityOk_goodWrite _ _ _, refused⟩)
    have shape := (deny_spec s (goodWrite .dispatch (controlAddr .readIx) v)).1
    exact ⟨_, congrArg Host.Outcome.next denied, by rw [shape], by rw [shape]⟩

end Sys2Proof.Machine
end

section
/-! SUPPORT. The layouts of the words that the part shows (R178, R179, 13.1, 13.2, 13.4). -/
namespace Sys2Proof.Machine
open Sys2Proof
set_option Elab.async false

/-! ### Words laid out by fields (R178) -/

/-- The word of a list of fields, each by its lowest place, its width and its number. -/
def layoutWord : List (Nat × Nat × Nat) → Word
  | [] => 0#32
  | f :: l => fld f.2.1 f.1 f.2.2 ||| layoutWord l

/-- Fields that stand one above the other from a place on, within the word. -/
def ascends (start : Nat) : List (Nat × Nat × Nat) → Prop
  | [] => True
  | f :: l => start ≤ f.1 ∧ f.1 + f.2.1 ≤ 32 ∧ ascends (f.1 + f.2.1) l

theorem getLsbD_fld (w p v i : Nat) :
    (fld w p v).getLsbD i = (decide (i < 32) && decide (p ≤ i) && decide (i - p < w) && v.testBit (i - p)) := by
  by_cases high : i < 32
  · by_cases low : i < p
    · simp [fld, high, low]
    · simp [fld, high, low, Nat.le_of_not_lt low, BitVec.getLsbD_ofNat]
  · simp [fld, high]

theorem ascends_within {start : Nat} {l : List (Nat × Nat × Nat)} (h : ascends start l) {f : Nat × Nat × Nat}
    (mem : f ∈ l) : start ≤ f.1 ∧ f.1 + f.2.1 ≤ 32 := by
  induction l generalizing start with
  | nil => cases mem
  | cons g l ih =>
    obtain ⟨low, inside, rest⟩ := h
    rcases List.mem_cons.mp mem with rfl | later
    · exact ⟨low, inside⟩
    · have next := ih rest later
      omega

/-- A place that no field takes is 0. -/
theorem getLsbD_layoutWord_free (l : List (Nat × Nat × Nat)) (i : Nat)
    (free : ∀ f ∈ l, ¬ (f.1 ≤ i ∧ i < f.1 + f.2.1)) : (layoutWord l).getLsbD i = false := by
  induction l with
  | nil => simp [layoutWord]
  | cons f l ih =>
    have here := free f List.mem_cons_self
    rw [layoutWord, BitVec.getLsbD_or, ih fun g mem => free g (List.mem_cons_of_mem _ mem), getLsbD_fld]
    by_cases low : f.1 ≤ i
    · have past : ¬ i - f.1 < f.2.1 := by omega
      simp [past]
    · simp [low]

theorem getLsbD_layoutWord {start : Nat} {l : List (Nat × Nat × Nat)} (h : ascends start l) {f : Nat × Nat × Nat}
    (mem : f ∈ l) (j : Nat) (within : j < f.2.1) : (layoutWord l).getLsbD (f.1 + j) = f.2.2.testBit j := by
  induction l generalizing start with
  | nil => cases mem
  | cons g l ih =>
    obtain ⟨low, inside, rest⟩ := h
    rw [layoutWord, BitVec.getLsbD_or, getLsbD_fld]
    rcases List.mem_cons.mp mem with rfl | later
    · have above : (layoutWord l).getLsbD (f.1 + j) = false := getLsbD_layoutWord_free l _ fun k mem' => by
        have next := ascends_within rest mem'
        omega
      have high : f.1 + j < 32 := by omega
      rw [above, Bool.or_false]
      simp [high, within]
    · have next := ascends_within rest later
      have past : ¬ f.1 + j - g.1 < g.2.1 := by omega
      simp [ih rest later, past]

/-- A word laid out by fields one above the other has them. -/
theorem hasFields_layoutWord {l : List (Nat × Nat × Nat)} (h : ascends 0 l) : hasFields (layoutWord l) l := by
  refine ⟨fun f mem => ?_, fun i _ free => getLsbD_layoutWord_free l i free⟩
  refine BitVec.eq_of_getLsbD_eq fun j low => ?_
  rw [BitVec.getLsbD_extractLsb', getLsbD_layoutWord h mem j low, BitVec.getLsbD_ofNat]

theorem hasFields_of_eq {w : Word} {l : List (Nat × Nat × Nat)} (h : ascends 0 l) (e : w = layoutWord l) :
    hasFields w l := e ▸ hasFields_layoutWord h

theorem bitFld_eq (p : Nat) (b : Bool) : bitFld p b = fld 1 p (place b) := rfl

/-! ### The layouts -/

theorem hasFields_status (r : Slot) : hasFields r.statusWord (statusFields r) :=
  hasFields_of_eq (by simp [ascends, statusFields]) (by simp [layoutWord, statusFields, Slot.statusWord, BitVec.or_assoc])

theorem hasFields_progress (r : Slot) : hasFields r.progressWord [(0, 4, r.progress)] :=
  hasFields_of_eq (by simp [ascends]) (by simp [layoutWord, Slot.progressWord])

theorem hasFields_segment (f : SegFixed) (r : Seg) : hasFields (segSummary f.pinch r) (segmentFields f r) := by
  have claimed : (!r.claims.isEmpty) = decide (r.claims ≠ []) := by cases r.claims <;> rfl
  exact hasFields_of_eq (by simp [ascends, segmentFields])
    (by simp only [layoutWord, segmentFields, segSummary, bitFld_eq, claimed, BitVec.or_assoc, BitVec.or_zero])

theorem hasFields_result (r : CmdResult) : hasFields r.word (resultFields r) :=
  hasFields_of_eq (by simp [ascends, resultFields]) (by simp [layoutWord, resultFields, CmdResult.word, BitVec.or_assoc])

theorem hasFields_capture (r : RefusedAccess) : hasFields (refusedWord (some r)) (captureFields r) :=
  hasFields_of_eq (by simp [ascends, captureFields])
    (by simp only [layoutWord, captureFields, refusedWord, bitFld_eq, BitVec.or_assoc, BitVec.or_zero]; rfl)

theorem hasFields_pack4 (a b c d : Nat) : hasFields (pack4 a b c d) [(0, 8, a), (8, 8, b), (16, 8, c), (24, 8, d)] :=
  hasFields_of_eq (by simp [ascends]) (by simp [layoutWord, pack4, BitVec.or_assoc])

theorem hasFields_pack2 (a b : Nat) : hasFields (pack2 a b) [(0, 16, a), (16, 16, b)] :=
  hasFields_of_eq (by simp [ascends]) (by simp [layoutWord, pack2])

/-- The header of a notice (R179). -/
def Notice.header (n : Notice) : Word := fld 8 0 n.kind.code ||| fld 3 8 n.kind.group ||| fld 4 12 n.length

theorem hasFields_header (n : Notice) : hasFields n.header (headerFields n) := by
  have length : n.length = n.payload.length + 2 := Nat.add_comm _ _
  exact hasFields_of_eq (by simp [ascends, headerFields])
    (by simp [layoutWord, headerFields, Notice.header, length, BitVec.or_assoc])

/-! ### The words of records -/

theorem flags_shown {w : Nat} (flags : BitVec w) (i : Nat) : (flags.setWidth 32).getLsbD i
    = (decide (i < 32) && flags.getLsbD i) := BitVec.getLsbD_setWidth ..

theorem controlShows_value (s : State) (c : CtlWord) (owned : c ∈ mirroredControlWords) :
    controlShows s c (s.controlValue c) := by
  cases c with
  | dspCommand | opsCommand | dspClear | opsClear => rfl
  | dspResult => exact hasFields_result _
  | opsResult => exact hasFields_result _
  | tuning i => rfl
  | dspStatus =>
    refine ⟨fun f => ?_, fun i high => ?_⟩
    · have low := place_lt f
      have inWord : f.place < 32 := by omega
      exact (flags_shown _ _).trans (by simp [inWord, State.dsp])
    · exact (flags_shown _ _).trans (by rw [BitVec.getLsbD_of_ge _ _ high, Bool.and_false])
  | opsStatus =>
    refine ⟨fun f => ?_, fun i high => ?_⟩
    · have low := opsPlace_lt f
      have inWord : f.place < 32 := by omega
      exact (flags_shown _ _).trans (by simp [inWord, State.ops])
    · exact (flags_shown _ _).trans (by rw [BitVec.getLsbD_of_ge _ _ high, Bool.and_false])
  | dspMask | opsMask | gwyMask | writeIx | readIx => rfl
  | refused =>
    unfold controlShows
    dsimp only
    cases held : s.capture with
    | none => simp [State.controlValue, held, refusedWord]
    | some r =>
      have value : s.controlValue .refused = refusedWord (some r) := congrArg refusedWord held
      rw [value]
      exact hasFields_capture r
  | mode | clock | changedSlots | unassigned => exact absurd owned (by decide)

theorem mirrored_of_record {c : CtlWord} (h : MirrorRec.control c ∈ allRecords) : c ∈ mirroredControlWords := by
  simpa [allRecords] using h

theorem segViewOf_outside {s : State} {n : Fin 256} (h : n.val = 0 ∨ s.n < n.val) : s.segViewOf n = [0, 0] := by
  have none : s.viewedSeg n = none := by
    unfold State.viewedSeg
    cases named : ixOf 255 n.val with
    | none => rfl
    | some g =>
      have value := ixOf_eq_some _ _ _ named
      exact if_neg (by omega)
  unfold State.segViewOf
  rw [none]

theorem segViewOf_inside {s : State} {n : Fin 256} {g : SegIx} (named : n.val = g.val + 1) (inside : n.val ≤ s.n) :
    s.segViewOf n = [segSummary (s.fixed g).pinch (s.seg g), segExpiryWord (s.seg g)] := by
  have some : s.viewedSeg n = some g := by
    unfold State.viewedSeg
    rw [(ixOf_eq_some_iff _ _ _).mpr named]
    exact if_pos (by omega)
  unfold State.segViewOf
  rw [some]
  rfl

theorem recordWords_segView (s : State) (n : Fin 256) : ∃ v w, s.recordWords (.segView n)
      = [(BitVec.ofNat 18 (0x400 + 2 * n.val), v), (BitVec.ofNat 18 (0x401 + 2 * n.val), w)]
    ∧ (n.val = 0 ∨ s.n < n.val → v = 0 ∧ w = 0)
    ∧ ∀ g : SegIx, n.val = g.val + 1 → n.val ≤ s.n → hasFields v (segmentFields (s.fixed g) (s.seg g))
      ∧ w = segExpiryWord (s.seg g) := by
  obtain ⟨v, w, view⟩ := List.length_eq_two.mp (length_segViewOf s n)
  have next : 0x401 + 2 * n.val = 0x400 + 2 * n.val + 1 := by omega
  refine ⟨v, w, ?_, fun outside => ?_, fun g named inside => ?_⟩
  · rw [next]
    change fromAddr (0x400 + 2 * n.val) (s.segViewOf n) = _
    rw [view]
    rfl
  · have zero := view.symm.trans (segViewOf_outside outside)
    simpa using zero
  · have shown := view.symm.trans (segViewOf_inside named inside)
    simp only [List.cons.injEq, and_true] at shown
    obtain ⟨rfl, rfl⟩ := shown
    exact ⟨hasFields_segment _ _, rfl⟩

theorem recordWords_scrubView (s : State) (x : ScrubIx) : ∃ a b c d e, s.recordWords (.scrubView x)
      = ([a, b, c, d, e, (s.scrub x).lastTime, 0, 0].zipIdx (0x600 + 8 * x.val)).map (fun p => (BitVec.ofNat 18 p.2, p.1))
    ∧ ∀ p ∈ [a, b, c, d, e].zip (scrubberFields (s.scrub x)), hasFields p.1 p.2 := by
  refine ⟨_, _, _, _, _, rfl, ?_⟩
  simp only [scrubberFields, List.zip_cons_cons, List.zip_nil_right, List.forall_mem_cons, List.not_mem_nil,
    false_implies, implies_true, and_true]
  exact ⟨hasFields_of_eq (by simp [ascends]) (by simp [layoutWord, bitFld_eq]),
    hasFields_of_eq (by simp [ascends]) (by simp [layoutWord, BitVec.or_assoc]),
    hasFields_of_eq (by simp [ascends]) (by simp [layoutWord]),
    hasFields_of_eq (by simp [ascends]) (by simp [layoutWord]),
    hasFields_of_eq (by simp [ascends]) (by simp [layoutWord, bitFld_eq, ReportFlags.word, BitVec.or_assoc])⟩

theorem codesStand_holds : codesStand := by
  unfold codesStand
  decide

theorem controlPlaces_holds : controlPlaces := by
  unfold controlPlaces
  decide

/-- Settles O7. -/
theorem recordWords : Obligations.RecordWords := by
  refine ⟨fun s c owned => ⟨_, rfl, controlShows_value s c (mirrored_of_record owned)⟩,
    fun s k => ⟨rfl, ⟨_, rfl, hasFields_status _⟩, _, rfl, hasFields_progress _⟩, recordWords_segView,
    recordWords_scrubView, fun n => ⟨_, rfl, hasFields_header n⟩, hasFields_pack4, hasFields_pack2, codesStand_holds,
    controlPlaces_holds⟩

end Sys2Proof.Machine
end

section
/-! SUPPORT. What any command is made of: events that move the state, commits, restarts, the entry to SERVICE, and updates
beside the slots, the queue, the floor and the drying list. A law of the part is kept by every command when these keep it. -/
namespace Sys2Proof.Machine
open Sys2Proof

/-- One part of a command's work, by what it may do to the slots, the queue, the floor and the drying list. -/
inductive Stride : State → State → Prop where
  /-- Work at the core, the tracker, the drying unit or the zone monitor that makes no commit. -/
  | event {s t : State} (moved : Evolve s t) : Stride s t
  /-- Work elsewhere: the mode may change, but neither to SERVICE nor from it. -/
  | beside {s t : State} (segs : t.segs = s.segs) (slots : t.slots = s.slots) (queue : t.queue = s.queue)
      (drying : t.drying = s.drying) (mode : t.mode = s.mode ∨ (s.mode ≠ .service ∧ t.mode ≠ .service)) : Stride s t
  | commit (s : State) (k : SlotIx) (v : Word) : Stride s (s.commitWrite k v)
  | restart {s t : State} (segs : t.segs = Vector.replicate 255 {}) (slots : t.slots = Vector.replicate 24 {})
      (queue : t.queue = []) (drying : t.drying = []) (mode : t.mode = .loading) : Stride s t
  | entry (s : State) (recovered : s.mode = .recovery) : Stride s s.enterService

/-- A command's work, part after part. -/
abbrev Course : State → State → Prop := Relation.ReflTransGen Stride

section Courses
variable {s t u : State}

theorem Evolve.course (h : Evolve s t) : Course s t := .single (.event h)

theorem Course.next (h : Course s t) (n : Course t u) : Course s u := Relation.ReflTransGen.trans h n

/-- An update beside the slots, the queue, the floor, the drying list and the mode. -/
theorem Course.beside (segs : t.segs = s.segs := by rfl) (slots : t.slots = s.slots := by rfl)
    (queue : t.queue = s.queue := by rfl) (drying : t.drying = s.drying := by rfl) (mode : t.mode = s.mode := by rfl) :
    Course s t := .single (.beside segs slots queue drying (.inl mode))

theorem Course.of_portOnly (h : s.portOnly t) : Course s t := by
  rw [h]
  exact .beside

theorem Course.ite (c : Prop) [Decidable c] (ht : c → Course s t) (hu : ¬ c → Course s u) :
    Course s (if c then t else u) := by
  split
  · exact ht ‹_›
  · exact hu ‹_›

/-! ### The writers and the control words -/

theorem course_arbitrate (s : State) : Course s s.arbitrate := by
  rw [arbitrate_eq]
  exact .beside

theorem course_notify (s : State) (kind : NoticeKind) (p : List Word) : Course s (s.notify kind p) :=
  (ev_notify (.refl s) kind p).course

theorem course_noticeAdmission (s : State) : Course s s.noticeAdmission := by
  unfold State.noticeAdmission
  refine .ite _ (fun _ => .refl) fun _ => ?_
  split
  · exact .refl
  · exact .ite _ (fun _ => Course.next .beside (course_arbitrate _)) (fun _ => .beside)

theorem course_noticePublish (s : State) : Course s s.noticePublish :=
  .ite _ (fun _ => (Course.of_portOnly (portOnly_endGrant s)).next (course_arbitrate _)) (fun _ => .refl)

theorem course_mirrorWrite (s : State) : Course s s.mirrorWrite := by
  refine .ite _ (fun _ => Course.next ?_ (course_arbitrate _)) (fun _ => .refl)
  obtain ⟨_, e⟩ | ⟨r, _, e⟩ := mirrorGrant_cases s
  · rw [e]
  · rw [e, writeWords_eq]; exact .beside

theorem course_judgeThreshold (s : State) : Course s s.judgeThreshold :=
  .ite _ (fun _ => .beside) (fun _ => .refl)

theorem course_tune (s : State) (i : Fin 8) (v : Word) : Course s (s.tune i v) :=
  .ite _ (fun _ => Course.next .beside (course_judgeThreshold _)) (fun _ => .beside)

theorem course_clearDsp (s : State) (v : Word) : Course s (s.clearDsp v) := .ite _ (fun _ => .beside) (fun _ => .beside)

/-! ### Restarts and the entry to SERVICE (R172, R177) -/

theorem course_restart (s : State) (c : Cause) : Course s (s.restart c) := .single (.restart rfl rfl rfl rfl rfl)

theorem course_restartWith (s : State) (c : Cause) (f : InFlight) : Course s (s.restartWith c f) :=
  .single (.restart rfl rfl rfl rfl rfl)

theorem course_judgeService (s : State) : Course s s.judgeService := by
  unfold State.judgeService
  refine .ite _ (fun ready => ?_) (fun _ => .refl)
  simp only [Bool.and_eq_true, decide_eq_true_eq] at ready
  exact .single (.entry s ready.1)

theorem course_reportEvent (s : State) (c : CellIx) (v : Word) : Course s (s.reportEvent c v) := by
  have emptied : Evolve s (s.setCell c {}) := ev_setCell (.refl s) c {}
  unfold State.reportEvent
  dsimp only
  split
  case h_1 => exact (ev_invalidReport emptied c _).course
  case h_2 x p _ =>
  refine .ite _ (fun _ => (ev_notify emptied _ _).course) fun _ => Course.next ?_ (course_judgeService _)
  exact (ev_event _ (fun _ q => ev_processReport q x p _) emptied).course

/-! ### Commands (R160, R161) -/

/-- What a taken command is made of. -/
theorem course_cmdOf (i : Issuer) (code : Nat) (f : CmdFields) (taken : s.cmdOf i code f = .ok t) : Course s t := by
  have withdrawn (x : ScrubIx) (g : Option SegIx) : Course s (s.withdraw x g).judgeService :=
    (ev_withdraw (.refl s) x g).course.next (course_judgeService _)
  unfold State.cmdOf at taken
  split at taken
  case h_1 =>
    unfold State.cmdAckRestart at taken
    split at taken <;> cases taken
    exact Course.next .beside (course_judgeService _)
  case h_2 =>
    unfold State.cmdWithdraw at taken
    (repeat' split at taken) <;> cases taken
    · exact withdrawn _ none
    · exact withdrawn _ (some _)
  case h_3 =>
    unfold State.cmdReadmit at taken
    (repeat' split at taken) <;> cases taken
    exact (ev_readmit (.refl s) _).course
  case h_4 =>
    unfold State.cmdClearViolation at taken
    (repeat' split at taken) <;> cases taken
    exact (ev_liftMark (.refl s) _).course.next (course_judgeService _)
  case h_5 =>
    unfold State.cmdCloseSegment at taken
    (repeat' split at taken) <;> cases taken
    exact (ev_closeSegment (.refl s) i _).course
  case h_6 =>
    unfold State.cmdReopenSegment at taken
    (repeat' split at taken) <;> cases taken
    exact (ev_reopenSegment (.refl s) i _).course
  case h_7 =>
    unfold State.cmdCloseZone at taken
    (repeat' split at taken) <;> cases taken
    exact (ev_closeZone (.refl s) _).course
  case h_8 =>
    unfold State.cmdReopenZone at taken
    (repeat' split at taken) <;> cases taken
    exact (ev_reopenZone (.refl s) _).course
  case h_9 =>
    unfold State.cmdReseedZone at taken
    (repeat' split at taken) <;> cases taken
    exact (ev_event _ (fun _ q => ev_reseed q _) (.refl s)).course
  case h_10 =>
    unfold State.cmdResetNotices at taken
    split at taken <;> cases taken
    exact Course.next .beside (course_notify _ _ _)
  case h_11 =>
    unfold State.cmdReloadSite at taken
    (repeat' split at taken) <;> cases taken <;> exact course_restart s _
  case h_12 => cases taken

theorem course_setResultRec (s : State) (i : Issuer) (r : CmdResult) : Course s (s.setResultRec i r) := by
  cases i <;> exact .beside

theorem course_issue (s : State) (i : Issuer) (code : Byte) (f : CmdFields) : Course s (s.issue i code f) := by
  unfold State.issue
  split
  case h_1 t taken =>
    have done : Course s t := by
      split at taken
      · exact course_cmdOf i _ f taken
      · cases taken
    exact .ite _ (fun _ => done) (fun _ => done.next (course_setResultRec t i _))
  case h_2 =>
    have flagged (t : State) : Course t (t.flagRefused i) := by cases i <;> exact .beside
    exact ((course_setResultRec s i _).next (flagged _)).next (course_notify _ _ _)

/-! ### Accesses (R18 to R33) -/

theorem course_controlWrite (s : State) (c : CtlWord) (v : Word) : Course s (s.controlWrite c v) := by
  cases c with
  | dspCommand => exact course_issue s .dispatch _ _
  | opsCommand => exact course_issue s .operations _ _
  | tuning i => exact course_tune s i v
  | dspClear => exact course_clearDsp s v
  | opsClear | dspMask | opsMask | gwyMask | readIx => exact .beside
  | mode | clock | changedSlots | dspResult | opsResult | dspStatus | opsStatus | writeIx | refused | unassigned =>
    exact .refl

theorem course_actedWrite (s : State) (p : Place) (v : Word) : Course s (s.actedWrite p v) := by
  cases p with
  | control c => exact course_controlWrite s c v
  | slot k w =>
    exact .ite _ (fun _ => .single (.commit s k v)) fun _ =>
      .ite _ (fun _ => (ev_cancelWrite (.refl s) k v).course) (fun _ => .refl)
  | general | cell | figure | segView | scrubView | ring => exact .refl

theorem course_watchedCopy (s : State) (p : Place) (v : Word) : Course s (s.watchedCopy p v) := by
  cases p with
  | cell c w =>
    unfold State.watchedCopy
    dsimp only
    split
    · exact (ev_cellWrite (.refl s) c _ v).course
    · exact course_reportEvent s c v
  | figure z m =>
    exact .ite _ (fun _ => (ev_moisture (.refl s) z _).course) (fun _ => (ev_zoneSample (.refl s) z _).course)
  | slot k w =>
    unfold State.watchedCopy
    dsimp only
    split
    · exact (ev_draftWrite (.refl s) k _ v).course
    · exact .refl
  | general | control | segView | scrubView | ring => exact .refl

theorem course_handoverRead (s : State) (t : Tag) (p : Place) : Course s (s.handoverRead t p) := by
  cases p with
  | slot k w => exact .ite _ (fun _ => (ev_gatewayHandover (.refl s) k).course) (fun _ => .refl)
  | general | control | cell | figure | segView | scrubView | ring => exact .refl

theorem course_carryOut (s : State) (a : Access) (f : Fate) : Course s (s.carryOut a f) := by
  cases f with
  | notReady | badParity | watch v => exact .beside
  | denied => rw [State.carryOut, (deny_spec s a).1]; exact .beside
  | pass l => exact (Course.of_portOnly (portOnly_writeWords l s)).next .beside
  | act v => exact (course_actedWrite s _ v).next .beside
  | substitute | shut => exact (course_handoverRead s _ _).next .beside
  | dirtyRead r =>
    have promoted : Course s (s.promote r) := .ite _ (fun _ => .refl) (fun _ => .beside)
    exact promoted.next .beside
  | fetch l =>
    obtain ⟨answer, flags, marks, e⟩ := fetch_eq s l
    rw [State.carryOut, e]
    exact .beside

theorem course_busAccess (s : State) (a : Access) : Course s (s.busAccess a) := by
  have handed (t : State) (f : Fate) : Course t (t.handOver a f) := by
    cases f with
    | watch v => exact course_watchedCopy t _ v
    | notReady | denied | badParity | pass | act | substitute | shut | dirtyRead | fetch => exact .refl
  have flagged : Course s (s.flagParity (s.busParityFails a)) := .ite _ (fun _ => .beside) (fun _ => .refl)
  have turn (t : State) (ready : Bool) : Course t (t.atTurn ready) :=
    .ite _ (fun _ => .refl) (fun _ => .of_portOnly (portOnly_awaitPort t))
  have judged := flagged.next (handed _ (s.fateOf a))
  refine .ite _ (fun _ => ?_) (fun _ => judged.next (course_carryOut _ a _))
  exact ((judged.next (turn _ _)).next (course_carryOut _ a _)).next (course_arbitrate _)

/-! ### The load (R13 to R17) -/

/-- A load that ends leaves LOADING for a mode other than SERVICE. -/
theorem Course.loads (loading : s.mode = .loading) (mode : t.mode ≠ .service) (segs : t.segs = s.segs := by rfl)
    (slots : t.slots = s.slots := by rfl) (queue : t.queue = s.queue := by rfl) (drying : t.drying = s.drying := by rfl) :
    Course s t := .single (.beside segs slots queue drying (.inr ⟨by rw [loading]; decide, mode⟩))

theorem course_headerIn (s : State) (store : List Byte) : Course s (s.headerIn store) := by
  unfold State.headerIn
  refine .ite _ (fun now => ?_) (fun _ => .refl)
  dsimp only
  split
  · exact .loads now.1 (by simp [State.failLoad])
  · exact .beside

theorem course_install (s : State) (m : Site) (loading : s.mode = .loading) : Course s (s.install m) := by
  refine Course.next (t := { s with site := some m, mode := .initialising, load := .idle }) (.loads loading (by simp)) ?_
  exact (ev_foldl _ (fun _ x e => ev_ite _ (fun _ => ev_setScrub e x _) (fun _ => e)) _ (.refl _)).course

theorem course_imageIn (s : State) (store : List Byte) : Course s (s.imageIn store) := by
  unfold State.imageIn
  split
  · exact .refl
  · exact .refl
  · refine .ite _ (fun now => ?_) (fun _ => .refl)
    dsimp only
    split
    · exact .loads now.1 (by simp [State.failLoad])
    · exact course_install s _ now.1

theorem course_flushEnd (s : State) : Course s s.flushEnd := by
  refine .ite _ (fun now => .single (.beside rfl rfl rfl rfl (.inr ⟨?_, ?_⟩))) (fun _ => .refl)
  · rw [now.1]; decide
  · simp

/-! ### Every command -/

theorem course_exec (c : Instr) (h : exec c s = .next t) : Course s t := by
  cases c with
  | power f => cases h; exact course_restartWith s .power f
  | line f => cases h; exact (course_restartWith s .line f).next .beside
  | resetRelease => cases h; exact .beside
  | headerRead store => cases h; exact course_headerIn s store
  | siteLoadComplete store => cases h; exact course_imageIn s store
  | flushEnd => cases h; exact course_flushEnd s
  | planBusAccess a upsets => cases h; exact Course.next .beside (course_busAccess _ a)
  | reloadSite f cut =>
    cases h
    have cutShort : Course s (s.cutForReload cut) :=
      .ite _ (fun _ => .of_portOnly (portOnly_writeWords _ s)) (fun _ => .refl)
    exact cutShort.next (course_busAccess _ _)
  | confirmOverdue k => cases h; exact (ev_confirmExpiry (.refl s) _).course
  | shortenOverdue k => cases h; exact (ev_shortenExpiry (.refl s) _).course
  | waitExpired k => cases h; exact (ev_waitExpiry (.refl s) k).course
  | scrubberLost x => cases h; exact (ev_lostExpiry (.refl s) x).course
  | dryingExpiry g => cases h; exact (ev_dryingExpiry (.refl s) g).course
  | quietTimerExpiry z => cases h; exact (ev_quietExpiry (.refl s) z).course
  | zoneStale z => cases h; exact (ev_staleExpiry (.refl s) z).course
  | stuckTimerExpiry z => cases h; exact (ev_stuckExpiry (.refl s) z).course
  | haltTimerExpiry z => cases h; exact (ev_haltExpiry (.refl s) z).course
  | noticeAdmission => cases h; exact course_noticeAdmission s
  | noticePublish => cases h; exact course_noticePublish s
  | mirrorRecordWrite => cases h; exact course_mirrorWrite s
  | interlockClockTick => cases h; exact .ite _ (fun _ => .refl) (fun _ => .beside)
  | _ => cases h; exact course_busAccess s _

/-- A step is an idle one or one command run on the rest of the queue. -/
theorem course_step (h : step s = .next t) : Course s t := by
  unfold step at h
  split at h
  case h_1 => cases h; exact .refl
  case h_2 c rest _ => exact Course.next (t := { s with pending := rest }) .beside (course_exec c h)

/-- A law that every part of a command keeps is kept by every step. -/
theorem step_keeps {law : State → Prop} (keeps : ∀ s t, Stride s t → law s → law t) (h : step s = .next t)
    (holds : law s) : law t := by
  have course := course_step h
  clear h
  induction course with
  | refl => exact holds
  | tail _ stride ih => exact keeps _ _ stride ih

end Courses

end Sys2Proof.Machine
end

section
/-! PROOFS. The law of the drying list through commits, restarts and the entry to SERVICE (O59; R38, R40, R44, R126, R134);
what an event does to it comes from the relation Evolve. -/
namespace Sys2Proof.Machine
open Sys2Proof

/-- An event keeps the law of the drying list in SERVICE, where the law of idle slots asks nothing. -/
theorem Evolve.dries {s t : State} (moved : Evolve s t) (service : s.mode = .service) (law : s.dryingLaw) : t.dryingLaw :=
  moved.drying (fun outside => absurd service outside) law

theorem mode_takeHold (s : State) (k : SlotIx) : (s.takeHold k).mode = s.mode := mode_of_outside (outside_takeHold s k)

/-! ### Commits (R59 to R67) -/

section Commits
variable {s : State}

theorem dryingLaw_setSlot (k : SlotIx) (r : Slot) (law : s.dryingLaw) : (s.setSlot k r).dryingLaw :=
  dryingLaw_same s _ rfl rfl (fun _ => ⟨rfl, rfl, rfl⟩) law

theorem dryingLaw_setQueue (l : List SlotIx) (law : s.dryingLaw) : (s.setQueue l).dryingLaw :=
  dryingLaw_same s _ rfl rfl (fun _ => ⟨rfl, rfl, rfl⟩) law

/-- A grant does to the floor what taking hold does (R65). -/
theorem dryingLaw_grant (k : SlotIx) (service : s.mode = .service) (law : s.dryingLaw)
    (named : (s.slot k).scrubber.isSome = true) (available : s.availability k = none) : (s.grant k).dryingLaw := by
  have held := dryingLaw_takeHold s k service law (fun _ => named) available
  have left : (((s.takeHold k).setSlot k ((s.takeHold k).slot k).granted).leaveQueue k).dryingLaw :=
    dryingLaw_setQueue _ (dryingLaw_setSlot _ _ held)
  exact (ev_notifySlot (ev_markSlotWords (ev_setLive (.refl _) _ _) k) _ _ _ _).dries
    ((mode_takeHold s k).trans service) left

/-- An activation does to the floor what taking hold does (R67). -/
theorem dryingLaw_activate (k : SlotIx) (service : s.mode = .service) (law : s.dryingLaw) (passenger : isFleet k = false)
    (available : s.availability k = none) : (s.activate k).dryingLaw := by
  have held := dryingLaw_takeHold s k service law (by simp [passenger]) available
  have left : (((s.takeHold k).setSlot k ((s.takeHold k).slot k).activated).leaveQueue k).dryingLaw :=
    dryingLaw_setQueue _ (dryingLaw_setSlot _ _ held)
  exact (ev_notifySlot (ev_setOps (ev_markDirty (.refl _) _) _) _ _ _ _).dries ((mode_takeHold s k).trans service) left

theorem dryingLaw_beginWaiting (k : SlotIx) (f : Result × Nat) (limit : Nat) (service : s.mode = .service)
    (law : s.dryingLaw) : (s.beginWaiting k f limit).dryingLaw :=
  (ev_notify (ev_markDirty (.refl _) _) _ _).dries service (dryingLaw_setQueue _ (dryingLaw_setSlot _ _ law))

theorem dryingLaw_commitFleet (k : SlotIx) (wait : Bool) (service : s.mode = .service) (law : s.dryingLaw) :
    (s.commitFleet k wait).dryingLaw := by
  have refused (f : Result × Nat) : (s.refuseCommit k f).dryingLaw := (ev_refuseCommit (.refl s) k f).dries service law
  unfold State.commitFleet
  split
  case h_1 => exact refused _
  case h_2 x m _ =>
  have captured : (s.captureFleet k x m).dryingLaw := dryingLaw_setSlot _ _ law
  dsimp only
  split
  case h_1 available => exact dryingLaw_grant k service captured (by simp [State.captureFleet]) available
  case h_2 =>
    split
    · have told : Evolve (s.captureFleet k x m) ((s.captureFleet k x m).setLive (some x) (asFleet k)) :=
        ev_setLive (.refl _) _ _
      exact dryingLaw_beginWaiting k _ _ ((mode_of_outside told.outside).trans service) (told.dries service captured)
    · exact refused _

theorem dryingLaw_commitPassenger (k : SlotIx) (service : s.mode = .service) (law : s.dryingLaw)
    (passenger : isFleet k = false) : (s.commitPassenger k).dryingLaw := by
  unfold State.commitPassenger
  split
  case h_1 => exact (ev_refuseCommit (.refl s) k _).dries service law
  case h_2 =>
  have captured : (s.capturePassenger k).dryingLaw := dryingLaw_setSlot _ _ law
  dsimp only
  split
  case h_1 available => exact dryingLaw_activate k service captured passenger available
  case h_2 =>
    refine (ev_preempt (ev_foldl _ (fun _ g q => ev_addClaim q k g) _ (.refl _)) _).dries ?_
      (dryingLaw_beginWaiting k _ _ service captured)
    exact (mode_of_outside (outside_beginWaiting _ k _ _)).trans service

theorem dryingLaw_commitWrite (k : SlotIx) (v : Word) (service : s.mode = .service) (law : s.dryingLaw) :
    (s.commitWrite k v).dryingLaw := by
  have begun : s.clearFreeing.dryingLaw := (ev_clearFreeing (.refl s)).dries service law
  have still : s.clearFreeing.mode = .service := service
  refine (ev_settle (.refl _)).dries ?_ ?_
  all_goals dsimp only; rw [if_neg (not_not.mpr still)]
  · (repeat' split) <;> exact (mode_of_outside (by simp)).trans still
  (repeat' split)
  · exact (ev_refuseOnly (.refl _) k _).dries service begun
  · exact (ev_refuseCommit (.refl _) k _).dries service begun
  · exact dryingLaw_commitFleet k _ service begun
  · exact dryingLaw_commitPassenger k service begun (by simpa using ‹¬ isFleet k = true›)

/-- A commit outside SERVICE is refused (R59). -/
theorem ev_commitWrite (k : SlotIx) (v : Word) (rest : s.mode ≠ .service) : Evolve s (s.commitWrite k v) := by
  have begun : s.clearFreeing.mode ≠ .service := rest
  refine (?_ : Evolve s _).trans (ev_settle (.refl _))
  dsimp only
  rw [if_pos begun]
  exact ev_refuseCommit (ev_clearFreeing (.refl s)) k _

end Commits

/-! ### Restarts and the entry to SERVICE (R134, R172, R177) -/

theorem dryingLaw_restart {t : State} (segs : t.segs = Vector.replicate 255 {}) (drying : t.drying = []) : t.dryingLaw := by
  have seg (g : SegIx) : t.seg g = {} := by simp [State.seg, segs]
  refine ⟨by simp [drying], by simp [drying], fun g => ?_, fun g => ?_, fun g => ?_, fun _ g => ?_⟩
  · simp [State.wetAgrees, seg, drying]
  all_goals simp [seg]

/-- Marking floor wet, segment after segment, once each: what is still to be marked is dry and free (R134). -/
theorem dryingLaw_markAll (pick : State → SegIx → Bool) (l : List SegIx) (once : l.Nodup) (s : State) (service : s.mode = .service)
    (law : s.dryingLaw)
    (dry : ∀ g ∈ l, (s.seg g).wet = none ∧ (s.seg g).holder = none ∧ (s.seg g).carried = false) :
    (l.foldl (fun s g => if pick s g then s.markWet g else s) s).dryingLaw := by
  induction l generalizing s with
  | nil => exact law
  | cons g l ih =>
    obtain ⟨fresh, once⟩ := List.nodup_cons.mp once
    have here := dry g (by simp)
    rw [List.foldl_cons]
    split
    · refine ih once _ ?_ (dryingLaw_markWet s g law service here.1 here.2.1 here.2.2) fun h there => ?_
      · exact (mode_of_outside (outside_markWet s g)).trans service
      · have ne : g ≠ h := fun e => fresh (e ▸ there)
        rw [State.markWet, seg_setSeg_other _ _ _ _ ne]
        exact dry h (by simp [there])
    · exact ih once s service law fun h there => dry h (by simp [there])

/-- At the entry to SERVICE nothing is wet or held yet, and every floor segment with restart-wet is marked once (R134). -/
theorem dryingLaw_enterService (s : State) (recovered : s.mode = .recovery) (law : s.dryingLaw) :
    s.enterService.dryingLaw := by
  have rest : s.mode ≠ .service := by rw [recovered]; decide
  obtain ⟨once, ordered, agree, heldDry, carriedHeld, bare⟩ := law
  have uncarried (g : SegIx) : (s.seg g).carried = false := by
    by_contra carried
    simpa [(bare rest g).2] using carriedHeld g (by simpa using carried)
  have entered : ({ s with mode := .service } : State).dryingLaw :=
    ⟨once, ordered, agree, heldDry, carriedHeld, fun outside => absurd rfl outside⟩
  have marked : ({ s with mode := .service } : State).restartWet.dryingLaw :=
    dryingLaw_markAll (fun s g => (s.floorClass (s.resolvedClass g)).restartWet) _ ((List.nodup_finRange 255).filter _)
      _ rfl entered fun g _ => ⟨(bare rest g).1, (bare rest g).2, uncarried g⟩
  exact (ev_notify (.refl _) _ _).dries (mode_of_outside (outside_restartWet _)) marked

/-! ### The law -/

theorem Stride.dries {s t : State} (stride : Stride s t) (law : s.idleLaw ∧ s.dryingLaw) : t.idleLaw ∧ t.dryingLaw := by
  obtain ⟨idle, dry⟩ := law
  cases stride with
  | event moved => exact ⟨moved.toCalm.idle idle, moved.drying idle dry⟩
  | beside segs slots queue drying mode =>
    have seg (g : SegIx) : t.seg g = s.seg g := by rw [State.seg, segs, State.seg]
    have slot (k : SlotIx) : t.slot k = s.slot k := by rw [State.slot, slots, State.slot]
    have outside (rest : t.mode ≠ .service) : s.mode ≠ .service := by
      obtain same | ⟨was, _⟩ := mode
      · exact same ▸ rest
      · exact was
    refine ⟨fun rest k => (slot k).symm ▸ idle (outside rest) k, ?_⟩
    obtain ⟨once, ordered, agree, heldDry, carriedHeld, bare⟩ := dry
    refine ⟨by rwa [drying], by rwa [drying], fun g => ?_, fun g => ?_, fun g => ?_, fun rest g => ?_⟩
    · exact (wetAgrees_congr s t g (by rw [seg]) drying).mpr (agree g)
    · rw [seg]; exact heldDry g
    · rw [seg]; exact carriedHeld g
    · rw [seg]; exact bare (outside rest) g
  | commit k v =>
    by_cases service : s.mode = .service
    · refine ⟨fun rest => absurd ?_ rest, dryingLaw_commitWrite k v service dry⟩
      exact (mode_of_outside (outside_commitWrite s k v)).trans service
    · have refused := ev_commitWrite k v service
      exact ⟨refused.toCalm.idle idle, refused.drying idle dry⟩
  | restart segs slots _ drying _ =>
    exact ⟨fun _ k => by simp [State.slot, slots], dryingLaw_restart segs drying⟩
  | entry recovered =>
    refine ⟨fun rest => absurd ?_ rest, dryingLaw_enterService s recovered dry⟩
    exact mode_of_outside (s := { s with mode := .service }) (by simp [State.enterService])

/-- Settles O59: each part of a command keeps the law, with the law of idle slots. -/
theorem dryingLawIsKept : Obligations.DryingLawIsKept := by
  intro s t idle dry taken
  exact (step_keeps (law := fun s => s.idleLaw ∧ s.dryingLaw) (fun _ _ stride => stride.dries) taken ⟨idle, dry⟩).2

end Sys2Proof.Machine
end

section
/-! PROOFS. The availability tests, check by check (O39, O40; R50, R52, R146). -/
namespace Sys2Proof.Machine
open Sys2Proof

section Checks
variable (s : State) (x : ScrubIx) (g : SegIx)

theorem closed_iff (c : Closure) :
    c.closed = true ↔ c.operations = true ∨ c.dispatch = true ∨ c.drying = true := by
  simp [Closure.closed, or_assoc]

/-- Check 6 finds a pinch group that another scrubber holds. -/
theorem pinchedFrom_iff : s.pinchedFrom x g = true ↔
    ∃ p, (s.fixed g).pinch = some p ∧ (s.pinchEntry p).holder ≠ none ∧ (s.pinchEntry p).holder ≠ some x := by
  unfold State.pinchedFrom
  split
  case h_1 none => simp [none]
  case h_2 p group => simp [group, Option.isSome_iff_ne_none]

/-- Check 7 finds a zone that is not QUIET. -/
theorem not_zoneQuiet_iff : (!s.zoneQuiet g) = true ↔ ∃ z, (s.fixed g).zone = some z ∧ (s.zone z).state ≠ .quiet := by
  unfold State.zoneQuiet
  split
  case h_1 none => simp [none]
  case h_2 z zone => simp [zone]

end Checks

/-- Settles O39, check by check. -/
theorem fleetAvailability : Obligations.FleetAvailability := by
  intro s x m i g
  unfold State.fleetTest
  refine if_congr ?closed rfl (if_congr ?wet rfl (if_congr ?held rfl (if_congr ?claimed rfl
    (if_congr ?occupied rfl (if_congr (pinchedFrom_iff s x g) rfl (if_congr ?zone rfl (if_congr ?floor rfl rfl)))))))
  case closed => simp [closed_iff]
  case wet | held | occupied => simp [Option.isSome_iff_ne_none]
  case claimed => simp
  case zone => rw [Bool.and_eq_true, not_zoneQuiet_iff, beq_iff_eq]
  case floor => simp [State.permitsScrub]

/-- The passenger test reads the closure, the wet field, the holder and the occupant of its segment and nothing else
(R52). -/
theorem passengerTest_congr {s t : State} {g : SegIx} (closure : (t.seg g).closure = (s.seg g).closure)
    (wet : (t.seg g).wet = (s.seg g).wet) (holder : (t.seg g).holder = (s.seg g).holder)
    (occupant : (t.seg g).occupant = (s.seg g).occupant) : t.passengerTest g = s.passengerTest g := by
  rw [State.passengerTest, closure, wet, holder, occupant, State.passengerTest]

/-- What a slot's availability pass looks at (R63). -/
theorem availability_passenger {s : State} {k : SlotIx} (passenger : isFleet k = false) :
    s.availability k = firstFailure (fun _ g => s.passengerTest g) (s.slot k).entries := by
  simp [State.availability, passenger]

theorem availability_fleet {s : State} {k : SlotIx} {x : ScrubIx} (fleet : isFleet k = true)
    (named : (s.slot k).scrubber = some x) :
    s.availability k = firstFailure (fun i g => s.fleetTest x (s.slot k).mode i g) (s.slot k).entries := by
  simp [State.availability, fleet, named]

/-- Settles O40, check by check. -/
theorem passengerAvailability : Obligations.PassengerAvailability := by
  refine ⟨fun s g => ?_, fun s t g => passengerTest_congr, fun s k passenger => ?_⟩
  · unfold State.passengerTest
    refine if_congr (closed_iff _) rfl (if_congr ?_ rfl (if_congr ?_ rfl (if_congr ?_ rfl rfl)))
    all_goals exact Option.isSome_iff_ne_none
  · exact availability_passenger (by simpa [isFleet] using passenger)

end Sys2Proof.Machine
end

section
/-! SUPPORT. Frames of events: two states with the same outside differ in the event fields alone; what a notice and a
dispatch flag leave of these. -/
namespace Sys2Proof.Machine
open Sys2Proof

/-- A state with the outside of another one is that one but for the fields that an event reaches. -/
theorem eq_of_outside {s t : State} (h : t.outside = s.outside) : t = { s with
    segs := t.segs, pinch := t.pinch, slots := t.slots, queue := t.queue, freeing := t.freeing, cells := t.cells,
    scrubbers := t.scrubbers, drying := t.drying, zones := t.zones, dspFlags := t.dspFlags, opsFlags := t.opsFlags,
    staging := t.staging, dirty := t.dirty } := by
  obtain ⟨⟩ := s
  obtain ⟨⟩ := t
  simp only [State.outside, Outside.mk.injEq] at h
  obtain ⟨rfl, rfl, rfl, rfl, rfl, rfl, rfl, rfl, rfl, rfl, rfl, rfl, rfl, rfl, rfl, rfl, rfl, rfl, rfl, rfl, rfl, rfl, rfl,
    rfl, rfl, rfl⟩ := h
  rfl

/-- Without a freeing change an event ends as it stands (R39). -/
theorem settle_eq_self {s : State} (calm : s.freeing = false) : s.settle = s := by
  unfold State.settle
  rw [calm]
  rfl

section Notices
variable (s : State) (kind : NoticeKind) (p : List Word)

@[simp] theorem segs_notify : (s.notify kind p).segs = s.segs := by rw [notify_shape]
@[simp] theorem pinch_notify : (s.notify kind p).pinch = s.pinch := by rw [notify_shape]
@[simp] theorem queue_notify : (s.notify kind p).queue = s.queue := by rw [notify_shape]
@[simp] theorem freeing_notify : (s.notify kind p).freeing = s.freeing := by rw [notify_shape]
@[simp] theorem cells_notify : (s.notify kind p).cells = s.cells := by rw [notify_shape]
@[simp] theorem scrubbers_notify : (s.notify kind p).scrubbers = s.scrubbers := by rw [notify_shape]
@[simp] theorem drying_notify : (s.notify kind p).drying = s.drying := by rw [notify_shape]
@[simp] theorem zones_notify : (s.notify kind p).zones = s.zones := by rw [notify_shape]
@[simp] theorem opsFlags_notify : (s.notify kind p).opsFlags = s.opsFlags := by rw [notify_shape]

end Notices

end Sys2Proof.Machine
end

section
/-! PROOFS. The expiries of the drying list (O27; R44, R129, R130, R131). -/
namespace Sys2Proof.Machine
open Sys2Proof

/-! ### The view of a segment -/

theorem getLsbD_segSummary_wet (r : Seg) : (segSummary none r).getLsbD 10 = r.wet.isSome := by
  cases wet : r.wet.isSome <;> simp only [segSummary, bitFld, BitVec.getLsbD_or, getLsbD_fld, wet] <;> simp

/-- The view shows whether the floor is wet. -/
theorem segViewWords_ne_of_wet {a b : Seg} (h : a.wet.isSome ≠ b.wet.isSome) :
    segViewWords none a ≠ segViewWords none b := by
  intro same
  have summary : segSummary none a = segSummary none b := (List.cons.inj same).1
  exact h (by rw [← getLsbD_segSummary_wet, summary, getLsbD_segSummary_wet])

/-- The view shows the expiry of wet floor. -/
theorem segViewWords_ne_of_expiry {a b : Seg} (h : segExpiryWord a ≠ segExpiryWord b) :
    segViewWords none a ≠ segViewWords none b := fun same => h (by simpa [segViewWords] using (List.cons.inj same).2)

theorem marks_setSeg {s t : State} {l : List MirrorRec} (h : s.marks t l) (g : SegIx) (r : Seg)
    (shows : segViewWords none r ≠ segViewWords none (t.seg g)) : s.marks (t.setSeg g r) (segRecord g :: l) := by
  intro y
  have flags : (t.setSeg g r).dspFlags = t.dspFlags ∧ (t.setSeg g r).opsFlags = t.opsFlags := ⟨rfl, rfl⟩
  rw [mem_dirty_setSeg, h y, flags.1, flags.2, List.mem_cons]
  simp only [shows, ne_eq, not_false_iff, true_and]
  tauto

theorem onlySeg_setSeg {s t : State} (same : ∀ h, t.seg h = s.seg h) (g : SegIx) (r : Seg) :
    s.onlySeg (t.setSeg g r) g r :=
  ⟨seg_setSeg_same t g r, fun h ne => (seg_setSeg_other t g h r ne.symm).trans (same h)⟩

theorem onlySeg_notify {s t : State} {g : SegIx} {r : Seg} (h : s.onlySeg t g r) (kind : NoticeKind) (p : List Word) :
    s.onlySeg (t.notify kind p) g r :=
  ⟨(seg_notify t kind p g).trans h.1, fun f ne => (seg_notify t kind p f).trans (h.2 f ne)⟩

theorem onlySeg_setDsp {s t : State} {g : SegIx} {r : Seg} (h : s.onlySeg t g r) (f : DspFlag) :
    s.onlySeg (t.setDsp f) g r := h

/-! ### The entry that is due -/

section Entries
variable {s : State} {e : DryEntry}

/-- A segment has one entry in the list, and its field agrees with it (R126). -/
theorem dryingLaw_entry (law : s.dryingLaw) (listed : e ∈ s.drying) :
    (∀ d ∈ s.drying, d.seg = e.seg → d = e) ∧ (s.seg e.seg).wet = some { expiry := e.expiry, count := e.count } := by
  obtain ⟨once, _, agree, _⟩ := law
  have only (d : DryEntry) (mem : d ∈ s.drying) (same : d.seg = e.seg) : d = e :=
    List.inj_on_of_nodup_map once mem listed same
  refine ⟨only, ?_⟩
  have field := agree e.seg
  unfold State.wetAgrees at field
  split at field
  case h_1 => exact absurd rfl (field e listed)
  case h_2 w wet =>
    obtain ⟨d, mem, same, expiry, count⟩ := field
    obtain rfl := only d mem same
    rw [wet, expiry, count]

theorem dueEntry_none {g : SegIx} (h : ∀ e ∈ s.drying, e.seg = g → e.expiry ≠ s.clock) : s.dueEntry g = none := by
  refine List.find?_eq_none.mpr fun e mem => ?_
  simpa using h e mem

theorem dueEntry_some (law : s.dryingLaw) (listed : e ∈ s.drying) (due : e.expiry = s.clock) :
    s.dueEntry e.seg = some e := by
  obtain ⟨only, _⟩ := dryingLaw_entry law listed
  cases found : s.dueEntry e.seg with
  | none => exact absurd (List.find?_eq_none.mp found e listed) (by simp [due])
  | some d =>
    have here := List.find?_some found
    simp only [Bool.and_eq_true, beq_iff_eq] at here
    rw [only d (List.mem_of_find?_eq_some found) here.1]

theorem exec_dryingExpiry (law : s.dryingLaw) (listed : e ∈ s.drying) (due : e.expiry = s.clock) :
    exec (.dryingExpiry e.seg) s = .next (s.clearFreeing.expireEntry e).settle := by
  have event : s.dryingExpiry e.seg = s.event (fun s => s.expireEntry e) := by
    rw [State.dryingExpiry, dueEntry_some law listed due]
  exact congrArg Host.Outcome.next event

theorem expireEntry_dries (h : entryDries s e) : s.expireEntry e = s.dry e := by
  unfold State.expireEntry
  split
  · rfl
  next checked =>
  split
  · rfl
  next z zone =>
  obtain unchecked | low := h
  · simp [unchecked] at checked
  · rw [if_pos (low z zone)]

theorem expireEntry_wet (h : ¬ entryDries s e) : ∃ z, (s.fixed e.seg).zone = some z
    ∧ s.expireEntry e = if e.count < 4 then s.extend e z else s.dryOverdue e z := by
  simp only [entryDries, not_or, not_forall] at h
  obtain ⟨checked, z, zone, high⟩ := h
  refine ⟨z, zone, ?_⟩
  simp [State.expireEntry, checked, zone, high]

end Entries

/-! ### The three outcomes -/

/-- What the drying unit stores at an expiry: the list, and the record of one segment. -/
def State.storeDrying (l : List DryEntry) (g : SegIx) (r : Seg) (s : State) : State :=
  (s.clearFreeing.setDrying l).setSeg g r

section Outcomes
variable {s : State}

theorem notices_storeDrying (l : List DryEntry) (g : SegIx) (r : Seg) : s.notices (s.storeDrying l g r) [] [] :=
  notices_start s _ [] rfl fun f => by
    have kept : (s.storeDrying l g r).dspFlags = s.dspFlags := rfl
    rw [dsp_eq_of_flags kept]
    simp

theorem marks_storeDrying (l : List DryEntry) (g : SegIx) (r : Seg)
    (shows : segViewWords none r ≠ segViewWords none (s.seg g)) : s.marks (s.storeDrying l g r) [segRecord g] :=
  marks_setSeg (marks_congr (t := s) (marks_refl s)) g r shows

theorem onlySeg_storeDrying (l : List DryEntry) (g : SegIx) (r : Seg) : s.onlySeg (s.storeDrying l g r) g r :=
  onlySeg_setSeg (fun _ => rfl) g r

/-- The segment dries (R129). -/
theorem dry_eq (e : DryEntry) : s.clearFreeing.dry e
    = ((s.storeDrying (s.drying.filter (fun d => d.seg != e.seg)) e.seg { s.seg e.seg with wet := none }).notify .dry
      [pack4 (e.seg.val + 1) e.cls.val e.count 0]).noteFreeing := rfl

/-- The segment dries on (R130). -/
theorem extend_eq (e : DryEntry) (z : ZoneIx) : s.clearFreeing.extend e z
    = (s.storeDrying (insertEntry e.extended (s.drying.filter (fun d => d.seg != e.seg))) e.seg
        { s.seg e.seg with wet := some { expiry := e.expiry + 300, count := e.count + 1 } }).notify .dryingExtended
      [pack4 (e.seg.val + 1) (z.val + 1) (e.count + 1) 0, pack2 (s.zone z).moisture (s.profile z).dryThreshold,
        e.expiry + 300] := rfl

/-- The segment is taken out of use (R131). -/
theorem dryOverdue_eq (e : DryEntry) (z : ZoneIx) : s.clearFreeing.dryOverdue e z
    = ((s.storeDrying (s.drying.filter (fun d => d.seg != e.seg)) e.seg
        { s.seg e.seg with wet := none, closure := { (s.seg e.seg).closure with drying := true } }).setDsp
        .dryingOverdue).notify .dryingOverdue
      [pack4 (e.seg.val + 1) (z.val + 1) 0 0, pack2 (s.zone z).moisture (s.profile z).dryThreshold] := rfl

/-- What follows a store of the drying unit in its event leaves the floor, the list and all else alone. -/
theorem storeDrying_frame {l : List DryEntry} {g : SegIx} {r : Seg} {f : DspFlag} {u : State} {kind : NoticeKind}
    {p : List Word} (stored : u = s.storeDrying l g r ∨ u = (s.storeDrying l g r).setDsp f) : u.notify kind p = { s with
      segs := (u.notify kind p).segs, drying := l, staging := (u.notify kind p).staging,
      dspFlags := (u.notify kind p).dspFlags, dirty := (u.notify kind p).dirty, freeing := false } := by
  have outside : u.outside = s.outside := by rcases stored with rfl | rfl <;> rfl
  have frame := eq_of_outside ((outside_notify u kind p).trans outside)
  simp only [pinch_notify, slots_notify, queue_notify, freeing_notify, cells_notify, scrubbers_notify, drying_notify,
    zones_notify, opsFlags_notify] at frame
  rcases stored with rfl | rfl <;> exact frame

end Outcomes

/-- Settles O27, outcome by outcome. -/
theorem dryingExpiry : Obligations.DryingExpiry := by
  intro s g
  refine ⟨fun undue => ?_, ?_⟩
  · have kept : s.dryingExpiry g = s := by rw [State.dryingExpiry, dueEntry_none undue]
    exact congrArg Host.Outcome.next kept
  rintro e law - listed rfl due
  have ran := exec_dryingExpiry law listed due
  obtain ⟨-, wet⟩ := dryingLaw_entry law listed
  refine ⟨fun dries => ?_, fun stays early => ?_, fun stays late => ?_⟩
  · have outcome := (expireEntry_dries (s := s.clearFreeing) dries).trans (dry_eq e)
    have shows : segViewWords none { s.seg e.seg with wet := none } ≠ segViewWords none (s.seg e.seg) :=
      segViewWords_ne_of_wet (by simp [wet])
    rw [outcome] at ran
    refine ⟨_, ran, ?_, onlySeg_notify (onlySeg_storeDrying _ _ _) _ _,
      notices_notify (notices_storeDrying _ _ _) rfl rfl rfl _ _,
      marks_notify (marks_storeDrying _ _ _ shows) (.inl rfl) _ _⟩
    exact congrArg State.noteFreeing (storeDrying_frame (f := .dryingOverdue) (.inl rfl))
  · obtain ⟨z, zone, outcome⟩ := expireEntry_wet (s := s.clearFreeing) stays
    have shows : segViewWords none { s.seg e.seg with wet := some { expiry := e.expiry + 300, count := e.count + 1 } }
        ≠ segViewWords none (s.seg e.seg) := segViewWords_ne_of_expiry (by simp [segExpiryWord, wet])
    rw [outcome, if_pos early, extend_eq, settle_eq_self (by rw [freeing_notify]; rfl)] at ran
    refine ⟨_, z, ran, zone, ?_, onlySeg_notify (onlySeg_storeDrying _ _ _) _ _,
      fun d => ?_, notices_notify (notices_storeDrying _ _ _) rfl rfl rfl _ _,
      marks_notify (marks_storeDrying _ _ _ shows) (.inl rfl) _ _⟩
    · rw [drying_notify]
      exact storeDrying_frame (f := .dryingOverdue) (.inl rfl)
    · rw [drying_notify]
      exact (mem_insertEntry _ _ _).trans (by simp [DryEntry.extended])
  · obtain ⟨z, zone, outcome⟩ := expireEntry_wet (s := s.clearFreeing) stays
    have shows : segViewWords none { s.seg e.seg with
        wet := none, closure := { (s.seg e.seg).closure with drying := true } } ≠ segViewWords none (s.seg e.seg) :=
      segViewWords_ne_of_wet (by simp [wet])
    rw [outcome, if_neg (not_lt.mpr late), dryOverdue_eq, settle_eq_self (by rw [freeing_notify]; rfl)] at ran
    refine ⟨_, z, ran, zone, storeDrying_frame (.inr rfl),
      onlySeg_notify (onlySeg_setDsp (onlySeg_storeDrying _ _ _) _) _ _,
      notices_notify (notices_setDsp (notices_storeDrying _ _ _) _) rfl rfl rfl _ _,
      marks_notify (marks_setDsp (marks_storeDrying _ _ _ shows) _ (.inl rfl)) (.inr ⟨_, rfl⟩) _ _⟩

end Sys2Proof.Machine
end

section
/-! SUPPORT. What the release of held floor leaves, segment by segment: the records, the drying list and the pinch table
(R41, R44, R48, R101, R127). -/
namespace Sys2Proof.Machine
open Sys2Proof

section Congruence
variable {s t : State}

theorem fixed_of_outside (h : t.outside = s.outside) (g : SegIx) : t.fixed g = s.fixed g :=
  fixed_congr (congrArg Outside.site h) g

theorem resolvedClass_of_outside (h : t.outside = s.outside) (g : SegIx) : t.resolvedClass g = s.resolvedClass g := by
  have site : t.site = s.site := congrArg Outside.site h
  have tuning : t.tuning = s.tuning := congrArg Outside.tuning h
  unfold State.resolvedClass State.defaultClass
  rw [fixed_of_outside h, site, tuning]

theorem floorClass_of_outside (h : t.outside = s.outside) (c : ClassIx) : t.floorClass c = s.floorClass c := by
  have site : t.site = s.site := congrArg Outside.site h
  unfold State.floorClass
  rw [site]

theorem dryAt_of_outside (h : t.outside = s.outside) (g : SegIx) : t.dryAt g = s.dryAt g := by
  unfold State.dryAt
  rw [resolvedClass_of_outside h, floorClass_of_outside h, clock_of_outside h]

theorem newEntry_of_outside (h : t.outside = s.outside) (g : SegIx) : t.newEntry g = s.newEntry g := by
  unfold State.newEntry
  rw [dryAt_of_outside h, resolvedClass_of_outside h, floorClass_of_outside h, fixed_of_outside h]

end Congruence

/-! ### One segment -/

/-- A segment's record once its holder has let it go, with a wet choice and the wet mark that it would take. -/
def Seg.freed (r : Seg) (wet : Bool) (w : Wet) : Seg :=
  if r.carried = true ∨ wet = true then { r with holder := none, pendingRel := false, carried := false, wet := some w }
  else { r with holder := none, pendingRel := false }

/-- The wet mark that a segment takes now (R127). -/
def State.freshWet (s : State) (g : SegIx) : Wet := { expiry := s.dryAt g, count := 0 }

theorem seg_markWet (s : State) (g h : SegIx) :
    (s.markWet g).seg h = if g = h then { s.seg g with wet := some (s.freshWet g) } else s.seg h := seg_setSeg _ g h _

theorem mem_drying_markWet (s : State) (g : SegIx) (d : DryEntry) :
    d ∈ (s.markWet g).drying ↔ d = s.newEntry g ∨ d ∈ s.drying := mem_insertEntry _ s.drying d

/-- What was carried wet is wet again (R41). -/
theorem seg_resumeWet (s : State) (g h : SegIx) : ((s.setSeg g { s.seg g with carried := false }).markWet g).seg h
    = if g = h then { s.seg g with carried := false, wet := some (s.freshWet g) } else s.seg h := by
  rw [seg_markWet]
  by_cases here : g = h
  · rw [if_pos here, if_pos here, seg_setSeg_same]; rfl
  · rw [if_neg here, if_neg here, seg_setSeg_other _ _ _ _ here]

theorem pinchEntry_refreshPinchOf_other (s : State) (g : SegIx) (p : PinchIx) (gain : Option ScrubIx)
    (away : (s.fixed g).pinch ≠ some p) : (s.refreshPinchOf g gain).pinchEntry p = s.pinchEntry p := by
  unfold State.refreshPinchOf
  split
  case h_1 => rfl
  case h_2 q group => exact pinchEntry_refreshPinch_other s q p gain fun same => away (same ▸ group)

section Release
variable (s : State) (k : SlotIx) (wet : Bool) (g : SegIx)

/-- The first part of a release: the segment is nobody's, and its pinch group is up to date (R41, R48). -/
def State.letGo : State :=
  let s1 := (s.setSeg g { s.seg g with holder := none, pendingRel := false }).noteFreeing
  if isFleet k then s1.refreshPinchOf g none else s1

theorem seg_letGo (h : SegIx) : (s.letGo k g).seg h
    = if g = h then { s.seg g with holder := none, pendingRel := false } else s.seg h := by
  unfold State.letGo
  split
  · rw [seg_refreshPinchOf]; exact seg_setSeg s g h _
  · exact seg_setSeg s g h _

theorem outside_letGo : (s.letGo k g).outside = s.outside := by
  unfold State.letGo
  split <;> simp

theorem drying_letGo : (s.letGo k g).drying = s.drying := by
  unfold State.letGo
  split
  · obtain ⟨l, f, e⟩ := refreshPinchOf_eq (s.setSeg g { s.seg g with holder := none, pendingRel := false }).noteFreeing g none
    rw [e]; rfl
  · rfl

/-- A release by the holder (R41). -/
theorem release_eq (mine : (s.seg g).holder = some k) : s.release k wet g =
    if (s.seg g).carried = true then
      ((s.letGo k g).setSeg g { (s.letGo k g).seg g with carried := false }).markWet g
    else if wet = true then (s.letGo k g).markWet g else s.letGo k g := by
  have carried : ((s.letGo k g).seg g).carried = (s.seg g).carried := by rw [seg_letGo, if_pos rfl]
  rw [← carried]
  unfold State.release
  rw [if_pos mine]
  rfl

theorem release_other (other : (s.seg g).holder ≠ some k) : s.release k wet g = s := if_neg other

theorem seg_release (h : SegIx) : (s.release k wet g).seg h
    = if h = g ∧ (s.seg g).holder = some k then (s.seg g).freed wet (s.freshWet g) else s.seg h := by
  by_cases mine : (s.seg g).holder = some k
  · have mark : (s.letGo k g).freshWet g = s.freshWet g := by
      unfold State.freshWet
      rw [dryAt_of_outside (outside_letGo s k g)]
    rw [release_eq s k wet g mine]
    by_cases here : g = h
    · subst here
      have freed : (s.letGo k g).seg g = { s.seg g with holder := none, pendingRel := false } := by
        rw [seg_letGo, if_pos rfl]
      rw [if_pos (⟨rfl, mine⟩ : g = g ∧ (s.seg g).holder = some k)]
      by_cases carried : (s.seg g).carried = true
      · rw [if_pos carried, seg_resumeWet, if_pos rfl, mark, freed, Seg.freed, if_pos (.inl carried)]
      · rw [if_neg carried]
        by_cases chosen : wet = true
        · rw [if_pos chosen, seg_markWet, if_pos rfl, mark, freed, Seg.freed, if_pos (.inr chosen)]
          simpa using carried
        · rw [if_neg chosen, freed, Seg.freed, if_neg (not_or.mpr ⟨carried, chosen⟩)]
    · have kept : (s.letGo k g).seg h = s.seg h := by rw [seg_letGo, if_neg here]
      rw [if_neg fun c : h = g ∧ (s.seg g).holder = some k => here c.1.symm]
      split
      · rw [seg_resumeWet, if_neg here, kept]
      · split
        · rw [seg_markWet, if_neg here, kept]
        · exact kept
  · rw [if_neg fun c => mine c.2, release_other s k wet g mine]

theorem mem_drying_release (d : DryEntry) : d ∈ (s.release k wet g).drying ↔ d ∈ s.drying
    ∨ ((s.seg g).holder = some k ∧ ((s.seg g).carried = true ∨ wet = true) ∧ d = s.newEntry g) := by
  by_cases mine : (s.seg g).holder = some k
  · have entry := newEntry_of_outside (outside_letGo s k g) g
    rw [release_eq s k wet g mine]
    split
    case isTrue carried =>
      have entry' : ((s.letGo k g).setSeg g { (s.letGo k g).seg g with carried := false }).newEntry g = s.newEntry g :=
        entry
      rw [mem_drying_markWet, entry', setSeg_drying, drying_letGo]
      simp [mine, carried, or_comm]
    case isFalse bare =>
      split
      case isTrue chosen =>
        rw [mem_drying_markWet, entry, drying_letGo]
        simp [mine, chosen, or_comm]
      case isFalse unchosen =>
        rw [drying_letGo]
        simp [bare, unchosen]
  · rw [release_other s k wet g mine]
    simp [mine]

theorem pinch_release (mine : (s.seg g).holder = some k) : (s.release k wet g).pinch = (s.letGo k g).pinch := by
  rw [release_eq s k wet g mine]
  split
  · rfl
  · split <;> rfl

theorem pinchEntry_release_other (p : PinchIx) (away : (s.fixed g).pinch ≠ some p) :
    (s.release k wet g).pinchEntry p = s.pinchEntry p := by
  by_cases mine : (s.seg g).holder = some k
  · have entry : (s.release k wet g).pinchEntry p = (s.letGo k g).pinchEntry p := by
      unfold State.pinchEntry; rw [pinch_release s k wet g mine]
    rw [entry]
    unfold State.letGo
    split
    · exact pinchEntry_refreshPinchOf_other _ g p none away
    · rfl
  · rw [release_other s k wet g mine]

theorem pinch_release_passenger (passenger : isFleet k = false) : (s.release k wet g).pinch = s.pinch := by
  by_cases mine : (s.seg g).holder = some k
  · rw [pinch_release s k wet g mine]
    unfold State.letGo
    rw [passenger]
    rfl
  · rw [release_other s k wet g mine]

end Release

end Sys2Proof.Machine
end

section
/-! SUPPORT. Releases along a slot's route, and what the slot has then given back (R41, R44, R48, R49, R101). -/
namespace Sys2Proof.Machine
open Sys2Proof

theorem freshWet_of_outside {s t : State} (h : t.outside = s.outside) (g : SegIx) : t.freshWet g = s.freshWet g := by
  unfold State.freshWet
  rw [dryAt_of_outside h]

/-- Release the segments of route entries, each with its wet choice. -/
def State.releaseEach (k : SlotIx) (w : SegIx × Nat → Bool) (l : List (SegIx × Nat)) (s : State) : State :=
  l.foldl (fun s e => s.release k (w e) e.1) s

theorem slot_release (s : State) (k j : SlotIx) (wet : Bool) (g : SegIx) : (s.release k wet g).slot j = s.slot j := by
  unfold State.slot
  rw [slots_release]

/-- No release changes the slot, so that each wet choice is the one that its record makes at the start. -/
theorem releaseWhere_eq (s : State) (k : SlotIx) (pick : SegIx × Nat → Bool) : s.releaseWhere k pick
    = s.releaseEach k (fun e => isFleet k && (s.slot k).wetChoice e.2) ((s.slot k).entries.filter pick) := by
  have running (l : List (SegIx × Nat)) (r : Slot) (t : State) (slot : t.slot k = r) :
      l.foldl (fun t e => t.release k (isFleet k && (t.slot k).wetChoice e.2) e.1) t
        = t.releaseEach k (fun e => isFleet k && r.wetChoice e.2) l := by
    induction l generalizing t with
    | nil => rfl
    | cons e l ih =>
      rw [List.foldl_cons, ih _ (by rw [slot_release, slot]), slot]
      rfl
  exact running _ _ s rfl

/-- The first entry of a list that names a segment: the one whose wet choice counts. -/
def entryFor (l : List (SegIx × Nat)) (h : SegIx) : Option (SegIx × Nat) := l.find? (fun e => e.1 == h)

theorem entryFor_mem {l : List (SegIx × Nat)} {h : SegIx} {e : SegIx × Nat} (found : entryFor l h = some e) :
    e ∈ l ∧ e.1 = h := ⟨List.mem_of_find?_eq_some found, by simpa using List.find?_some found⟩

theorem entryFor_some {l : List (SegIx × Nat)} {e : SegIx × Nat} (mem : e ∈ l) : ∃ f, entryFor l e.1 = some f := by
  cases found : entryFor l e.1 with
  | none => exact absurd (List.find?_eq_none.mp found e mem) (by simp)
  | some f => exact ⟨f, rfl⟩

/-- In a list that names no segment twice an entry is the first for its segment. -/
theorem entryFor_unique {l : List (SegIx × Nat)} (once : (l.map Prod.fst).Nodup) {e : SegIx × Nat} (mem : e ∈ l) :
    entryFor l e.1 = some e := by
  obtain ⟨f, found⟩ := entryFor_some mem
  obtain ⟨mem', same⟩ := entryFor_mem found
  rw [found, List.inj_on_of_nodup_map once mem' mem same]

theorem freed_holder (r : Seg) (c : Bool) (w : Wet) : (r.freed c w).holder = none := by
  unfold Seg.freed
  split <;> rfl

section Releases
variable {k : SlotIx} {w : SegIx × Nat → Bool} {l : List (SegIx × Nat)} {s : State}

theorem releaseEach_cons (e : SegIx × Nat) :
    s.releaseEach k w (e :: l) = (s.release k (w e) e.1).releaseEach k w l := rfl

theorem outside_releaseEach : (s.releaseEach k w l).outside = s.outside :=
  outside_foldl _ (fun s e => outside_release s k (w e) e.1) l s

theorem slots_releaseEach : (s.releaseEach k w l).slots = s.slots := by
  induction l generalizing s with
  | nil => rfl
  | cons e l ih => rw [releaseEach_cons, ih, slots_release]

/-- A segment that no entry names, or that is not the slot's, stays as it is. -/
theorem seg_releaseEach_kept {h : SegIx} (other : ¬ (h ∈ l.map Prod.fst ∧ (s.seg h).holder = some k)) :
    (s.releaseEach k w l).seg h = s.seg h := by
  induction l generalizing s with
  | nil => rfl
  | cons e l ih =>
    have first : (s.release k (w e) e.1).seg h = s.seg h := by
      rw [seg_release]
      refine if_neg fun c : h = e.1 ∧ (s.seg e.1).holder = some k => other ⟨?_, c.1 ▸ c.2⟩
      rw [c.1]
      exact List.mem_cons_self
    rw [releaseEach_cons, ih, first]
    rw [first]
    exact fun c => other ⟨List.mem_cons_of_mem _ c.1, c.2⟩

/-- A segment of the slot that an entry names is let go, with the wet choice of the first such entry. -/
theorem seg_releaseEach_freed {e : SegIx × Nat} {h : SegIx} (held : (s.seg h).holder = some k)
    (found : entryFor l h = some e) : (s.releaseEach k w l).seg h = (s.seg h).freed (w e) (s.freshWet h) := by
  induction l generalizing s with
  | nil => cases found
  | cons f l ih =>
    rw [releaseEach_cons]
    by_cases here : f.1 = h
    · have same : f = e := by simpa [entryFor, here] using found
      subst same here
      have first := seg_release s k (w f) f.1 f.1
      rw [if_pos ⟨rfl, held⟩] at first
      have nobody : ((s.release k (w f) f.1).seg f.1).holder = none := by rw [first, freed_holder]
      rw [seg_releaseEach_kept (by simp [nobody]), first]
    · have later : entryFor l h = some e := by simpa [entryFor, here] using found
      have first : (s.release k (w f) f.1).seg h = s.seg h := by
        rw [seg_release]
        exact if_neg fun c => here c.1.symm
      rw [ih (first ▸ held) later, first, freshWet_of_outside (outside_release s k _ _)]

/-- The drying list takes an entry for each segment let go that was carried wet or is released wet. -/
theorem mem_drying_releaseEach (d : DryEntry) : d ∈ (s.releaseEach k w l).drying ↔ d ∈ s.drying
    ∨ ∃ e, entryFor l d.seg = some e ∧ (s.seg d.seg).holder = some k ∧ ((s.seg d.seg).carried = true ∨ w e = true)
      ∧ d = s.newEntry d.seg := by
  induction l generalizing s with
  | nil => simp [State.releaseEach, entryFor]
  | cons f l ih =>
    have entry := newEntry_of_outside (outside_release s k (w f) f.1) d.seg
    rw [releaseEach_cons, ih, mem_drying_release, entry, or_assoc]
    refine or_congr_right ?_
    have first := seg_release s k (w f) f.1 d.seg
    by_cases here : f.1 = d.seg
    · rw [← here] at first ⊢
      have found : entryFor (f :: l) f.1 = some f := by simp [entryFor]
      rw [found]
      by_cases held : (s.seg f.1).holder = some k
      · rw [if_pos ⟨rfl, held⟩] at first
        have nobody : ((s.release k (w f) f.1).seg f.1).holder = none := by rw [first, freed_holder]
        simp [held, nobody]
      · rw [if_neg fun c => held c.2] at first
        simp [held, first]
    · rw [if_neg fun c => here c.1.symm] at first
      have later : entryFor (f :: l) d.seg = entryFor l d.seg := by simp [entryFor, here]
      rw [later, first]
      refine or_iff_right fun c => here ?_
      rw [c.2.2]
      rfl

theorem pinchEntry_releaseEach {p : PinchIx} (away : ∀ e ∈ l, (s.fixed e.1).pinch ≠ some p) :
    (s.releaseEach k w l).pinchEntry p = s.pinchEntry p := by
  induction l generalizing s with
  | nil => rfl
  | cons e l ih =>
    rw [releaseEach_cons, ih, pinchEntry_release_other _ _ _ _ _ (away e List.mem_cons_self)]
    intro f mem
    rw [fixed_of_outside (outside_release s k _ _)]
    exact away f (List.mem_cons_of_mem _ mem)

theorem pinch_releaseEach_passenger (passenger : isFleet k = false) : (s.releaseEach k w l).pinch = s.pinch := by
  induction l generalizing s with
  | nil => rfl
  | cons e l ih => rw [releaseEach_cons, ih, pinch_release_passenger _ _ _ _ passenger]

end Releases

/-! ### What the slot has given back (R101) -/

theorem wetChoice_iff (k : SlotIx) (r : Slot) (i : Nat) : (isFleet k && r.wetChoice i) = true ↔ wetChosen k r i := by
  unfold Slot.wetChoice wetChosen
  cases mode : r.mode <;> cases seen : r.evidence.getD (i - 1) .none <;> simp [isFleet]

theorem releasedAs_freed {s : State} {g : SegIx} {c : Bool} {wet : Prop} (choice : c = true ↔ wet) :
    s.releasedAs g wet ((s.seg g).freed c (s.freshWet g)) := by
  unfold State.releasedAs Seg.freed
  rw [← choice]
  split
  case isTrue wetted => exact ⟨rfl, fun _ => ⟨rfl, rfl⟩, fun dry => absurd wetted dry⟩
  case isFalse dry => exact ⟨rfl, fun wetted => absurd wetted dry, fun _ => ⟨rfl, rfl⟩⟩

theorem freed_keeps (r : Seg) (c : Bool) (w : Wet) : (r.freed c w).occupant = r.occupant
    ∧ (r.freed c w).claims = r.claims ∧ (r.freed c w).closure = r.closure := by
  unfold Seg.freed
  split <;> exact ⟨rfl, rfl, rfl⟩

section Where
variable {s : State} {k : SlotIx} {pick : SegIx × Nat → Bool}

/-- Of a route without repetition each picked entry has its own wet choice. -/
theorem seg_releaseWhere_freed (once : (s.slot k).route.Nodup) {g : SegIx} {i : Nat} (entry : (g, i) ∈ (s.slot k).entries)
    (picked : pick (g, i) = true) (held : (s.seg g).holder = some k) : (s.releaseWhere k pick).seg g
      = (s.seg g).freed (isFleet k && (s.slot k).wetChoice i) (s.freshWet g) := by
  have distinct : (((s.slot k).entries.filter pick).map Prod.fst).Nodup :=
    (((map_fst_entries _).symm ▸ once : ((s.slot k).entries.map Prod.fst).Nodup)).sublist
      (List.filter_sublist.map Prod.fst)
  rw [releaseWhere_eq]
  exact seg_releaseEach_freed held (entryFor_unique distinct (List.mem_filter.mpr ⟨entry, picked⟩))

/-- The segments of the entries passed over stay as they are. -/
theorem seg_releaseWhere_kept {g : SegIx}
    (other : ∀ i, (g, i) ∈ (s.slot k).entries → pick (g, i) = true → (s.seg g).holder ≠ some k) :
    (s.releaseWhere k pick).seg g = s.seg g := by
  rw [releaseWhere_eq]
  refine seg_releaseEach_kept ?_
  rintro ⟨named, held⟩
  obtain ⟨⟨f, i⟩, mem, rfl⟩ := List.mem_map.mp named
  obtain ⟨entry, picked⟩ := List.mem_filter.mp mem
  exact other i entry picked held

/-- The drying list of a release of picked entries, whatever the route repeats. -/
theorem mem_drying_releaseWhere {d : DryEntry} (listed : d ∈ (s.releaseWhere k pick).drying) : d ∈ s.drying
    ∨ (s.seg d.seg).holder = some k ∧ d = s.newEntry d.seg ∧ ∃ i, (d.seg, i) ∈ (s.slot k).entries
      ∧ pick (d.seg, i) = true ∧ ((s.seg d.seg).carried = true ∨ wetChosen k (s.slot k) i) := by
  rw [releaseWhere_eq, mem_drying_releaseEach] at listed
  refine listed.imp_right fun ⟨e, found, held, wet, new⟩ => ⟨held, new, e.2, ?_⟩
  obtain ⟨mem, here⟩ := entryFor_mem found
  obtain ⟨entry, picked⟩ := List.mem_filter.mp mem
  rw [wetChoice_iff] at wet
  rw [← here]
  exact ⟨entry, picked, here ▸ wet⟩

theorem mem_drying_releaseWhere_new (once : (s.slot k).route.Nodup) {g : SegIx} {i : Nat}
    (entry : (g, i) ∈ (s.slot k).entries) (picked : pick (g, i) = true) (held : (s.seg g).holder = some k)
    (wet : (s.seg g).carried = true ∨ wetChosen k (s.slot k) i) : s.newEntry g ∈ (s.releaseWhere k pick).drying := by
  have distinct : (((s.slot k).entries.filter pick).map Prod.fst).Nodup :=
    (((map_fst_entries _).symm ▸ once : ((s.slot k).entries.map Prod.fst).Nodup)).sublist
      (List.filter_sublist.map Prod.fst)
  rw [releaseWhere_eq, mem_drying_releaseEach]
  refine .inr ⟨(g, i), entryFor_unique distinct (List.mem_filter.mpr ⟨entry, picked⟩), held, ?_, rfl⟩
  rw [wetChoice_iff]
  exact wet

theorem drying_releaseWhere_mono {d : DryEntry} (listed : d ∈ s.drying) : d ∈ (s.releaseWhere k pick).drying := by
  rw [releaseWhere_eq, mem_drying_releaseEach]
  exact .inl listed

theorem pinchEntry_releaseWhere {p : PinchIx}
    (away : ∀ e ∈ (s.slot k).entries, pick e = true → (s.fixed e.1).pinch ≠ some p) :
    (s.releaseWhere k pick).pinchEntry p = s.pinchEntry p := by
  rw [releaseWhere_eq]
  refine pinchEntry_releaseEach fun e mem => ?_
  obtain ⟨entry, picked⟩ := List.mem_filter.mp mem
  exact away e entry picked

/-- A slot that releases all it holds has given it back. -/
theorem gaveBack_releaseAll (once : (s.slot k).route.Nodup) : s.gaveBack (s.releaseAll k) k := by
  refine ⟨fun g other => ?_, fun g i entry held => ?_, fun d => ⟨fun listed => ?_, ?_⟩, fun p away => ?_⟩
  · exact seg_releaseWhere_kept fun i entry _ held => other ⟨fst_mem_of_entries entry, held⟩
  · have freed : (s.releaseAll k).seg g = _ := seg_releaseWhere_freed once entry rfl held
    obtain ⟨occupant, claims, -⟩ := freed_keeps (s.seg g) (isFleet k && (s.slot k).wetChoice i) (s.freshWet g)
    rw [freed]
    exact ⟨releasedAs_freed (wetChoice_iff _ _ _), occupant, claims⟩
  · obtain old | ⟨held, new, i, entry, -, wet⟩ := mem_drying_releaseWhere listed
    · exact .inl old
    · exact .inr ⟨d.seg, i, entry, held, wet, new⟩
  · rintro (old | ⟨g, i, entry, held, wet, rfl⟩)
    · exact drying_releaseWhere_mono old
    · exact mem_drying_releaseWhere_new once entry rfl held wet
  · exact pinchEntry_releaseWhere fun e entry _ => away e.1 (fst_mem_of_entries entry)

end Where

end Sys2Proof.Machine
end

section
/-! SUPPORT. The count of a pinch group after a slot has given back its route: the group's holder with its count, or who
still stands in the group (R47 to R49). -/
namespace Sys2Proof.Machine
open Sys2Proof

theorem pinchAfter_congr {s t : State} {p : PinchIx} (same : SameGroup s t p) {h : ScrubIx} {e : Pinch}
    (after : pinchAfter s p h e) : pinchAfter t p h e := by
  obtain ⟨used, unused⟩ := after
  have group := inGroup_congr same.site p
  have occupant {g : SegIx} (here : inGroup t p g) : (t.seg g).occupant = (s.seg g).occupant :=
    same.occupant g ((group g).mp here)
  simp only [pinchAfter, pinchUse_congr same]
  refine ⟨used, fun zero => ⟨fun g y here stands first => ?_, fun vacant => ?_⟩⟩
  · refine (unused zero).1 g y ((group g).mp here) (occupant here ▸ stands) fun f below there => ?_
    rw [← occupant ((group f).mpr there)]
    exact first f below ((group f).mpr there)
  · refine (unused zero).2 fun g here => ?_
    rw [← occupant ((group g).mpr here)]
    exact vacant g ((group g).mpr here)

/-- The occupant of the lowest-numbered occupied segment of a group. -/
theorem groupOccupant_first {s : State} {p : PinchIx} {g : SegIx} {y : ScrubIx} (here : inGroup s p g)
    (stands : (s.seg g).occupant = some y)
    (first : ∀ f : SegIx, f.val < g.val → inGroup s p f → (s.seg f).occupant = none) : s.groupOccupant p = some y := by
  have mem := (mem_groupSegs s p g).mpr here
  have ascending : (s.groupSegs p).Pairwise (· < ·) := ((List.pairwise_lt_finRange 255).filter _).filter _
  obtain ⟨before, after, split⟩ := List.append_of_mem mem
  refine List.findSome?_eq_some_iff.mpr ⟨before, g, after, split, stands, fun f early => ?_⟩
  rw [split, List.pairwise_append] at ascending
  refine first f (ascending.2.2 f early g List.mem_cons_self) ((mem_groupSegs s p f).mp ?_)
  rw [split]
  exact List.mem_append_left _ early

/-- A group with a holder is counted afresh when it is brought up to date (R48, R49). -/
theorem pinchAfter_refreshPinch {s : State} {p : PinchIx} {h : ScrubIx} (holder : (s.pinchEntry p).holder = some h) :
    pinchAfter (s.refreshPinch p none) p h ((s.refreshPinch p none).pinchEntry p) := by
  refine pinchAfter_congr (sameGroup_refreshPinch s p p none) ?_
  unfold State.refreshPinch
  rw [holder]
  dsimp only
  rw [pinchCount_eq]
  by_cases used : pinchUse s p h ≠ 0
  · rw [if_pos used, pinchEntry_setPinch_same]
    exact ⟨fun _ => rfl, fun zero => absurd zero used⟩
  · rw [if_neg used]
    refine ⟨fun some => absurd some used, fun _ => ⟨fun g y here stands first => ?_, fun vacant => ?_⟩⟩
    · rw [groupOccupant_first here stands first]
      dsimp only
      rw [pinchEntry_noteFreeing, pinchEntry_setPinch_same, pinchCount_eq]
    · have nobody : s.groupOccupant p = none :=
        List.findSome?_eq_none_iff.mpr fun g mem => vacant g ((mem_groupSegs s p g).mp mem)
      rw [nobody]
      dsimp only
      rw [pinchEntry_noteFreeing, pinchEntry_setPinch_same]

section Groups
variable {s : State} {k : SlotIx} {p : PinchIx} {h : ScrubIx}

/-- What follows the refresh in a release changes no grip. -/
theorem sameGroup_letGo_release (wet : Bool) {g : SegIx} (mine : (s.seg g).holder = some k) :
    SameGroup (s.letGo k g) (s.release k wet g) p := by
  have grip (f : SegIx) : ((s.release k wet g).seg f).grip = ((s.letGo k g).seg f).grip := by
    rw [grip_release, seg_letGo]
    by_cases here : g = f
    · subst here; rw [if_pos ⟨rfl, mine⟩, if_pos rfl]; rfl
    · rw [if_neg here, if_neg fun c => here c.1.symm]
  have site : (s.release k wet g).site = (s.letGo k g).site :=
    congrArg Outside.site ((outside_release s k wet g).trans (outside_letGo s k g).symm)
  have slots : (s.letGo k g).slots = s.slots := by
    unfold State.letGo
    split
    · rw [slots_refreshPinchOf]; rfl
    · rfl
  refine ⟨site, fun f _ => (grip_eq (grip f)).2.2, fun f _ j _ => by rw [(grip_eq (grip f)).1], fun _ _ j _ _ => ?_⟩
  unfold State.slot
  rw [slots_release, slots]

/-- A fleet slot's release brings the group of its segment up to date. -/
theorem letGo_fleet (fleet : k.val < 20) {g : SegIx} (group : (s.fixed g).pinch = some p) :
    s.letGo k g = ((s.setSeg g { s.seg g with holder := none, pendingRel := false }).noteFreeing).refreshPinch p none := by
  have here : (((s.setSeg g { s.seg g with holder := none, pendingRel := false }).noteFreeing).fixed g).pinch = some p :=
    group
  unfold State.letGo State.refreshPinchOf
  rw [if_pos (by simpa [isFleet] using fleet)]
  dsimp only
  rw [here]

theorem pinchAfter_release (wet : Bool) (fleet : k.val < 20) {g : SegIx} (group : (s.fixed g).pinch = some p)
    (mine : (s.seg g).holder = some k) (holder : (s.pinchEntry p).holder = some h) :
    pinchAfter (s.release k wet g) p h ((s.release k wet g).pinchEntry p) := by
  have entry : (s.release k wet g).pinchEntry p = (s.letGo k g).pinchEntry p := by
    unfold State.pinchEntry; rw [pinch_release s k wet g mine]
  rw [entry]
  refine pinchAfter_congr (sameGroup_letGo_release wet mine) ?_
  rw [letGo_fleet fleet group]
  exact pinchAfter_refreshPinch holder

/-- While the slot still holds a segment of a group, its scrubber stays the group's holder. -/
theorem holder_of_pinchAfter {t : State} {e : Pinch} (after : pinchAfter t p h e) (fleet : k.val < 20)
    (named : (t.slot k).scrubber = some h) {g : SegIx} (group : inGroup t p g) (held : (t.seg g).holder = some k) :
    e.holder = some h := by
  have used := (pinchUse_pos t p h).mpr ⟨g, group, .inr ⟨k, held, fleet, named⟩⟩
  rw [after.1 (by omega)]

/-- Releases away from a group leave it as it is. -/
theorem sameGroup_releaseEach {w : SegIx × Nat → Bool} {l : List (SegIx × Nat)}
    (away : ∀ e ∈ l, (s.fixed e.1).pinch = some p → (s.seg e.1).holder ≠ some k) :
    SameGroup s (s.releaseEach k w l) p ∧ (s.releaseEach k w l).pinchEntry p = s.pinchEntry p := by
  have kept {g : SegIx} (group : inGroup s p g) : (s.releaseEach k w l).seg g = s.seg g := by
    refine seg_releaseEach_kept fun ⟨named, held⟩ => ?_
    obtain ⟨e, mem, rfl⟩ := List.mem_map.mp named
    exact away e mem group.2 held
  refine ⟨⟨congrArg Outside.site outside_releaseEach, fun g group => by rw [kept group],
    fun g group j _ => by rw [kept group], fun _ _ j _ _ => by unfold State.slot; rw [slots_releaseEach]⟩, ?_⟩
  clear kept
  induction l generalizing s with
  | nil => rfl
  | cons e l ih =>
    have first : (s.release k (w e) e.1).pinchEntry p = s.pinchEntry p := by
      by_cases group : (s.fixed e.1).pinch = some p
      · rw [release_other s k _ _ (away e List.mem_cons_self group)]
      · exact pinchEntry_release_other _ _ _ _ _ group
    rw [releaseEach_cons, ih, first]
    intro f mem group held
    rw [fixed_of_outside (outside_release s k _ _)] at group
    refine away f (List.mem_cons_of_mem _ mem) group ?_
    rw [seg_release] at held
    split at held
    · rw [freed_holder] at held; cases held
    · exact held

/-- The last segment that the slot lets go of a group's has the group counted. -/
theorem pinchAfter_releaseEach {w : SegIx × Nat → Bool} {l : List (SegIx × Nat)} (fleet : k.val < 20)
    (named : (s.slot k).scrubber = some h) (holder : (s.pinchEntry p).holder = some h)
    (touches : ∃ e ∈ l, (s.fixed e.1).pinch = some p ∧ (s.seg e.1).holder = some k) :
    pinchAfter (s.releaseEach k w l) p h ((s.releaseEach k w l).pinchEntry p) := by
  induction l generalizing s with
  | nil => obtain ⟨e, mem, -⟩ := touches; cases mem
  | cons e l ih =>
    rw [releaseEach_cons]
    have fixed (g : SegIx) : (s.release k (w e) e.1).fixed g = s.fixed g := fixed_of_outside (outside_release s k _ _) g
    have named' : ((s.release k (w e) e.1).slot k).scrubber = some h := by rw [slot_release]; exact named
    by_cases here : (s.fixed e.1).pinch = some p ∧ (s.seg e.1).holder = some k
    · have after := pinchAfter_release (w e) fleet here.1 here.2 holder
      by_cases later : ∃ f ∈ l, ((s.release k (w e) e.1).fixed f.1).pinch = some p
          ∧ ((s.release k (w e) e.1).seg f.1).holder = some k
      · obtain ⟨f, mem, group, held⟩ := later
        exact ih named' (holder_of_pinchAfter after fleet named' (inGroup_of_pinch group) held) ⟨f, mem, group, held⟩
      · obtain ⟨same, entry⟩ := sameGroup_releaseEach (s := s.release k (w e) e.1) (w := w) (l := l) (p := p) (k := k)
          fun f mem group held => later ⟨f, mem, group, held⟩
        rw [entry]
        exact pinchAfter_congr same after
    · have entry : (s.release k (w e) e.1).pinchEntry p = s.pinchEntry p := by
        obtain ⟨same, kept⟩ := sameGroup_releaseEach (s := s) (w := w) (l := [e]) (p := p) (k := k) fun f mem group held => by
          rw [List.mem_singleton.mp mem] at group held
          exact here ⟨group, held⟩
        exact kept
      obtain ⟨f, mem, group, held⟩ := touches
      refine ih named' (entry ▸ holder) ⟨f, ?_, by rw [fixed]; exact group, ?_⟩
      · refine (List.mem_cons.mp mem).resolve_left fun same => here ?_
        rw [← same]
        exact ⟨group, held⟩
      · rw [seg_release, if_neg]
        · exact held
        · rintro ⟨same, -⟩
          exact here (same ▸ ⟨group, held⟩)

/-- A slot that has given back its route leaves each of its groups counted (R48, R49). -/
theorem pinchAfter_releaseAll (law : s.pinchLaw) (fleet : k.val < 20) {g : SegIx} (route : g ∈ (s.slot k).route)
    (held : (s.seg g).holder = some k) (group : (s.fixed g).pinch = some p) (holder : (s.pinchEntry p).holder = some h) :
    pinchAfter (s.releaseAll k) p h ((s.releaseAll k).pinchEntry p) := by
  have named : (s.slot k).scrubber = some h := pinchLaw_names law holder g (inGroup_of_pinch group) k held fleet
  obtain ⟨e, entry, rfl⟩ := exists_entry route
  rw [State.releaseAll, releaseWhere_eq]
  exact pinchAfter_releaseEach fleet named holder ⟨e, List.mem_filter.mpr ⟨entry, rfl⟩, group, held⟩

end Groups

end Sys2Proof.Machine
end

section
/-! SUPPORT. The frames of releases and of slot ends, and what a slot's end leaves: its record, its scrubber's live slot,
the notice and the marks (R41, R65, R72, R74, R82, R91). -/
namespace Sys2Proof.Machine
open Sys2Proof

/-! ### Frames -/

/-- Only the floor tables, their marks and the note of a freeing change differ. -/
def State.floorStores (s t : State) : Prop := t = { s with
  segs := t.segs, pinch := t.pinch, drying := t.drying, freeing := t.freeing, dirty := t.dirty }

/-- Only slots, scrubbers, their marks, and notices differ. -/
def State.slotTalk (s t : State) : Prop := t = { s with
  slots := t.slots, scrubbers := t.scrubbers, staging := t.staging, dspFlags := t.dspFlags, dirty := t.dirty }

section Frames
variable {s t u : State}

theorem slotTalk_refl (s : State) : s.slotTalk s := rfl

theorem slotTalk_trans (a : s.slotTalk t) (b : t.slotTalk u) : s.slotTalk u := by
  unfold State.slotTalk at *
  rw [b, a]

theorem slotTalk_setSlot (s : State) (k : SlotIx) (r : Slot) : s.slotTalk (s.setSlot k r) := rfl

theorem slotTalk_markDirty (s : State) (r : MirrorRec) : s.slotTalk (s.markDirty r) := rfl

theorem slotTalk_ite {s a b : State} (c : Prop) [Decidable c] (ha : s.slotTalk a) (hb : s.slotTalk b) :
    s.slotTalk (if c then a else b) := by
  split
  · exact ha
  · exact hb

theorem slotTalk_notify (s : State) (kind : NoticeKind) (p : List Word) : s.slotTalk (s.notify kind p) := by
  have shape := notify_shape s kind p
  unfold State.slotTalk
  rw [shape]

theorem slotTalk_setLive (s : State) (x : Option ScrubIx) (j : Option FleetIx) : s.slotTalk (s.setLive x j) := by
  cases x <;> rfl

theorem floorStores_releaseWhere (s : State) (k : SlotIx) (pick : SegIx × Nat → Bool) :
    s.floorStores (s.releaseWhere k pick) := by
  have work := fw_releaseWhere (FloorWork.refl (calm := True) s) k pick
  have frame := eq_of_outside work.outside
  obtain ⟨queue, scrubbers, ops, -⟩ := work.still trivial
  obtain ⟨staging, flags⟩ := silent_releaseWhere s k pick
  rw [slots_releaseWhere, queue, scrubbers, ops, work.cells, work.zones, staging, flags] at frame
  exact frame

end Frames

/-! ### The return to IDLE (R74, R82) -/

section Ends
variable (s : State) (k : SlotIx) (res : Result) (i : Nat)

/-- The record that a slot returns to IDLE with: a fleet slot whose handover summary stops being shown is changed. -/
def Slot.retired (r : Slot) (k : SlotIx) (res : Result) (i : Nat) : Slot :=
  r.returned res i (r.changed || (r.state.authority && isFleet k))

theorem slotTalk_setChanged : s.slotTalk (s.setChanged k) := slotTalk_ite _ (slotTalk_setSlot s k _) (slotTalk_refl s)

theorem slotTalk_toIdle : s.slotTalk (s.toIdle k res i) := by
  have idle : s.slotTalk ((s.setSlot k ((s.slot k).toIdle res i)).markSlotWords k) :=
    slotTalk_trans (slotTalk_setSlot s k _) (slotTalk_trans (slotTalk_markDirty _ _) (slotTalk_markDirty _ _))
  exact slotTalk_ite _ (slotTalk_trans idle (slotTalk_setChanged _ k)) idle

theorem slot_toIdle (j : SlotIx) :
    (s.toIdle k res i).slot j = if k = j then (s.slot k).retired k res i else s.slot j := by
  unfold State.toIdle State.setChanged Slot.retired
  dsimp only
  cases authority : (s.slot k).state.authority
  · rw [if_neg Bool.false_ne_true, slot_markSlotWords, slot_setSlot, Bool.false_and, Bool.or_false]
    rfl
  · rw [if_pos rfl]
    cases fleet : isFleet k
    · rw [if_neg Bool.false_ne_true, slot_markSlotWords, slot_setSlot, Bool.and_false, Bool.or_false]
      rfl
    · rw [if_pos rfl, slot_setSlot, slot_markSlotWords, slot_markSlotWords, slot_setSlot, if_pos rfl, slot_setSlot]
      by_cases here : k = j
      · rw [if_pos here, if_pos here, Bool.and_true, Bool.or_true]; rfl
      · rw [if_neg here, if_neg here, if_neg here]

theorem dirty_toIdle : .slotStatus k ∈ (s.toIdle k res i).dirty ∧ .slotProgress k ∈ (s.toIdle k res i).dirty := by
  have marked (t : State) : MirrorRec.slotStatus k ∈ (t.markSlotWords k).dirty
      ∧ MirrorRec.slotProgress k ∈ (t.markSlotWords k).dirty :=
    ⟨(mem_dirty_markDirty _ _ _).mpr (.inr ((mem_dirty_markDirty _ _ _).mpr (.inl rfl))),
      (mem_dirty_markDirty _ _ _).mpr (.inl rfl)⟩
  have kept := mv_ite (s := (s.setSlot k ((s.slot k).toIdle res i)).markSlotWords k)
    ((s.slot k).state.authority = true) (fun _ => mv_setChanged (.refl _) k) (fun _ => .refl _)
  obtain ⟨status, progress⟩ := marked (s.setSlot k ((s.slot k).toIdle res i))
  exact ⟨kept.dirty status, kept.dirty progress⟩

theorem silent_trans {s t u : State} (a : s.silent t) (b : t.silent u) : s.silent u :=
  ⟨b.1.trans a.1, b.2.trans a.2⟩

theorem silent_toIdle : s.silent (s.toIdle k res i) := by
  have idle : s.silent ((s.setSlot k ((s.slot k).toIdle res i)).markSlotWords k) := ⟨rfl, rfl⟩
  exact silent_ite _ (silent_trans idle (silent_ite _ ⟨rfl, rfl⟩ ⟨rfl, rfl⟩)) idle

/-! ### The live slot (R91) -/

theorem scrub_setLive (x : Option ScrubIx) (j : Option FleetIx) (y : ScrubIx) :
    (s.setLive x j).scrub y = if x = some y then { s.scrub y with liveSlot := j } else s.scrub y := by
  cases x with
  | none => rfl
  | some x =>
    simp only [State.setLive, scrub_setScrub, Option.some.injEq]
    split
    case isTrue same => rw [same]
    case isFalse => rfl

theorem scrub_clearLiveOf (y : ScrubIx) : (s.clearLiveOf k).scrub y
    = if isFleet k = true ∧ (s.slot k).scrubber = some y then { s.scrub y with liveSlot := none } else s.scrub y := by
  unfold State.clearLiveOf
  by_cases fleet : isFleet k = true
  · rw [if_pos fleet, scrub_setLive]
    simp only [fleet, true_and]
  · rw [if_neg fleet, if_neg fun c => fleet c.1]

theorem slotTalk_clearLiveOf : s.slotTalk (s.clearLiveOf k) := by
  unfold State.clearLiveOf
  split
  · exact slotTalk_setLive s _ _
  · rfl

theorem slots_clearLiveOf : (s.clearLiveOf k).slots = s.slots := by
  unfold State.clearLiveOf State.setLive
  split
  · split <;> rfl
  · rfl

/-- What leaves the notice queue and the dispatch flags alone says nothing. -/
theorem notices_silent {s t u : State} {l : List (NoticeKind × List Word)} {flags : List DspFlag} (h : s.notices t l flags)
    (silent : t.silent u) : s.notices u l flags := by
  obtain ⟨staging, same⟩ := silent
  exact ⟨staging.trans h.1, fun f => (dsp_eq_of_flags same f).trans (h.2 f)⟩

theorem silent_clearLiveOf : s.silent (s.clearLiveOf k) := by
  unfold State.clearLiveOf State.setLive State.silent
  split
  · split <;> exact ⟨rfl, rfl⟩
  · exact ⟨rfl, rfl⟩

/-! ### The end of a slot (R72, R91) -/

theorem slotTalk_endSlot : s.slotTalk (s.endSlot k res) :=
  slotTalk_trans (slotTalk_toIdle s k res 0) (slotTalk_trans (slotTalk_notify _ _ _) (slotTalk_clearLiveOf _ k))

theorem slot_endSlot (j : SlotIx) :
    (s.endSlot k res).slot j = if k = j then (s.slot k).retired k res 0 else s.slot j := by
  have kept : (s.endSlot k res).slots = (s.toIdle k res 0).slots := by
    unfold State.endSlot State.notifySlot
    rw [slots_clearLiveOf, slots_notify]
  rw [← slot_toIdle]
  unfold State.slot
  rw [kept]

theorem scrub_endSlot (y : ScrubIx) : (s.endSlot k res).scrub y
    = if isFleet k = true ∧ (s.slot k).scrubber = some y then { s.scrub y with liveSlot := none } else s.scrub y := by
  have names : ((s.toIdle k res 0).slot k).scrubber = (s.slot k).scrubber := by rw [slot_toIdle, if_pos rfl]; rfl
  have scrub : (s.toIdle k res 0).scrub y = s.scrub y := by
    have kept := (fw_toIdle (FloorWork.refl (calm := True) s) k res 0).still trivial
    unfold State.scrub
    rw [kept.2.1]
  unfold State.endSlot State.notifySlot
  rw [scrub_clearLiveOf, slot_notify, names]
  have told : ((s.toIdle k res 0).notify .ended
      [pack4 (k.val + 1) res.code ((s.toIdle k res 0).slot k).revision.toNat 0]).scrub y = s.scrub y := by
    rw [← scrub]
    unfold State.scrub
    rw [scrubbers_notify]
  rw [told]

theorem notices_endSlot {s u : State} {l : List (NoticeKind × List Word)} {flags : List DspFlag}
    (h : s.notices u l flags) (outside : u.outside = s.outside) (k : SlotIx) (res : Result) :
    s.notices (u.endSlot k res)
      (l ++ [(.ended, [pack4 (k.val + 1) res.code (u.slot k).revision.toNat 0])]) flags := by
  have outside' : (u.toIdle k res 0).outside = s.outside := (outside_toIdle u k res 0).trans outside
  have revision : ((u.toIdle k res 0).slot k).revision = (u.slot k).revision := by rw [slot_toIdle, if_pos rfl]; rfl
  have told := notices_notify (notices_silent h (silent_toIdle u k res 0)) (congrArg Outside.tuning outside')
    (congrArg Outside.clock outside') (congrArg Outside.held outside') .ended
    [pack4 (k.val + 1) res.code (u.slot k).revision.toNat 0]
  rw [← revision] at told ⊢
  exact notices_silent told (silent_clearLiveOf _ k)

theorem dirty_endSlot : .slotStatus k ∈ (s.endSlot k res).dirty ∧ .slotProgress k ∈ (s.endSlot k res).dirty := by
  have kept : Moves Slot.KeepsRoute (s.toIdle k res 0) (s.endSlot k res) := mv_clearLiveOf (mv_notifySlot (.refl _) _ _ _ _) k
  obtain ⟨status, progress⟩ := dirty_toIdle s k res 0
  exact ⟨kept.dirty status, kept.dirty progress⟩

end Ends

end Sys2Proof.Machine
end

section
/-! SUPPORT. The two forms of a shortening: a GRANTED slot releases beyond its new end, a sent one marks pending (R42, R112
to R114). -/
namespace Sys2Proof.Machine
open Sys2Proof

/-! ### The pending marks (R42) -/

theorem seg_markPending (s : State) (k : SlotIx) (i : Nat) (h : SegIx) : (s.markPending k i).seg h
    = if (s.seg h).holder = some k ∧ ∃ e ∈ (s.slot k).entries, e.1 = h ∧ i < e.2 then { s.seg h with pendingRel := true }
      else s.seg h := by
  have general (l : List (SegIx × Nat)) (s : State) : (l.foldl (fun s e => s.pend e.1) s).seg h
      = if ∃ e ∈ l, e.1 = h then { s.seg h with pendingRel := true } else s.seg h := by
    induction l generalizing s with
    | nil => simp
    | cons e l ih =>
      have first : (s.pend e.1).seg h = if e.1 = h then { s.seg e.1 with pendingRel := true } else s.seg h :=
        seg_setSeg s e.1 h _
      rw [List.foldl_cons, ih]
      by_cases here : e.1 = h
      · subst here
        rw [if_pos rfl] at first
        simp [first]
      · rw [if_neg here] at first
        simp only [first, List.mem_cons, exists_eq_or_imp, here, false_or]
  unfold State.markPending
  rw [general]
  refine if_congr ?_ rfl rfl
  simp only [State.heldAbove, List.mem_filter, Bool.and_eq_true, decide_eq_true_eq, beq_iff_eq]
  constructor
  · rintro ⟨e, ⟨entry, past, held⟩, rfl⟩
    exact ⟨held, e, entry, rfl, past⟩
  · rintro ⟨held, e, entry, rfl, past⟩
    exact ⟨e, ⟨entry, past, held⟩, rfl⟩

/-- Only segment records and their marks differ. -/
def State.segStores (s t : State) : Prop := t = { s with segs := t.segs, dirty := t.dirty }

theorem segStores_markPending (s : State) (k : SlotIx) (i : Nat) : s.segStores (s.markPending k i) := by
  unfold State.markPending
  generalize s.heldAbove k i = l
  induction l generalizing s with
  | nil => rfl
  | cons e l ih =>
    have rest : (s.pend e.1).segStores (l.foldl (fun s e => s.pend e.1) (s.pend e.1)) := ih _
    unfold State.segStores at *
    rw [List.foldl_cons, rest]
    rfl

/-! ### The SHORTENED notice (R112) -/

theorem notices_shortenedNotice {s u : State} {l : List (NoticeKind × List Word)} {flags : List DspFlag}
    (h : s.notices u l flags) (outside : u.outside = s.outside) (k : SlotIx) : s.notices (u.shortenedNotice k)
      (l ++ [(.shortened, [pack4 (k.val + 1) (u.slot k).revision.toNat (u.slot k).endIx 0])]) flags :=
  notices_notify (u := u.markDirty (.slotStatus k)) (notices_silent h ⟨rfl, rfl⟩) (congrArg Outside.tuning outside)
    (congrArg Outside.clock outside) (congrArg Outside.held outside) .shortened _

theorem dirty_shortenedNotice (s : State) (k : SlotIx) : .slotStatus k ∈ (s.shortenedNotice k).dirty := by
  have kept : Moves Slot.KeepsRoute (s.markDirty (.slotStatus k)) (s.shortenedNotice k) := mv_notifySlot (.refl _) _ _ _ _
  exact kept.dirty ((mem_dirty_markDirty _ _ _).mpr (.inl rfl))

/-! ### The two forms (R113, R114) -/

section Forms
variable {s : State} {k : SlotIx} {e : Nat} (fleet : k.val < 20) (low : (s.slot k).effectiveEnd e < (s.slot k).endIx)
include fleet low

theorem shorten_granted (granted : (s.slot k).state = .granted) : s.shorten k e
    = (((s.releaseWhere k (fun x => decide ((s.slot k).effectiveEnd e < x.2))).setSlot k
      ((s.slot k).shortenedGranted ((s.slot k).effectiveEnd e))).shortenedNotice k) := by
  have applies : ¬ (!isFleet k || !(s.slot k).state.authority
      || decide ((s.slot k).endIx ≤ (s.slot k).effectiveEnd e)) = true := by
    simp [isFleet, fleet, granted, low, SlotState.authority]
  unfold State.shorten
  rw [if_neg applies, if_pos granted]
  dsimp only
  rw [slot_releaseWhere]

theorem shorten_sent (authority : (s.slot k).state.authority = true) (sent : (s.slot k).state ≠ .granted) :
    s.shorten k e = (((s.markPending k ((s.slot k).effectiveEnd e)).setSlot k
      ((s.slot k).shortenedSent ((s.slot k).effectiveEnd e) ((s.heldAbove k ((s.slot k).effectiveEnd e)).map (·.2))
        (s.after s.shortenTimeout))).shortenedNotice k) := by
  have applies : ¬ (!isFleet k || !(s.slot k).state.authority
      || decide ((s.slot k).endIx ≤ (s.slot k).effectiveEnd e)) = true := by
    simp [isFleet, fleet, authority, low]
  unfold State.shorten
  rw [if_neg applies, if_neg sent]
  dsimp only
  rw [slot_markPending]

/-- What a sent slot's shortening reaches: its record, pending marks, and the notice. -/
theorem shorten_sent_frame (authority : (s.slot k).state.authority = true) (sent : (s.slot k).state ≠ .granted) :
    s.shorten k e = { s with
      slots := (s.shorten k e).slots, segs := (s.shorten k e).segs, staging := (s.shorten k e).staging,
      dspFlags := (s.shorten k e).dspFlags, dirty := (s.shorten k e).dirty } := by
  have work := fw_shorten (FloorWork.refl (calm := True) s) k e
  have frame := eq_of_outside work.outside
  obtain ⟨queue, scrubbers, ops, -⟩ := work.still trivial
  have floor : (s.shorten k e).pinch = s.pinch ∧ (s.shorten k e).drying = s.drying
      ∧ (s.shorten k e).freeing = s.freeing := by
    have shape : s.markPending k ((s.slot k).effectiveEnd e) = _ := segStores_markPending s k _
    rw [shorten_sent fleet low authority sent, State.shortenedNotice, State.notifySlot, pinch_notify, drying_notify,
      freeing_notify]
    exact ⟨(congrArg State.pinch shape :), (congrArg State.drying shape :), (congrArg State.freeing shape :)⟩
  obtain ⟨pinch, drying, freeing⟩ := floor
  rw [pinch, drying, freeing, queue, scrubbers, ops, work.cells, work.zones] at frame
  exact frame

theorem seg_shorten_sent (authority : (s.slot k).state.authority = true) (sent : (s.slot k).state ≠ .granted)
    (h : SegIx) : (s.shorten k e).seg h
      = if (s.seg h).holder = some k ∧ ∃ f ∈ (s.slot k).entries, f.1 = h ∧ (s.slot k).effectiveEnd e < f.2 then
        { s.seg h with pendingRel := true } else s.seg h := by
  rw [shorten_sent fleet low authority sent, seg_shortenedNotice, seg_setSlot, seg_markPending]

theorem notices_shorten_sent (authority : (s.slot k).state.authority = true) (sent : (s.slot k).state ≠ .granted) :
    s.notices (s.shorten k e) [(.shortened, [pack4 (k.val + 1) (nextRevision (s.slot k).revision).toNat
      ((s.slot k).effectiveEnd e) 0])] [] := by
  have quiet : s.notices s [] [] := notices_start s s [] rfl fun f => by simp
  rw [shorten_sent fleet low authority sent]
  generalize record : (s.slot k).shortenedSent _ _ _ = r
  have stored : s.notices ((s.markPending k ((s.slot k).effectiveEnd e)).setSlot k r) [] [] :=
    notices_silent quiet (silent_trans (silent_markPending s k _) ⟨rfl, rfl⟩)
  have told := notices_shortenedNotice stored (outside_markPending s k _) k
  rw [slot_setSlot_same, ← record] at told
  rw [← record]
  exact told

theorem dirty_shorten (authority : (s.slot k).state.authority = true) : .slotStatus k ∈ (s.shorten k e).dirty := by
  by_cases granted : (s.slot k).state = .granted
  · rw [shorten_granted fleet low granted]
    exact dirty_shortenedNotice _ k
  · rw [shorten_sent fleet low authority granted]
    exact dirty_shortenedNotice _ k

end Forms

end Sys2Proof.Machine
end

section
/-! PROOFS. CANCEL of a slot that holds its route (O46; R41, R42, R47 to R49, R101, R114, R120, R121, R158). -/
namespace Sys2Proof.Machine
open Sys2Proof

section Cancels
variable {s : State} {k : SlotIx}

theorem exec_cancel (modes : s.mode = .recovery ∨ s.mode = .service) :
    exec (.cancel k 1) s = .next ((s.clearFreeing.cancelLive k).settle.answered tookOne) :=
  congrArg Host.Outcome.next (busAccess_cancel s k 1 (running_of_modes modes))

/-! ### What the cancel of each state does (R121, R158) -/

theorem cancelLive_granted (granted : (s.slot k).state = .granted) : s.cancelLive k = s.releaseAndEnd k .cancelled := by
  unfold State.cancelLive
  rw [granted]

theorem cancelLive_fleet_active (fleet : k.val < 20) (active : (s.slot k).state = .active)
    (ended : (s.slot k).endIx ≤ (s.slot k).progress) : s.cancelLive k = s.releaseAndEnd k .cancelled := by
  unfold State.cancelLive State.cancelSent
  rw [active]
  dsimp only
  rw [if_pos (by simpa [isFleet] using fleet), if_neg (by omega), if_pos active]

theorem cancelLive_sent (fleet : k.val < 20) (sent : (s.slot k).state.sent = true)
    (ahead : (s.slot k).progress < (s.slot k).endIx) : s.cancelLive k = s.shortenToProgress k := by
  have cut : s.cancelSent k = s.shortenToProgress k := if_pos ahead
  unfold State.cancelLive
  cases state : (s.slot k).state <;> rw [state] at sent
  case delivered | shortening => exact cut
  case active => exact (if_pos (by simpa [isFleet] using fleet)).trans cut
  case idle | waiting | granted => cases sent

theorem cancelLive_passenger (passenger : 20 ≤ k.val) (active : (s.slot k).state = .active) :
    s.cancelLive k = s.releasePassenger k := by
  unfold State.cancelLive
  rw [active]
  dsimp only
  rw [if_neg (by simpa [isFleet] using passenger)]

/-! ### Giving back and ending -/

/-- What a slot has given back does not depend on the slots, the scrubbers or the notices after it. -/
theorem gaveBack_talk {u v : State} (h : s.gaveBack u k) (talk : u.slotTalk v) : s.gaveBack v k := by
  have seg (g : SegIx) : v.seg g = u.seg g := by unfold State.seg; rw [talk]
  have entry (p : PinchIx) : v.pinchEntry p = u.pinchEntry p := by unfold State.pinchEntry; rw [talk]
  have drying : v.drying = u.drying := by rw [talk]
  unfold State.gaveBack
  simp only [seg, entry, drying]
  exact h

theorem frame_releaseAndEnd (res : Result) : s.releaseAndEnd k res = { s with
    slots := (s.releaseAndEnd k res).slots, segs := (s.releaseAndEnd k res).segs,
    pinch := (s.releaseAndEnd k res).pinch, drying := (s.releaseAndEnd k res).drying,
    scrubbers := (s.releaseAndEnd k res).scrubbers, staging := (s.releaseAndEnd k res).staging,
    dspFlags := (s.releaseAndEnd k res).dspFlags, dirty := (s.releaseAndEnd k res).dirty,
    freeing := (s.releaseAndEnd k res).freeing } := by
  have freed : s.floorStores (s.releaseAll k) := floorStores_releaseWhere s k _
  have ended : (s.releaseAll k).slotTalk (s.releaseAndEnd k res) := slotTalk_endSlot _ k res
  unfold State.floorStores State.slotTalk at *
  rw [ended, freed]

theorem slot_releaseAndEnd (res : Result) (j : SlotIx) :
    (s.releaseAndEnd k res).slot j = if k = j then (s.slot k).retired k res 0 else s.slot j := by
  unfold State.releaseAndEnd State.releaseAll
  rw [slot_endSlot, slot_releaseWhere, slot_releaseWhere]

theorem scrub_releaseAndEnd (res : Result) (x : ScrubIx) : (s.releaseAndEnd k res).scrub x
    = if isFleet k = true ∧ (s.slot k).scrubber = some x then { s.scrub x with liveSlot := none } else s.scrub x := by
  have scrub : (s.releaseAll k).scrub x = s.scrub x := by
    have freed : s.floorStores (s.releaseAll k) := floorStores_releaseWhere s k _
    unfold State.scrub
    rw [freed]
  unfold State.releaseAndEnd
  rw [scrub_endSlot, scrub]
  unfold State.releaseAll
  rw [slot_releaseWhere]

theorem notices_releaseAll {u : State} {l : List (NoticeKind × List Word)} {flags : List DspFlag}
    (h : s.notices u l flags) : s.notices (u.releaseAll k) l flags := notices_silent h (silent_releaseWhere u k _)

theorem notices_releaseAndEnd {u : State} {l : List (NoticeKind × List Word)} {flags : List DspFlag}
    (h : s.notices u l flags) (outside : u.outside = s.outside) (res : Result) : s.notices (u.releaseAndEnd k res)
      (l ++ [(.ended, [pack4 (k.val + 1) res.code (u.slot k).revision.toNat 0])]) flags := by
  have told := notices_endSlot (notices_releaseAll h) ((outside_releaseAll u k).trans outside) k res
  rwa [State.releaseAll, slot_releaseWhere] at told

/-- The groups of a given-back route, counted (R48, R49). -/
theorem pinchAfter_releaseAndEnd {res : Result} {p : PinchIx} {h : ScrubIx} {g : SegIx} (law : s.pinchLaw)
    (fleet : k.val < 20) (route : g ∈ (s.slot k).route) (held : (s.seg g).holder = some k)
    (group : (s.fixed g).pinch = some p) (holder : (s.pinchEntry p).holder = some h) :
    pinchAfter (s.releaseAndEnd k res) p h ((s.releaseAndEnd k res).pinchEntry p) := by
  have ended : (s.releaseAll k).slotTalk (s.releaseAndEnd k res) := slotTalk_endSlot _ k res
  have entry : (s.releaseAndEnd k res).pinchEntry p = (s.releaseAll k).pinchEntry p := by
    unfold State.pinchEntry; rw [ended]
  have seg (f : SegIx) : (s.releaseAndEnd k res).seg f = (s.releaseAll k).seg f := by unfold State.seg; rw [ended]
  rw [entry]
  refine pinchAfter_congr ⟨by rw [ended], fun f _ => by rw [seg], fun f _ j _ => by rw [seg], fun f _ j _ _ => ?_⟩
    (pinchAfter_releaseAll law fleet route held group holder)
  have kept := slot_endSlot (s.releaseAll k) k res j
  rw [State.releaseAndEnd, kept]
  split
  case isTrue same => rw [← same]; rfl
  case isFalse => rfl

/-! ### A passenger slot (R158) -/

theorem pinch_releaseAll_passenger (passenger : isFleet k = false) : (s.releaseAll k).pinch = s.pinch := by
  rw [State.releaseAll, releaseWhere_eq]
  exact pinch_releaseEach_passenger passenger

/-- The parts of a passenger slot's release. -/
theorem releasePassenger_eq : s.releasePassenger k = (((s.releaseAll k).toIdle k .released 0).notify .passengerReleased
    [pack4 (k.val + 1) (s.slot k).revision.toNat 0 0]) := by
  have revision : (((s.releaseAll k).toIdle k .released 0).slot k).revision = (s.slot k).revision := by
    rw [slot_toIdle, if_pos rfl, State.releaseAll, slot_releaseWhere]
    rfl
  unfold State.releasePassenger State.notifySlot
  dsimp only
  rw [revision]

theorem scrubbers_toIdle (res : Result) (i : Nat) : (s.toIdle k res i).scrubbers = s.scrubbers :=
  ((fw_toIdle (FloorWork.refl (calm := True) s) k res i).still trivial).2.1

theorem frame_releasePassenger (passenger : isFleet k = false) : s.releasePassenger k = { s with
    slots := (s.releasePassenger k).slots, segs := (s.releasePassenger k).segs,
    drying := (s.releasePassenger k).drying, staging := (s.releasePassenger k).staging,
    dspFlags := (s.releasePassenger k).dspFlags, dirty := (s.releasePassenger k).dirty,
    freeing := (s.releasePassenger k).freeing } := by
  have freed : s.floorStores (s.releaseAll k) := floorStores_releaseWhere s k _
  have told : (s.releaseAll k).slotTalk (s.releasePassenger k) :=
    releasePassenger_eq (s := s) (k := k) ▸ slotTalk_trans (slotTalk_toIdle _ k _ 0) (slotTalk_notify _ _ _)
  have scrubbers : (s.releasePassenger k).scrubbers = s.scrubbers := by
    rw [releasePassenger_eq, scrubbers_notify, scrubbers_toIdle, freed]
  have pinch := pinch_releaseAll_passenger (s := s) passenger
  unfold State.floorStores State.slotTalk at *
  rw [pinch] at freed
  rw [scrubbers] at told
  rw [told, freed]

end Cancels

/-- Settles O46. -/
theorem cancelWithAuthority : Obligations.CancelWithAuthority := by
  intro s k modes once
  have quiet : s.notices s.clearFreeing [] [] := notices_start s _ [] rfl fun f => by simp [State.dsp]
  refine ⟨fun fleet holds => ?_, fun fleet sent ahead => ?_, fun passenger active => ?_⟩
  · have isFleet : isFleet k = true := by simpa [isFleet] using fleet
    have ran := exec_cancel (k := k) modes
    have ends : s.clearFreeing.cancelLive k = s.clearFreeing.releaseAndEnd k .cancelled := by
      obtain granted | ⟨active, ended⟩ := holds
      · exact cancelLive_granted granted
      · exact cancelLive_fleet_active fleet active ended
    have authority : (s.slot k).state.authority = true := by
      obtain granted | ⟨active, -⟩ := holds
      · rw [granted]; rfl
      · rw [active]; rfl
    obtain ⟨status, progress⟩ := dirty_endSlot (s.clearFreeing.releaseAll k) k .cancelled
    rw [ends] at ran
    refine ⟨_, ran, frame_releaseAndEnd (s := s.clearFreeing) _, ⟨?_, fun j ne => ?_⟩, ?_,
      fun law p h g route held group holder => ?_, fun x => ?_, ?_, status, progress⟩
    · rw [slot_releaseAndEnd, if_pos rfl, Slot.retired]
      have shown : ((s.clearFreeing.slot k).changed || ((s.clearFreeing.slot k).state.authority && Machine.isFleet k))
          = true := by
        rw [show (s.clearFreeing.slot k).state.authority = true from authority, isFleet]
        simp
      rw [shown]
      rfl
    · rw [slot_releaseAndEnd, if_neg ne.symm]
      rfl
    · exact gaveBack_talk (s := s) (gaveBack_releaseAll (s := s.clearFreeing) once) (slotTalk_endSlot _ k _)
    · exact pinchAfter_releaseAndEnd (s := s.clearFreeing) law fleet route held group holder
    · rw [scrub_releaseAndEnd]
      simp only [isFleet, true_and]
      rfl
    · exact notices_releaseAndEnd quiet rfl .cancelled
  · have authority : (s.slot k).state.authority = true := authority_of_sent sent
    have delivered : (s.slot k).state ≠ .granted := fun granted => by rw [granted] at sent; cases sent
    have least : (s.slot k).effectiveEnd (s.slot k).progress = (s.slot k).progress := Nat.max_self _
    have low : (s.slot k).effectiveEnd (s.slot k).progress < (s.slot k).endIx := by rw [least]; exact ahead
    have toProgress : s.clearFreeing.shortenToProgress k = s.clearFreeing.shorten k (s.slot k).progress := rfl
    have frame := shorten_sent_frame (s := s.clearFreeing) fleet low authority delivered
    have calm : (s.clearFreeing.shorten k (s.slot k).progress).freeing = false := by rw [frame]; rfl
    have cut : s.cut (s.clearFreeing.shorten k (s.slot k).progress) k ((s.slot k).effectiveEnd (s.slot k).progress) :=
      cut_shortenedSlot (s := s.clearFreeing) fleet authority low (slot_shorten s.clearFreeing k _)
    have told : s.notices (s.clearFreeing.shorten k (s.slot k).progress) [(.shortened, [pack4 (k.val + 1)
        (nextRevision (s.slot k).revision).toNat ((s.slot k).effectiveEnd (s.slot k).progress) 0])] [] :=
      notices_shorten_sent (s := s.clearFreeing) fleet low authority delivered
    have seg (h : SegIx) : (s.clearFreeing.shorten k (s.slot k).progress).seg h
        = if (s.seg h).holder = some k ∧ ∃ f ∈ (s.slot k).entries, f.1 = h
            ∧ (s.slot k).effectiveEnd (s.slot k).progress < f.2 then { s.seg h with pendingRel := true } else s.seg h :=
      seg_shorten_sent (s := s.clearFreeing) fleet low authority delivered h
    have ran := exec_cancel (k := k) modes
    rw [cancelLive_sent (s := s.clearFreeing) fleet sent ahead, toProgress, settle_eq_self calm] at ran
    rw [least] at cut told seg
    refine ⟨_, ran, congrArg (State.answered tookOne) frame, cut, fun j ne => ?_, fun g i entry past held => ?_,
      fun g behind => ?_, ?_, dirty_shorten (s := s.clearFreeing) fleet low authority⟩
    · exact (alike_shorten s.clearFreeing k j ne _).slot
    · exact (seg g).trans (if_pos ⟨held, (g, i), entry, rfl, past⟩)
    · refine (seg g).trans (if_neg ?_)
      rintro ⟨held, ⟨f, i⟩, entry, rfl, past⟩
      exact absurd (behind i entry held) (not_le.mpr past)
    · have revision : ((s.clearFreeing.shorten k (s.slot k).progress).slot k).revision
          = nextRevision (s.slot k).revision := by rw [cut.1]
      change s.notices _ [(_, [pack4 _ ((s.clearFreeing.shorten k (s.slot k).progress).slot k).revision.toNat _ _])] []
      rw [revision]
      exact told
  · have isPassenger : isFleet k = false := by simpa [isFleet] using passenger
    have ran := exec_cancel (k := k) modes
    have talk : (s.clearFreeing.releaseAll k).slotTalk (s.clearFreeing.releasePassenger k) :=
      releasePassenger_eq (s := s.clearFreeing) (k := k) ▸ slotTalk_trans (slotTalk_toIdle _ k _ 0) (slotTalk_notify _ _ _)
    have slot (j : SlotIx) : (s.clearFreeing.releasePassenger k).slot j
        = if k = j then (s.slot k).returned .released 0 (s.slot k).changed else s.slot j := by
      rw [releasePassenger_eq, slot_notify, slot_toIdle, State.releaseAll, slot_releaseWhere, slot_releaseWhere,
        Slot.retired, isPassenger, Bool.and_false, Bool.or_false]
      rfl
    have outside : ((s.clearFreeing.releaseAll k).toIdle k .released 0).outside = s.outside :=
      (outside_toIdle _ k _ 0).trans (outside_releaseAll _ k)
    have told := notices_notify (notices_silent (notices_releaseAll quiet) (silent_toIdle _ k .released 0))
      (congrArg Outside.tuning outside) (congrArg Outside.clock outside) (congrArg Outside.held outside)
      .passengerReleased [pack4 (k.val + 1) (s.slot k).revision.toNat 0 0]
    have kept : Moves Slot.KeepsRoute ((s.clearFreeing.releaseAll k).toIdle k .released 0)
      (s.clearFreeing.releasePassenger k) := mv_notifySlot (.refl _) _ _ _ _
    obtain ⟨status, progress⟩ := dirty_toIdle (s.clearFreeing.releaseAll k) k .released 0
    rw [cancelLive_passenger (s := s.clearFreeing) passenger active] at ran
    refine ⟨_, ran, frame_releasePassenger (s := s.clearFreeing) isPassenger, ⟨?_, fun j ne => ?_⟩, ?_, ?_,
      kept.dirty status, kept.dirty progress⟩
    · rw [slot, if_pos rfl]
    · rw [slot, if_neg ne.symm]
    · exact gaveBack_talk (s := s) (gaveBack_releaseAll (s := s.clearFreeing) once) talk
    · rw [releasePassenger_eq]
      exact told

end Sys2Proof.Machine
end

section
/-! SUPPORT. What taking hold of a route leaves: the segments, the drying list and the pinch table for a fleet slot, the
segments and their claims for a passenger slot (R40, R46 to R48). -/
namespace Sys2Proof.Machine
open Sys2Proof

/-! ### Frames -/

section Frames
variable {s t u : State}

theorem floorStores_refl (s : State) : s.floorStores s := rfl

theorem floorStores_trans (a : s.floorStores t) (b : t.floorStores u) : s.floorStores u := by
  unfold State.floorStores at *
  rw [b, a]

theorem floorStores_setSeg (s : State) (g : SegIx) (r : Seg) : s.floorStores (s.setSeg g r) := rfl

theorem floorStores_refreshPinchOf (s : State) (g : SegIx) (gain : Option ScrubIx) :
    s.floorStores (s.refreshPinchOf g gain) := by
  obtain ⟨l, f, e⟩ := refreshPinchOf_eq s g gain
  rw [e]
  rfl

theorem floorStores_foldl {α : Type} (f : State → α → State) (hf : ∀ (t : State) a, t.floorStores (f t a)) (l : List α)
    (s : State) : s.floorStores (l.foldl f s) := by
  induction l generalizing s with
  | nil => exact floorStores_refl s
  | cons a l ih => exact floorStores_trans (hf s a) (ih _)

theorem floorStores_ite {a b : State} (c : Prop) [Decidable c] (ha : s.floorStores a) (hb : s.floorStores b) :
    s.floorStores (if c then a else b) := by
  split
  · exact ha
  · exact hb

theorem floorStores_suspendWet (s : State) (g : SegIx) : s.floorStores (s.suspendWet g) := by
  unfold State.suspendWet
  split
  · exact floorStores_refl s
  · rfl

theorem floorStores_takeFleet (s : State) (k : SlotIx) (e : SegIx × Nat) : s.floorStores (s.takeFleet k e) := by
  have held : s.floorStores
      ((s.setSeg e.1 { s.seg e.1 with holder := some k }).refreshPinchOf e.1 (s.slot k).scrubber) :=
    floorStores_trans (floorStores_setSeg s _ _) (floorStores_refreshPinchOf _ _ _)
  exact floorStores_ite _ (floorStores_trans held (floorStores_suspendWet _ _)) held

/-- Only segment records, their marks and the note of a freeing change differ. -/
def State.claimStores (s t : State) : Prop := t = { s with segs := t.segs, freeing := t.freeing, dirty := t.dirty }

theorem claimStores_foldl {α : Type} (f : State → α → State) (hf : ∀ (t : State) a, t.claimStores (f t a)) (l : List α)
    (s : State) : s.claimStores (l.foldl f s) := by
  induction l generalizing s with
  | nil => rfl
  | cons a l ih =>
    have first := hf s a
    have rest := ih (f s a)
    unfold State.claimStores at *
    rw [List.foldl_cons, rest, first]

theorem claimStores_takePassenger (s : State) (k : SlotIx) (g : SegIx) : s.claimStores (s.takePassenger k g) := by
  unfold State.takePassenger State.removeClaim
  split <;> rfl

theorem claimStores_takeHold (s : State) (k : SlotIx) (passenger : isFleet k = false) : s.claimStores (s.takeHold k) := by
  unfold State.takeHold
  rw [passenger]
  exact claimStores_foldl _ (fun t g => claimStores_takePassenger t k g) _ s

theorem floorStores_takeHold (s : State) (k : SlotIx) (fleet : isFleet k = true) : s.floorStores (s.takeHold k) := by
  unfold State.takeHold
  rw [if_pos fleet]
  exact floorStores_foldl _ (fun t e => floorStores_takeFleet t k e) _ s

end Frames

/-! ### One segment, for a fleet slot (R40) -/

section TakeFleet
variable (s : State) (k : SlotIx) (g : SegIx)

/-- The segment is the slot's, and its pinch group up to date. -/
def State.claimFleet : State := (s.setSeg g { s.seg g with holder := some k }).refreshPinchOf g (s.slot k).scrubber

theorem seg_claimFleet (h : SegIx) :
    (s.claimFleet k g).seg h = if g = h then { s.seg g with holder := some k } else s.seg h := by
  rw [State.claimFleet, seg_refreshPinchOf]
  exact seg_setSeg s g h _

theorem drying_claimFleet : (s.claimFleet k g).drying = s.drying := by
  obtain ⟨l, f, e⟩ := refreshPinchOf_eq (s.setSeg g { s.seg g with holder := some k }) g (s.slot k).scrubber
  rw [State.claimFleet, e]
  rfl

theorem takeFleet_first : s.takeFleet k (g, 1) = (s.claimFleet k g).suspendWet g := rfl

theorem takeFleet_later {i : Nat} (later : i ≠ 1) : s.takeFleet k (g, i) = s.claimFleet k g := if_neg later

theorem suspended_dry {r : Seg} (dry : r.wet = none) :
    { r with wet := none, carried := r.carried || r.wet.isSome } = r := by
  obtain ⟨holder, occupant, wet, carried, closure, claims, pending⟩ := r
  obtain rfl : wet = none := dry
  simp

theorem seg_suspendWet (h : SegIx) : (s.suspendWet g).seg h
    = if g = h then { s.seg g with wet := none, carried := (s.seg g).carried || (s.seg g).wet.isSome } else s.seg h := by
  unfold State.suspendWet
  split
  case h_1 dry =>
    split
    case isTrue here =>
      subst here
      exact (suspended_dry dry).symm
    case isFalse => rfl
  case h_2 w wet =>
    have stored := seg_setSeg (s.dropEntry g) g h { (s.dropEntry g).seg g with wet := none, carried := true }
    refine stored.trans ?_
    rw [wet]
    simp only [Option.isSome_some, Bool.or_true]
    rfl

theorem mem_drying_suspendWet (d : DryEntry) :
    d ∈ (s.suspendWet g).drying ↔ d ∈ s.drying ∧ ¬ (g = d.seg ∧ (s.seg d.seg).wet ≠ none) := by
  unfold State.suspendWet
  split
  case h_1 dry =>
    refine (and_iff_left ?_).symm
    rintro ⟨rfl, wet⟩
    exact wet dry
  case h_2 w wet =>
    have dropped : d ∈ (s.dropEntry g).drying ↔ d ∈ s.drying ∧ d.seg ≠ g := by simp [State.dropEntry, State.setDrying]
    refine dropped.trans (and_congr_right fun _ => ?_)
    constructor
    · exact fun other c => other c.1.symm
    · intro c same
      rw [← same] at wet c
      exact c ⟨rfl, by rw [wet]; simp⟩

theorem freeing_suspendWet (wet : (s.seg g).wet ≠ none) : (s.suspendWet g).freeing = true := by
  unfold State.suspendWet
  split
  case h_1 dry => exact absurd dry wet
  case h_2 => rfl

end TakeFleet

/-! ### The rest of the route -/

theorem freeing_refreshPinchOf {s : State} (noted : s.freeing = true) (g : SegIx) (gain : Option ScrubIx) :
    (s.refreshPinchOf g gain).freeing = true := by
  unfold State.refreshPinchOf
  split
  case h_1 => exact noted
  case h_2 =>
    unfold State.refreshPinch
    split
    · split
      · exact noted
      · exact noted
    · split
      · exact noted
      · split <;> rfl

section Rest
variable {k : SlotIx} {l : List (SegIx × Nat)} (later : ∀ e ∈ l, e.2 ≠ 1)
include later

theorem takeAll_later (s : State) (h : SegIx) : (l.foldl (fun s e => s.takeFleet k e) s).drying = s.drying
    ∧ (s.freeing = true → (l.foldl (fun s e => s.takeFleet k e) s).freeing = true)
    ∧ (l.foldl (fun s e => s.takeFleet k e) s).seg h
      = if h ∈ l.map Prod.fst then { s.seg h with holder := some k } else s.seg h := by
  induction l generalizing s with
  | nil => exact ⟨rfl, id, by simp⟩
  | cons e l ih =>
    obtain ⟨g, i⟩ := e
    obtain ⟨drying, freeing, seg⟩ := ih (fun e mem => later e (List.mem_cons_of_mem _ mem)) (s.takeFleet k (g, i))
    have first : s.takeFleet k (g, i) = s.claimFleet k g := takeFleet_later s k g (later _ List.mem_cons_self)
    rw [first] at drying freeing seg
    rw [List.foldl_cons, first]
    refine ⟨drying.trans (drying_claimFleet s k g), fun noted => freeing (freeing_refreshPinchOf (s := s.setSeg g _) noted g _), ?_⟩
    rw [seg, seg_claimFleet]
    by_cases here : g = h
    · subst here; simp
    · have apart : h ≠ g := fun same => here same.symm
      rw [if_neg here]
      exact if_congr (by simp [apart]) rfl rfl

end Rest

/-! ### The pinch groups of the route (R47, R48) -/

section Groups
variable {k : SlotIx} {x : ScrubIx} {p : PinchIx}

theorem sameGroup_takeFleet {s : State} (e : SegIx × Nat) (away : (s.fixed e.1).pinch ≠ some p) :
    SameGroup s (s.takeFleet k e) p ∧ (s.takeFleet k e).pinchEntry p = s.pinchEntry p := by
  have kept {g : SegIx} (group : inGroup s p g) : ((s.takeFleet k e).seg g).grip = (s.seg g).grip := by
    rw [grip_takeFleet, if_neg]
    rintro rfl
    exact away group.2
  refine ⟨⟨site_takeFleet s k e, fun g group => (grip_eq (kept group)).2.2,
    fun g group j _ => by rw [(grip_eq (kept group)).1], fun _ _ j _ _ => by unfold State.slot; rw [slots_takeFleet]⟩, ?_⟩
  have entry : (s.takeFleet k e).pinchEntry p = (s.claimFleet k e.1).pinchEntry p := by
    unfold State.pinchEntry
    rw [takeFleet_same]
    rfl
  rw [entry]
  exact pinchEntry_refreshPinchOf_other (s.setSeg e.1 _) e.1 p _ away

theorem sameGroup_trans {s t u : State} (a : SameGroup s t p) (b : SameGroup t u p) : SameGroup s u p := by
  have group {g : SegIx} (here : inGroup s p g) : inGroup t p g := (inGroup_congr a.site p g).mpr here
  refine ⟨b.site.trans a.site, fun g here => (b.occupant g (group here)).trans (a.occupant g here),
    fun g here j fleet => (b.holder g (group here) j fleet).trans (a.holder g here j fleet), fun g here j fleet held => ?_⟩
  exact (b.names g (group here) j fleet ((a.holder g here j fleet).mpr held)).trans (a.names g here j fleet held)

theorem sameGroup_takeAll {l : List (SegIx × Nat)} {s : State} (away : ∀ e ∈ l, (s.fixed e.1).pinch ≠ some p) :
    SameGroup s (l.foldl (fun s e => s.takeFleet k e) s) p
      ∧ (l.foldl (fun s e => s.takeFleet k e) s).pinchEntry p = s.pinchEntry p := by
  induction l generalizing s with
  | nil => exact ⟨⟨rfl, fun _ _ => rfl, fun _ _ _ _ => Iff.rfl, fun _ _ _ _ _ => rfl⟩, rfl⟩
  | cons e l ih =>
    obtain ⟨first, entry⟩ := sameGroup_takeFleet (k := k) e (away e List.mem_cons_self)
    obtain ⟨rest, entry'⟩ := ih (s := s.takeFleet k e) fun f mem => by
      rw [fixed_congr first.site]
      exact away f (List.mem_cons_of_mem _ mem)
    exact ⟨sameGroup_trans first rest, entry'.trans entry⟩

/-- A segment taken by the slot of a scrubber to which its group is open has the group counted for that scrubber. -/
theorem pinchEntry_takeFleet {s : State} {e : SegIx × Nat} (fleet : k.val < 20) (named : (s.slot k).scrubber = some x)
    (group : (s.fixed e.1).pinch = some p)
    (free : (s.pinchEntry p).holder = none ∨ (s.pinchEntry p).holder = some x) :
    (s.takeFleet k e).pinchEntry p = { holder := some x, count := pinchUse (s.takeFleet k e) p x } := by
  have taken : SameGroup (s.setSeg e.1 { s.seg e.1 with holder := some k }) (s.takeFleet k e) p := by
    have grip (g : SegIx) : ((s.takeFleet k e).seg g).grip
        = ((s.setSeg e.1 { s.seg e.1 with holder := some k }).seg g).grip := by
      rw [grip_takeFleet, seg_setSeg]
      by_cases here : e.1 = g
      · subst here; rw [if_pos rfl, if_pos rfl]; rfl
      · rw [if_neg here, if_neg fun c => here c.symm]
    refine ⟨site_takeFleet s k e, fun g _ => (grip_eq (grip g)).2.2, fun g _ j _ => by rw [(grip_eq (grip g)).1],
      fun _ _ j _ _ => ?_⟩
    unfold State.slot
    rw [slots_takeFleet]
    rfl
  have used : 1 ≤ pinchUse (s.setSeg e.1 { s.seg e.1 with holder := some k }) p x := by
    refine (pinchUse_pos _ p x).mpr ⟨e.1, inGroup_of_pinch group, .inr ⟨k, ?_, fleet, named⟩⟩
    rw [seg_setSeg_same]
  have entry : (s.takeFleet k e).pinchEntry p
      = ((s.setSeg e.1 { s.seg e.1 with holder := some k }).refreshPinch p (some x)).pinchEntry p := by
    have refreshed : s.claimFleet k e.1
        = (s.setSeg e.1 { s.seg e.1 with holder := some k }).refreshPinch p (some x) := by
      have group' : ((s.setSeg e.1 { s.seg e.1 with holder := some k }).fixed e.1).pinch = some p := group
      unfold State.claimFleet State.refreshPinchOf
      rw [named, group']
    unfold State.pinchEntry
    rw [takeFleet_same, ← refreshed]
    rfl
  have free' : ((s.setSeg e.1 { s.seg e.1 with holder := some k }).pinchEntry p).holder = none
      ∨ ((s.setSeg e.1 { s.seg e.1 with holder := some k }).pinchEntry p).holder = some x := free
  rw [entry, pinchUse_congr taken]
  unfold State.refreshPinch
  obtain nobody | own := free'
  · rw [nobody]
    dsimp only
    rw [pinchEntry_setPinch_same, pinchCount_eq]
  · rw [own]
    dsimp only
    rw [pinchCount_eq, if_pos (Nat.one_le_iff_ne_zero.mp used), pinchEntry_setPinch_same]

/-- The last segment that the slot takes of a group's has the group counted. -/
theorem pinchEntry_takeAll {l : List (SegIx × Nat)} {s : State} (fleet : k.val < 20)
    (named : (s.slot k).scrubber = some x) (free : s.pinchOpen x (l.map Prod.fst))
    (touches : ∃ e ∈ l, (s.fixed e.1).pinch = some p) : (l.foldl (fun s e => s.takeFleet k e) s).pinchEntry p
      = { holder := some x, count := pinchUse (l.foldl (fun s e => s.takeFleet k e) s) p x } := by
  induction l generalizing s with
  | nil => obtain ⟨e, mem, -⟩ := touches; cases mem
  | cons e l ih =>
    rw [List.foldl_cons]
    have site := site_takeFleet s k e
    have named' : ((s.takeFleet k e).slot k).scrubber = some x := by
      unfold State.slot; rw [slots_takeFleet]; exact named
    by_cases later : ∃ f ∈ l, ((s.takeFleet k e).fixed f.1).pinch = some p
    · exact ih named' (pinchOpen_takeFleet s k e x _ fleet named free) later
    · have group : (s.fixed e.1).pinch = some p := by
        obtain ⟨f, mem, group⟩ := touches
        obtain rfl | mem := List.mem_cons.mp mem
        · exact group
        · exact absurd ⟨f, mem, by rw [fixed_congr site]; exact group⟩ later
      obtain ⟨same, entry⟩ := sameGroup_takeAll (k := k) (l := l) (s := s.takeFleet k e) (p := p)
        fun f mem group => later ⟨f, mem, group⟩
      rw [entry, pinchUse_congr same]
      exact pinchEntry_takeFleet fleet named group (free e.1 List.mem_cons_self p group)

end Groups

end Sys2Proof.Machine
end

section
/-! SUPPORT. Grants and activations: the floor that the slot takes, its record, its scrubber's live slot, the queue, the
notice (R40, R46 to R48, R65, R67). -/
namespace Sys2Proof.Machine
open Sys2Proof

/-! ### The route that a fleet slot takes (R40) -/

/-- An available fleet route is dry past its first segment. -/
theorem dry_of_available {s : State} {k : SlotIx} {x : ScrubIx} (fleet : k.val < 20)
    (named : (s.slot k).scrubber = some x) (available : s.availability k = none) {g : SegIx} {i : Nat}
    (entry : (g, i) ∈ (s.slot k).entries) (later : i ≠ 1) : (s.seg g).wet = none := by
  rw [availability_fleet (by simpa [isFleet] using fleet) named] at available
  exact dry_of_fleetTest s x _ i g (firstFailure_none _ _ available (g, i) entry) later

section First
variable (s : State) (k : SlotIx) (f : SegIx)

theorem seg_takeFirst (h : SegIx) : (s.takeFleet k (f, 1)).seg h = if f = h then { s.seg f with
    holder := some k, wet := none, carried := (s.seg f).carried || (s.seg f).wet.isSome } else s.seg h := by
  rw [takeFleet_first, seg_suspendWet, seg_claimFleet, seg_claimFleet, if_pos rfl]
  by_cases here : f = h
  · rw [if_pos here, if_pos here]
  · rw [if_neg here, if_neg here, if_neg here]

theorem wet_claimFleet (h : SegIx) : ((s.claimFleet k f).seg h).wet = (s.seg h).wet := by
  rw [seg_claimFleet]
  split
  case isTrue here => rw [here]
  case isFalse => rfl

theorem mem_drying_takeFirst (d : DryEntry) :
    d ∈ (s.takeFleet k (f, 1)).drying ↔ d ∈ s.drying ∧ ¬ (f = d.seg ∧ (s.seg d.seg).wet ≠ none) := by
  rw [takeFleet_first, mem_drying_suspendWet, drying_claimFleet, wet_claimFleet]

theorem freeing_takeFirst (wet : (s.seg f).wet ≠ none) : (s.takeFleet k (f, 1)).freeing = true := by
  rw [takeFleet_first]
  refine freeing_suspendWet _ f ?_
  rwa [wet_claimFleet]

end First

/-- The floor that a fleet slot takes, route index by route index: what lies past the first segment is dry. -/
theorem takeAll_floor (s : State) (k : SlotIx) (route : List SegIx)
    (dry : ∀ g i, (g, i) ∈ route.zipIdx 1 → i ≠ 1 → (s.seg g).wet = none) {t : State}
    (taken : t = (route.zipIdx 1).foldl (fun s e => s.takeFleet k e) s) :
    (∀ g, g ∉ route → t.seg g = s.seg g)
      ∧ (∀ g i, (g, i) ∈ route.zipIdx 1 → t.seg g = { s.seg g with
        holder := some k, wet := none, carried := (s.seg g).carried || (decide (i = 1) && (s.seg g).wet.isSome) })
      ∧ (∀ d, d ∈ t.drying ↔ d ∈ s.drying ∧ ¬ (route.head? = some d.seg ∧ (s.seg d.seg).wet ≠ none))
      ∧ ((∃ g, route.head? = some g ∧ (s.seg g).wet ≠ none) → t.freeing = true) := by
  subst taken
  cases route with
  | nil => simp
  | cons f l =>
    have rest (e : SegIx × Nat) (mem : e ∈ l.zipIdx 2) : e.2 ≠ 1 := by
      have low := List.le_snd_of_mem_zipIdx mem
      omega
    have all (h : SegIx) := takeAll_later (k := k) rest (s.takeFleet k (f, 1)) h
    rw [List.zipIdx_cons, List.foldl_cons]
    generalize (l.zipIdx (1 + 1)).foldl (fun s e => s.takeFleet k e) (s.takeFleet k (f, 1)) = t at all ⊢
    obtain ⟨drying, freeing, -⟩ := all f
    have seg (h : SegIx) : t.seg h = if h ∈ l then { (s.takeFleet k (f, 1)).seg h with holder := some k }
        else (s.takeFleet k (f, 1)).seg h := by
      have read := (all h).2.2
      rwa [List.zipIdx_map_fst] at read
    refine ⟨fun g off => ?_, fun g i entry => ?_, fun d => ?_, ?_⟩
    · obtain ⟨ne, off⟩ := not_or.mp (mt List.mem_cons.mpr off)
      rw [seg, if_neg off, seg_takeFirst, if_neg (Ne.symm ne)]
    · obtain first | late := List.mem_cons.mp entry
      · obtain ⟨rfl, rfl⟩ := Prod.mk.inj first
        rw [seg, seg_takeFirst, if_pos rfl, ite_self]
        simp
      · have later : i ≠ 1 := rest (g, i) late
        have parched : (s.seg g).wet = none := dry g i (List.mem_cons_of_mem _ late) later
        rw [seg, if_pos (List.fst_mem_of_mem_zipIdx late), seg_takeFirst]
        by_cases here : f = g
        · rw [if_pos here, here]
          simp [parched]
        · rw [if_neg here]
          simp [parched]
    · rw [drying, mem_drying_takeFirst, List.head?_cons, Option.some.injEq]
    · rintro ⟨g, head, wet⟩
      obtain rfl : f = g := by simpa using head
      exact freeing (freeing_takeFirst s k f wet)

theorem tookFloor_takeHold {s : State} {k : SlotIx} {x : ScrubIx} (fleet : k.val < 20)
    (named : (s.slot k).scrubber = some x) (available : s.availability k = none) :
    s.tookFloor (s.takeHold k) k x (s.slot k).route := by
  have taken : s.takeHold k = (s.slot k).entries.foldl (fun s e => s.takeFleet k e) s :=
    if_pos (by simpa [isFleet] using fleet)
  have free : s.pinchOpen x ((s.slot k).entries.map Prod.fst) := by
    rw [map_fst_entries]
    exact (available_route (fun _ => by rw [named]; rfl) available).2 fleet x named
  obtain ⟨off, on, drying, freeing⟩ := takeAll_floor s k (s.slot k).route
    (fun g i entry later => dry_of_available fleet named available entry later) taken
  refine ⟨off, on, drying, freeing, fun p ⟨g, route, group⟩ => ?_, fun p away => ?_⟩
  · obtain ⟨e, entry, rfl⟩ := exists_entry route
    rw [taken]
    exact pinchEntry_takeAll fleet named free ⟨e, entry, group⟩
  · rw [taken]
    exact (sameGroup_takeAll fun e entry => away e.1 (fst_mem_of_entries entry)).2

end Sys2Proof.Machine
end

section
/-! SUPPORT. Grants and activations: the record, the live slot, the queue, the floor, the notice and the marks (R65, R67). -/
namespace Sys2Proof.Machine
open Sys2Proof

/-! ### The route that a passenger slot takes (R40, R46) -/

theorem seg_takePassenger (s : State) (k : SlotIx) (g h : SegIx) : (s.takePassenger k g).seg h = if g = h then
    { s.seg g with holder := some k, claims := (s.seg g).claims.filter (fun c => c != k) } else s.seg h := by
  have held : (s.setSeg g { s.seg g with holder := some k }).seg g = { s.seg g with holder := some k } :=
    seg_setSeg_same s g _
  unfold State.takePassenger State.removeClaim
  rw [held]
  by_cases here : g = h
  · subst here
    rw [if_pos rfl]
    split
    case isTrue claimed => rw [seg_noteFreeing, seg_setSeg_same]
    case isFalse unclaimed =>
      have same : (s.seg g).claims.filter (fun c => c != k) = (s.seg g).claims :=
        List.filter_eq_self.mpr fun c mem => by
          rw [bne_iff_ne]
          rintro rfl
          exact unclaimed mem
      rw [held, same]
  · rw [if_neg here]
    split
    · rw [seg_noteFreeing, seg_setSeg_other _ _ _ _ here, seg_setSeg_other _ _ _ _ here]
    · rw [seg_setSeg_other _ _ _ _ here]

theorem seg_takeHold_passenger (s : State) (k : SlotIx) (passenger : isFleet k = false) (g : SegIx) :
    (s.takeHold k).seg g = if g ∈ (s.slot k).route then
      { s.seg g with holder := some k, claims := (s.seg g).claims.filter (fun c => c != k) } else s.seg g := by
  have taken : s.takeHold k = (s.slot k).route.foldl (fun s g => s.takePassenger k g) s :=
    if_neg (by rw [passenger]; exact Bool.false_ne_true)
  rw [taken]
  generalize (s.slot k).route = l
  induction l generalizing s with
  | nil => simp
  | cons f l ih =>
    rw [List.foldl_cons, ih _ (if_neg (by rw [passenger]; exact Bool.false_ne_true)), seg_takePassenger]
    by_cases here : f = g
    · subst here
      simp
    · have apart : g ≠ f := fun same => here same.symm
      rw [if_neg here]
      exact if_congr (by simp [apart]) rfl rfl

/-! ### The grant of a fleet slot (R65) -/

section Grant
variable {s : State} {k : SlotIx} {x : ScrubIx}

/-- A slot that has taken its route, with its new record, out of the queue. -/
def State.seated (k : SlotIx) (r : Slot) (s : State) : State := ((s.takeHold k).setSlot k r).leaveQueue k

theorem slot_seated (r : Slot) (j : SlotIx) : (s.seated k r).slot j = if k = j then r else s.slot j := by
  have stored : (s.seated k r).slot j = ((s.takeHold k).setSlot k r).slot j := rfl
  rw [stored, slot_setSlot, slot_takeHold]

theorem scrub_seated (r : Slot) (y : ScrubIx) : (s.seated k r).scrub y = s.scrub y := by
  have kept : (s.takeHold k).scrubbers = s.scrubbers := by
    cases fleet : isFleet k
    · have stores : s.takeHold k = _ := claimStores_takeHold s k fleet
      rw [stores]
    · have stores : s.takeHold k = _ := floorStores_takeHold s k fleet
      rw [stores]
  have stored : (s.seated k r).scrubbers = (s.takeHold k).scrubbers := rfl
  unfold State.scrub
  rw [stored, kept]

/-- The last part of a grant: the live slot, the marks, the notice (R65). -/
def State.tellGrant (k : SlotIx) (s : State) : State :=
  let t := (s.setLive (s.slot k).scrubber (asFleet k)).markSlotWords k
  t.notifySlot .granted k (t.slot k).revision.toNat (t.slot k).endIx

theorem tellGrant_eq {t : State} (named : (t.slot k).scrubber = some x) : t.tellGrant k
    = ((t.setScrub x { t.scrub x with liveSlot := asFleet k }).markSlotWords k).notify .granted
      [pack4 (k.val + 1) (t.slot k).revision.toNat (t.slot k).endIx 0] := by
  unfold State.tellGrant
  rw [named]
  rfl

theorem grant_eq (named : (s.slot k).scrubber = some x) : s.grant k
    = (((s.seated k (s.slot k).granted).setScrub x { s.scrub x with liveSlot := asFleet k }).markSlotWords k).notify
      .granted [pack4 (k.val + 1) (s.slot k).granted.revision.toNat (s.slot k).granted.endIx 0] := by
  have record : (s.seated k (s.slot k).granted).slot k = (s.slot k).granted := by rw [slot_seated, if_pos rfl]
  have told := tellGrant_eq (k := k) (x := x) (t := s.seated k (s.slot k).granted) (by rw [record]; exact named)
  have parts : s.grant k = (s.seated k ((s.takeHold k).slot k).granted).tellGrant k := rfl
  rw [parts, slot_takeHold, told, record, scrub_seated]

theorem slot_grant (named : (s.slot k).scrubber = some x) (j : SlotIx) :
    (s.grant k).slot j = if k = j then (s.slot k).granted else s.slot j := by
  rw [grant_eq named, slot_notify, slot_markSlotWords]
  exact slot_seated _ j

theorem scrub_grant (named : (s.slot k).scrubber = some x) (y : ScrubIx) :
    (s.grant k).scrub y = if y = x then { s.scrub y with liveSlot := asFleet k } else s.scrub y := by
  have told : (s.grant k).scrub y
      = ((s.seated k (s.slot k).granted).setScrub x { s.scrub x with liveSlot := asFleet k }).scrub y := by
    rw [grant_eq named]
    unfold State.scrub
    rw [scrubbers_notify]
    rfl
  rw [told, scrub_setScrub, scrub_seated]
  by_cases here : x = y
  · rw [if_pos here, if_pos here.symm, here]
  · rw [if_neg here, if_neg fun same => here same.symm]

/-- The floor after a grant is the floor that the slot takes. -/
theorem grant_floor (named : (s.slot k).scrubber = some x) : (s.grant k).segs = (s.takeHold k).segs
    ∧ (s.grant k).pinch = (s.takeHold k).pinch ∧ (s.grant k).drying = (s.takeHold k).drying
    ∧ (s.grant k).freeing = (s.takeHold k).freeing := by
  rw [grant_eq named]
  simp [State.seated]

theorem frame_grant (fleet : isFleet k = true) (named : (s.slot k).scrubber = some x) : s.grant k = { s with
    slots := (s.grant k).slots, segs := (s.grant k).segs, pinch := (s.grant k).pinch, drying := (s.grant k).drying,
    scrubbers := (s.grant k).scrubbers, queue := s.queue.filter (fun j => j != k), staging := (s.grant k).staging,
    dspFlags := (s.grant k).dspFlags, dirty := (s.grant k).dirty, freeing := (s.grant k).freeing } := by
  have work := fw_grant (calm := False) id (.refl s) k
  have frame := eq_of_outside work.outside
  have held : s.takeHold k = _ := floorStores_takeHold s k fleet
  have queue : (s.grant k).queue = s.queue.filter (fun j => j != k) := by
    have stored : (s.grant k).queue = (s.takeHold k).queue.filter (fun j => j != k) := by
      rw [grant_eq named]
      simp [State.seated, State.leaveQueue, State.setQueue]
    rw [stored, held]
  have ops : (s.grant k).opsFlags = s.opsFlags := by
    have stored : (s.grant k).opsFlags = (s.takeHold k).opsFlags := by
      rw [grant_eq named]
      simp [State.seated]
    rw [stored, held]
  rw [queue, ops, work.cells, work.zones] at frame
  exact frame

theorem tookFloor_grant (fleet : k.val < 20) (named : (s.slot k).scrubber = some x)
    (available : s.availability k = none) : s.tookFloor (s.grant k) k x (s.slot k).route := by
  obtain ⟨segs, pinch, drying, freeing⟩ := grant_floor (s := s) named
  have seg (g : SegIx) : (s.grant k).seg g = (s.takeHold k).seg g := by unfold State.seg; rw [segs]
  have entry (p : PinchIx) : (s.grant k).pinchEntry p = (s.takeHold k).pinchEntry p := by
    unfold State.pinchEntry; rw [pinch]
  have use (p : PinchIx) : pinchUse (s.grant k) p x = pinchUse (s.takeHold k) p x := by
    refine pinchUse_congr ⟨congrArg Outside.site ((outside_grant s k).trans (outside_takeHold s k).symm),
      fun g _ => by rw [seg], fun g _ j _ => by rw [seg], fun g _ j _ _ => ?_⟩ x
    rw [slot_grant named, slot_takeHold]
    split
    case isTrue same => rw [← same]; rfl
    case isFalse => rfl
  have took := tookFloor_takeHold fleet named available
  unfold State.tookFloor at took ⊢
  simp only [seg, entry, use, drying, freeing]
  exact took

/-- Taking hold says nothing. -/
theorem silent_takeHold (s : State) (k : SlotIx) : s.silent (s.takeHold k) := by
  cases fleet : isFleet k
  · have stores : s.takeHold k = _ := claimStores_takeHold s k fleet
    rw [stores]
    exact ⟨rfl, rfl⟩
  · have stores : s.takeHold k = _ := floorStores_takeHold s k fleet
    rw [stores]
    exact ⟨rfl, rfl⟩

theorem notices_grant {u : State} {l : List (NoticeKind × List Word)} {flags : List DspFlag}
    (named : (s.slot k).scrubber = some x) (h : u.notices s l flags) (outside : s.outside = u.outside) :
    u.notices (s.grant k) (l ++ [(.granted, [pack4 (k.val + 1) (s.slot k).granted.revision.toNat
      (s.slot k).granted.endIx 0])]) flags := by
  have stored : u.notices (((s.seated k (s.slot k).granted).setScrub x
      { s.scrub x with liveSlot := asFleet k }).markSlotWords k) l flags :=
    notices_silent h (silent_trans (silent_takeHold s k) ⟨by simp [State.seated], by simp [State.seated]⟩)
  have outside' : (((s.seated k (s.slot k).granted).setScrub x
      { s.scrub x with liveSlot := asFleet k }).markSlotWords k).outside = u.outside := by
    simpa [State.seated] using outside
  rw [grant_eq named]
  exact notices_notify stored (congrArg Outside.tuning outside') (congrArg Outside.clock outside')
    (congrArg Outside.held outside') _ _

theorem dirty_grant (named : (s.slot k).scrubber = some x) :
    .slotStatus k ∈ (s.grant k).dirty ∧ .slotProgress k ∈ (s.grant k).dirty := by
  rw [grant_eq named]
  have kept (t : State) : Moves Slot.KeepsRoute (t.markSlotWords k) ((t.markSlotWords k).notify .granted
    [pack4 (k.val + 1) (s.slot k).granted.revision.toNat (s.slot k).granted.endIx 0]) := mv_notify (.refl _) _ _
  exact ⟨(kept _).dirty ((mem_dirty_markDirty _ _ _).mpr (.inr ((mem_dirty_markDirty _ _ _).mpr (.inl rfl)))),
    (kept _).dirty ((mem_dirty_markDirty _ _ _).mpr (.inl rfl))⟩

end Grant

end Sys2Proof.Machine
end

section
/-! SUPPORT. The activation of a passenger slot (R67, R70, R157). -/
namespace Sys2Proof.Machine
open Sys2Proof

section Activate
variable {s : State} {k : SlotIx}

/-- The last part of an activation: the mark, the flag, the notice. -/
def State.tellActive (k : SlotIx) (s : State) : State :=
  ((s.markDirty (.slotStatus k)).setOps .passengerActive).notifySlot .passengerActive k (s.slot k).revision.toNat
    (s.slot k).route.length

theorem activate_eq : s.activate k
    = (((s.seated k (s.slot k).activated).markDirty (.slotStatus k)).setOps .passengerActive).notify .passengerActive
      [pack4 (k.val + 1) (s.slot k).activated.revision.toNat (s.slot k).route.length 0] := by
  have record : (s.seated k (s.slot k).activated).slot k = (s.slot k).activated := by rw [slot_seated, if_pos rfl]
  have parts : s.activate k = (s.seated k ((s.takeHold k).slot k).activated).tellActive k := rfl
  rw [parts, slot_takeHold, State.tellActive, record]
  rfl

theorem slot_activate (j : SlotIx) : (s.activate k).slot j = if k = j then (s.slot k).activated else s.slot j := by
  rw [activate_eq, slot_notify, slot_setOps, slot_markDirty]
  exact slot_seated _ j

theorem seg_activate (passenger : isFleet k = false) (g : SegIx) :
    (s.activate k).seg g = if g ∈ (s.slot k).route then
      { s.seg g with holder := some k, claims := (s.seg g).claims.filter (fun c => c != k) } else s.seg g := by
  have kept : (s.activate k).seg g = (s.takeHold k).seg g := by
    rw [activate_eq, seg_notify]
    simp [State.seated]
  rw [kept, seg_takeHold_passenger s k passenger]

theorem ops_activate (passenger : isFleet k = false) (f : OpsFlag) :
    (s.activate k).ops f = (s.ops f || decide (f = .passengerActive)) := by
  have held : s.takeHold k = _ := claimStores_takeHold s k passenger
  have told (t : State) (kind : NoticeKind) (p : List Word) : (t.notify kind p).ops f = t.ops f := by
    unfold State.ops
    rw [opsFlags_notify]
  have before : ((s.seated k (s.slot k).activated).markDirty (.slotStatus k)).ops f = s.ops f := by
    have flags : ((s.seated k (s.slot k).activated).markDirty (.slotStatus k)).opsFlags = (s.takeHold k).opsFlags := by
      simp [State.seated]
    unfold State.ops
    rw [flags, held]
  rw [activate_eq, told, ops_setOps, before]

theorem frame_activate (passenger : isFleet k = false) : s.activate k = { s with
    slots := (s.activate k).slots, segs := (s.activate k).segs, queue := s.queue.filter (fun j => j != k),
    staging := (s.activate k).staging, dspFlags := (s.activate k).dspFlags, opsFlags := (s.activate k).opsFlags,
    dirty := (s.activate k).dirty, freeing := (s.activate k).freeing } := by
  have work := fw_activate (calm := False) id (.refl s) k
  have frame := eq_of_outside work.outside
  have held : s.takeHold k = _ := claimStores_takeHold s k passenger
  have kept : (s.activate k).pinch = (s.takeHold k).pinch ∧ (s.activate k).drying = (s.takeHold k).drying
      ∧ (s.activate k).scrubbers = (s.takeHold k).scrubbers
      ∧ (s.activate k).queue = (s.takeHold k).queue.filter (fun j => j != k) := by
    rw [activate_eq]
    simp [State.seated, State.leaveQueue, State.setQueue]
  obtain ⟨pinch, drying, scrubbers, queue⟩ := kept
  rw [held] at pinch drying scrubbers queue
  rw [pinch, drying, scrubbers, queue, work.cells, work.zones] at frame
  exact frame

theorem notices_activate {u : State} {l : List (NoticeKind × List Word)} {flags : List DspFlag}
    (h : u.notices s l flags) (outside : s.outside = u.outside) :
    u.notices (s.activate k) (l ++ [(.passengerActive, [pack4 (k.val + 1) (s.slot k).activated.revision.toNat
      (s.slot k).route.length 0])]) flags := by
  have stored : u.notices (((s.seated k (s.slot k).activated).markDirty (.slotStatus k)).setOps .passengerActive) l
      flags :=
    notices_silent h (silent_trans (silent_takeHold s k) ⟨by simp [State.seated], by simp [State.seated]⟩)
  have outside' : (((s.seated k (s.slot k).activated).markDirty (.slotStatus k)).setOps .passengerActive).outside
      = u.outside := by
    simpa [State.seated] using outside
  rw [activate_eq]
  exact notices_notify stored (congrArg Outside.tuning outside') (congrArg Outside.clock outside')
    (congrArg Outside.held outside') _ _

theorem dirty_activate : .slotStatus k ∈ (s.activate k).dirty := by
  have kept (t : State) : Moves Slot.KeepsRoute (t.markDirty (.slotStatus k))
      (((t.markDirty (.slotStatus k)).setOps .passengerActive).notify .passengerActive
        [pack4 (k.val + 1) (s.slot k).activated.revision.toNat (s.slot k).route.length 0]) :=
    mv_notify ((Moves.refl _).setOps _) _ _
  rw [activate_eq]
  exact (kept _).dirty ((mem_dirty_markDirty _ _ _).mpr (.inl rfl))

end Activate

/-! ### Availability passes -/

theorem firstFailure_of_none {test : Nat → SegIx → Option Result} {l : List (SegIx × Nat)}
    (passes : ∀ e ∈ l, test e.2 e.1 = none) : firstFailure test l = none := by
  induction l with
  | nil => rfl
  | cons e l ih =>
    obtain ⟨g, i⟩ := e
    have first : test i g = none := passes (g, i) List.mem_cons_self
    rw [firstFailure, first]
    exact ih fun f mem => passes f (List.mem_cons_of_mem _ mem)

end Sys2Proof.Machine
end

section
/-! PROOFS. The re-evaluation of the queue (O44; R39, R40, R65, R67, R70, R71). -/
namespace Sys2Proof.Machine
open Sys2Proof

section Reevaluation
variable {u : State} {k : SlotIx} {x : ScrubIx}

theorem notices_self (s : State) : s.notices s [] [] := notices_start s s [] rfl fun f => by simp

/-! ### The outcomes of an entry -/

theorem onlySlot_of_slot {t : State} {r : Slot} (h : ∀ j, t.slot j = if k = j then r else u.slot j) :
    u.onlySlot t k r := ⟨by rw [h, if_pos rfl], fun j ne => by rw [h, if_neg ne.symm]⟩

theorem reevalEntry_apart (apart : (u.slot k).state ≠ .waiting) : u.reevalEntry k = u := if_pos apart

theorem reevalEntry_passenger (passenger : isFleet k = false) (waits : (u.slot k).state = .waiting) : u.reevalEntry k =
    match u.availability k with
    | none => u.activate k
    | some f => u.stillWaiting k f := by
  unfold State.reevalEntry
  rw [if_neg (not_not.mpr waits), passenger]
  rfl

theorem reevalEntry_failed (fleet : isFleet k = true) (waits : (u.slot k).state = .waiting)
    (named : (u.slot k).scrubber = some x) {f : Result × Nat}
    (fails : u.waitingScrubberCheck x (u.slot k).route = some f) : u.reevalEntry k = u.endWaiting k f := by
  unfold State.reevalEntry
  rw [if_neg (not_not.mpr waits), if_pos fleet, named]
  dsimp only
  rw [fails]

theorem reevalEntry_checked (fleet : isFleet k = true) (waits : (u.slot k).state = .waiting)
    (named : (u.slot k).scrubber = some x) (passes : u.waitingScrubberCheck x (u.slot k).route = none) :
    (u.availability k = none → u.reevalEntry k = u.grant k)
      ∧ ∀ f, u.availability k = some f →
        u.reevalEntry k = if f.1.transient = true then u.stillWaiting k f else u.endWaiting k f := by
  unfold State.reevalEntry
  rw [if_neg (not_not.mpr waits), if_pos fleet, named]
  dsimp only
  rw [passes]
  exact ⟨fun available => by rw [available], fun f fails => by rw [fails]⟩

/-- An entry that stays has its new failure, and nothing else changes but marks. -/
theorem stillWaiting_spec (f : Result × Nat) :
    u.stillWaiting k f = { u with slots := (u.stillWaiting k f).slots, dirty := (u.stillWaiting k f).dirty }
      ∧ u.onlySlot (u.stillWaiting k f) k { u.slot k with result := f.1, failIx := f.2 } :=
  ⟨rfl, onlySlot_of_slot fun j => slot_setSlot u k j _⟩

/-- The scrubber's checks pass exactly when it is HEARD without a mark, and stands where the route begins (R71). -/
theorem waitingScrubberCheck_none (heard : (u.scrub x).state = .heard) (clear : (u.scrub x).mark = false)
    {route : List SegIx} (stands : route.head? = (u.scrub x).current) : u.waitingScrubberCheck x route = none := by
  simp [State.waitingScrubberCheck, heard, clear, stands]

theorem waitingScrubberCheck_some {route : List SegIx} {r : Result}
    (which : r = if (u.scrub x).state = .lost then .scrubberLost else if (u.scrub x).state ≠ .heard then .notPlaced
      else if (u.scrub x).mark = true then .violation else .badStart)
    (fails : ¬ ((u.scrub x).state = .heard ∧ (u.scrub x).mark = false ∧ route.head? = (u.scrub x).current)) :
    u.waitingScrubberCheck x route = some (r, if r = .badStart then 1 else 0) := by
  unfold State.waitingScrubberCheck
  dsimp only
  by_cases lost : (u.scrub x).state = .lost
  · rw [if_pos lost] at which ⊢
    simp [which]
  rw [if_neg lost] at which ⊢
  by_cases unheard : (u.scrub x).state ≠ .heard
  · rw [if_pos unheard] at which ⊢
    simp [which]
  rw [if_neg unheard] at which ⊢
  by_cases mark : (u.scrub x).mark = true
  · rw [if_pos mark] at which ⊢
    simp [which]
  rw [if_neg mark] at which ⊢
  have astray : route.head? ≠ (u.scrub x).current := fun stands =>
    fails ⟨not_not.mp unheard, by simpa using mark, stands⟩
  simp [which, astray]

/-- A waiting fleet slot's entry that ends at its evaluation (R71). -/
theorem endsWaiting_of_endWaiting (fleet : isFleet k = true) (waits : (u.slot k).state = .waiting)
    (named : (u.slot k).scrubber = some x) {r : Result} {i : Nat} (ends : u.reevalEntry k = u.endWaiting k (r, i)) :
    u.endsWaiting k x r i := by
  have idle : (u.leaveQueue k).slotTalk ((u.leaveQueue k).toIdle k r i) := slotTalk_toIdle _ k r i
  have live : ((u.leaveQueue k).toIdle k r i).slotTalk (((u.leaveQueue k).toIdle k r i).clearLiveOf k) :=
    slotTalk_clearLiveOf _ k
  have talk : (u.leaveQueue k).slotTalk (u.endWaiting k (r, i)) :=
    slotTalk_trans idle (slotTalk_trans live (slotTalk_notify _ _ _))
  have slots : (u.endWaiting k (r, i)).slots = ((u.leaveQueue k).toIdle k r i).slots := by
    unfold State.endWaiting State.notifySlot
    rw [slots_notify, slots_clearLiveOf]
  have retired : (u.slot k).retired k r i = (u.slot k).returned r i (u.slot k).changed := by
    simp [Slot.retired, waits, SlotState.authority]
  have scrub (y : ScrubIx) : (u.endWaiting k (r, i)).scrub y
      = if x = y then { u.scrub y with liveSlot := none } else u.scrub y := by
    have names : (((u.leaveQueue k).toIdle k r i).slot k).scrubber = some x := by
      rw [slot_toIdle, if_pos rfl]
      exact named
    have kept : ((u.leaveQueue k).toIdle k r i).scrub y = u.scrub y := by
      unfold State.scrub
      rw [scrubbers_toIdle]
      rfl
    have told : (u.endWaiting k (r, i)).scrub y = (((u.leaveQueue k).toIdle k r i).clearLiveOf k).scrub y := by
      unfold State.endWaiting State.notifySlot State.scrub
      rw [scrubbers_notify]
    rw [told, scrub_clearLiveOf, names, kept]
    simp only [fleet, true_and, Option.some.injEq]
  have outside : (((u.leaveQueue k).toIdle k r i).clearLiveOf k).outside = u.outside := by simp
  have quiet : u.notices (((u.leaveQueue k).toIdle k r i).clearLiveOf k) [] [] :=
    notices_silent (notices_silent (notices_start u (u.leaveQueue k) [] rfl fun f => by
      have same : (u.leaveQueue k).dspFlags = u.dspFlags := rfl
      rw [dsp_eq_of_flags same]
      simp) (silent_toIdle _ k r i)) (silent_clearLiveOf _ k)
  have kept : Moves Slot.KeepsRoute ((u.leaveQueue k).toIdle k r i) (u.endWaiting k (r, i)) :=
    mv_notifySlot (mv_clearLiveOf (.refl _) k) _ _ _ _
  refine ⟨_, ends, ?_, onlySlot_of_slot fun j => ?_, ⟨?_, fun y ne => ?_⟩, ?_,
    kept.dirty (dirty_toIdle (u.leaveQueue k) k r i).1⟩
  · exact talk
  · rw [← retired]
    unfold State.slot
    rw [slots]
    exact slot_toIdle (u.leaveQueue k) k r i j
  · rw [scrub, if_pos rfl]
  · rw [scrub, if_neg ne.symm]
  · exact notices_notify quiet (congrArg Outside.tuning outside) (congrArg Outside.clock outside)
      (congrArg Outside.held outside) _ _

end Reevaluation

/-- Settles O44, outcome by outcome. -/
theorem reevaluation : Obligations.Reevaluation := by
  refine ⟨fun u calm => settle_eq_self calm, fun u noted => ?_, fun u k => reevalEntry_apart,
    fun u k r i passenger waits fails => ?_, fun u k passenger waits available => ?_,
    fun u k x fleet waits named => ⟨fun heard clear stands => ?_, fun r which fails => ?_⟩⟩
  · unfold State.settle
    rw [noted]
    rfl
  · have stays := reevalEntry_passenger (by simpa [isFleet] using passenger) waits
    rw [fails] at stays
    rw [stays]
    exact stillWaiting_spec (r, i)
  · have passenger : isFleet k = false := by simpa [isFleet] using passenger
    have activates := reevalEntry_passenger passenger waits
    rw [available] at activates
    rw [activates]
    refine ⟨onlySlot_of_slot slot_activate, _, rfl, frame_activate passenger, seg_activate passenger,
      ops_activate passenger, ?_⟩
    rw [slot_activate, if_pos rfl]
    exact notices_activate (notices_self u) rfl
  · have isFleet : isFleet k = true := by simpa [isFleet] using fleet
    obtain ⟨grants, others⟩ := reevalEntry_checked isFleet waits named (waitingScrubberCheck_none heard clear stands)
    refine ⟨fun available => ?_, fun r i fails transient => ?_, fun r i fails permanent => ?_⟩
    · rw [grants available]
      refine ⟨onlySlot_of_slot (slot_grant named), _, rfl, frame_grant isFleet named, scrub_grant named,
        tookFloor_grant fleet named available, ?_⟩
      rw [slot_grant named, if_pos rfl]
      exact notices_grant named (notices_self u) rfl
    · rw [others _ fails, if_pos transient]
      exact stillWaiting_spec (r, i)
    · refine endsWaiting_of_endWaiting isFleet waits named ?_
      rw [others _ fails, if_neg (by rw [permanent]; exact Bool.false_ne_true)]
  · exact endsWaiting_of_endWaiting (by simpa [isFleet] using fleet) waits named
      (reevalEntry_failed (by simpa [isFleet] using fleet) waits named (waitingScrubberCheck_some which fails))

end Sys2Proof.Machine
end

section
/-! PROOFS. The commit of a fleet slot whose route is available (O41; R40, R47, R48, R59, R65, R73). -/
namespace Sys2Proof.Machine
open Sys2Proof

section Commits
variable {s : State} {k : SlotIx}

/-! ### The row and the commit word (R59) -/

theorem exec_commitRow (service : s.mode = .service) (wait : Bool) :
    exec (if wait then .commitWait k else .commit k) s
      = .next ((s.commitWrite k (if wait then commitWaitValue else commitValue)).answered tookOne) := by
  cases wait
  · exact congrArg Host.Outcome.next (busAccess_commit s k commitValue (running_of_modes (.inr service)))
  · exact congrArg Host.Outcome.next (busAccess_commit s k commitWaitValue (running_of_modes (.inr service)))

/-- A commit of an IDLE slot with a commit value is taken (R59). -/
theorem commitWrite_taken (service : s.mode = .service) (idle : (s.slot k).state = .idle) (wait : Bool) :
    s.commitWrite k (if wait then commitWaitValue else commitValue)
      = (if isFleet k then s.clearFreeing.commitFleet k wait else s.clearFreeing.commitPassenger k).settle := by
  have service' : ¬ s.clearFreeing.mode ≠ .service := not_not.mpr service
  have idle' : ¬ (s.clearFreeing.slot k).state.live = true := by
    have same : (s.clearFreeing.slot k).state = .idle := idle
    rw [same]
    exact Bool.false_ne_true
  have value : ¬ ((if wait then commitWaitValue else commitValue) ≠ commitValue
      ∧ (if wait then commitWaitValue else commitValue) ≠ commitWaitValue) := by
    cases wait <;> simp
  have waits : decide ((if wait then commitWaitValue else commitValue) = commitWaitValue) = wait := by
    cases wait <;> decide
  unfold State.commitWrite State.event
  dsimp only
  rw [if_neg service', if_neg idle', if_neg value, waits]

theorem commitFleet_granted {x : ScrubIx} {m : AuthMode} {wait : Bool} (passes : s.structuralFleet k = .ok (x, m))
    (available : (s.captureFleet k x m).availability k = none) :
    s.commitFleet k wait = (s.captureFleet k x m).grant k := by
  unfold State.commitFleet
  rw [passes]
  dsimp only
  rw [available]

/-! ### The structural pass does not read the note of a freeing change (R61) -/

theorem firstNotAdjacent_congr {s t : State} (same : ∀ g h, t.adjacent g h = s.adjacent g h) :
    (l : List (SegIx × Nat)) → t.firstNotAdjacent l = s.firstNotAdjacent l
  | [] | [_] => rfl
  | a :: b :: rest => by
    rw [State.firstNotAdjacent, State.firstNotAdjacent, same, firstNotAdjacent_congr same (b :: rest)]

theorem structuralFleet_clearFreeing (s : State) (k : SlotIx) : s.clearFreeing.structuralFleet k = s.structuralFleet k := by
  have adjacent (l : List (SegIx × Nat)) : s.clearFreeing.firstNotAdjacent l = s.firstNotAdjacent l :=
    firstNotAdjacent_congr (s := s) (t := s.clearFreeing) (fun _ _ => rfl) l
  have checks (x : ScrubIx) (m : AuthMode) (l : List (SegIx × Nat)) :
      s.clearFreeing.fleetChecks k x m l = s.fleetChecks k x m l := by
    unfold State.fleetChecks
    rw [adjacent]
    rfl
  unfold State.structuralFleet
  simp only [checks]
  rfl

/-! ### The captured record (R60) -/

theorem slot_captureFleet (x : ScrubIx) (m : AuthMode) (j : SlotIx) : (s.captureFleet k x m).slot j = if k = j then
    { s.slot k with scrubber := some x, mode := m, route := (s.slot k).draft.captured } else s.slot j :=
  slot_setSlot s k j _

/-- A captured fleet route is available when each of its segments passes its test (R63). -/
theorem available_captureFleet (fleet : isFleet k = true) {x : ScrubIx} {m : AuthMode}
    (passes : ∀ e ∈ (s.slot k).draft.captured.zipIdx 1, s.fleetTest x m e.2 e.1 = none) :
    (s.captureFleet k x m).availability k = none := by
  have record := slot_captureFleet (s := s) (k := k) x m k
  rw [if_pos rfl] at record
  rw [availability_fleet fleet (x := x) (by rw [record]), record]
  exact firstFailure_of_none passes

end Commits

/-- Settles O41. -/
theorem commitGrants : Obligations.CommitGrants := by
  intro s k wait x m service fleet idle structural passes
  have isFleet : isFleet k = true := by simpa [isFleet] using fleet
  have available : (s.clearFreeing.captureFleet k x m).availability k = none :=
    available_captureFleet (s := s.clearFreeing) isFleet passes
  have record : (s.clearFreeing.captureFleet k x m).slot k
      = { s.slot k with scrubber := some x, mode := m, route := (s.slot k).draft.captured } :=
    (slot_captureFleet x m k).trans (if_pos rfl)
  have named : ((s.clearFreeing.captureFleet k x m).slot k).scrubber = some x := by rw [record]
  have ran := exec_commitRow (k := k) service wait
  rw [← structuralFleet_clearFreeing] at structural
  rw [commitWrite_taken service idle, if_pos isFleet, commitFleet_granted (s := s.clearFreeing) structural available]
    at ran
  have quiet : s.notices (s.clearFreeing.captureFleet k x m) [] [] := notices_start s _ [] rfl fun f => by
    have same : (s.clearFreeing.captureFleet k x m).dspFlags = s.dspFlags := rfl
    rw [dsp_eq_of_flags same]
    simp
  have slot := slot_grant named
  have took := tookFloor_grant fleet named available
  obtain ⟨status, progress⟩ := dirty_grant named
  rw [record] at slot took
  refine ⟨(s.clearFreeing.captureFleet k x m).grant k, _, ran, rfl, frame_grant isFleet named, ⟨?_, fun j ne => ?_⟩,
    scrub_grant named, took, ?_, status, progress⟩
  · rw [slot, if_pos rfl]
    rfl
  · rw [slot, if_neg ne.symm, slot_captureFleet, if_neg ne.symm]
    rfl
  · rw [slot, if_pos rfl, ← record]
    exact notices_grant named quiet rfl

end Sys2Proof.Machine
end

section
/-! SUPPORT. One shortening, whatever it finds: which segments, drying entries and pinch groups it can reach (R112 to
R114). -/
namespace Sys2Proof.Machine
open Sys2Proof

section Reach
variable {s : State} {k : SlotIx} {e : Nat}

/-- A shortening does nothing, releases beyond the new end of a GRANTED slot, or marks a sent slot's segments pending. -/
theorem shorten_cases (s : State) (k : SlotIx) (e : Nat) :
    s.shorten k e = s
      ∨ k.val < 20 ∧ (s.slot k).effectiveEnd e < (s.slot k).endIx ∧ (s.slot k).state = .granted
      ∨ k.val < 20 ∧ (s.slot k).effectiveEnd e < (s.slot k).endIx ∧ (s.slot k).state.authority = true
        ∧ (s.slot k).state ≠ .granted := by
  by_cases idle : (!isFleet k || !(s.slot k).state.authority
      || decide ((s.slot k).endIx ≤ (s.slot k).effectiveEnd e)) = true
  · refine .inl ?_
    unfold State.shorten
    rw [if_pos idle]
  · simp only [Bool.or_eq_true, Bool.not_eq_true', decide_eq_true_eq, not_or, not_le, Bool.not_eq_false] at idle
    obtain ⟨⟨fleet, authority⟩, low⟩ := idle
    have fleet : k.val < 20 := by simpa [isFleet] using fleet
    by_cases granted : (s.slot k).state = .granted
    · exact .inr (.inl ⟨fleet, low, granted⟩)
    · exact .inr (.inr ⟨fleet, low, authority, granted⟩)

/-! ### A GRANTED slot's (R113) -/

section Granted
variable (fleet : k.val < 20) (low : (s.slot k).effectiveEnd e < (s.slot k).endIx)
  (granted : (s.slot k).state = .granted)
include fleet low granted

/-- The floor after it is the floor after the release. -/
theorem shorten_granted_floor : (s.shorten k e).segs
      = (s.releaseWhere k (fun x => decide ((s.slot k).effectiveEnd e < x.2))).segs
    ∧ (s.shorten k e).pinch = (s.releaseWhere k (fun x => decide ((s.slot k).effectiveEnd e < x.2))).pinch
    ∧ (s.shorten k e).drying = (s.releaseWhere k (fun x => decide ((s.slot k).effectiveEnd e < x.2))).drying := by
  rw [shorten_granted fleet low granted]
  simp [State.shortenedNotice, State.notifySlot]

theorem seg_shorten_granted (h : SegIx) : (s.shorten k e).seg h
    = (s.releaseWhere k (fun x => decide ((s.slot k).effectiveEnd e < x.2))).seg h := by
  unfold State.seg
  rw [(shorten_granted_floor fleet low granted).1]

end Granted

/-- A sent slot's shortening leaves the pinch table and the drying list alone. -/
theorem shorten_sent_floor (fleet : k.val < 20) (low : (s.slot k).effectiveEnd e < (s.slot k).endIx)
    (authority : (s.slot k).state.authority = true) (sent : (s.slot k).state ≠ .granted) :
    (s.shorten k e).pinch = s.pinch ∧ (s.shorten k e).drying = s.drying := by
  have frame := shorten_sent_frame fleet low authority sent
  exact ⟨(congrArg State.pinch frame :), (congrArg State.drying frame :)⟩

/-! ### Whatever the slot's state -/

/-- A segment that the slot does not hold stays as it is. -/
theorem seg_shorten_other {h : SegIx} (other : (s.seg h).holder ≠ some k) : (s.shorten k e).seg h = s.seg h := by
  obtain same | ⟨fleet, low, granted⟩ | ⟨fleet, low, authority, sent⟩ := shorten_cases s k e
  · rw [same]
  · rw [seg_shorten_granted fleet low granted]
    exact seg_releaseWhere_kept fun _ _ _ => other
  · rw [seg_shorten_sent fleet low authority sent, if_neg fun c => other c.1]

/-- A segment that the slot holds stays its own or becomes nobody's. -/
theorem holder_shorten {h : SegIx} (held : (s.seg h).holder = some k) :
    ((s.shorten k e).seg h).holder = some k ∨ ((s.shorten k e).seg h).holder = none := by
  obtain same | ⟨fleet, low, granted⟩ | ⟨fleet, low, authority, sent⟩ := shorten_cases s k e
  · rw [same]; exact .inl held
  · have grip := grip_releaseWhere s k (fun x => decide ((s.slot k).effectiveEnd e < x.2)) h
    rw [seg_shorten_granted fleet low granted]
    split at grip
    · exact .inr (congrArg Prod.fst grip)
    · exact .inl ((congrArg Prod.fst grip).trans held)
  · rw [seg_shorten_sent fleet low authority sent]
    split
    · exact .inl held
    · exact .inl held

theorem drying_shorten_mono {d : DryEntry} (listed : d ∈ s.drying) : d ∈ (s.shorten k e).drying := by
  obtain same | ⟨fleet, low, granted⟩ | ⟨fleet, low, authority, sent⟩ := shorten_cases s k e
  · rw [same]; exact listed
  · rw [(shorten_granted_floor fleet low granted).2.2]
    exact drying_releaseWhere_mono listed
  · rw [(shorten_sent_floor fleet low authority sent).2]
    exact listed

/-- A new drying entry comes of a GRANTED slot's segment beyond the new end. -/
theorem mem_drying_shorten {d : DryEntry} (listed : d ∈ (s.shorten k e).drying) : d ∈ s.drying
    ∨ (s.slot k).state = .granted ∧ (s.seg d.seg).holder = some k ∧ d = s.newEntry d.seg
      ∧ ∃ i, (d.seg, i) ∈ (s.slot k).entries ∧ (s.slot k).effectiveEnd e < i
        ∧ ((s.seg d.seg).carried = true ∨ wetChosen k (s.slot k) i) := by
  obtain same | ⟨fleet, low, granted⟩ | ⟨fleet, low, authority, sent⟩ := shorten_cases s k e
  · rw [same] at listed; exact .inl listed
  · rw [(shorten_granted_floor fleet low granted).2.2] at listed
    refine (mem_drying_releaseWhere listed).imp_right fun ⟨held, new, i, entry, past, wet⟩ => ?_
    exact ⟨granted, held, new, i, entry, by simpa using past, wet⟩
  · rw [(shorten_sent_floor fleet low authority sent).2] at listed
    exact .inl listed

/-- Only a GRANTED slot's groups are counted. -/
theorem pinchEntry_shorten {p : PinchIx}
    (away : (s.slot k).state = .granted → ∀ g ∈ (s.slot k).route, (s.fixed g).pinch ≠ some p) :
    (s.shorten k e).pinchEntry p = s.pinchEntry p := by
  obtain same | ⟨fleet, low, granted⟩ | ⟨fleet, low, authority, sent⟩ := shorten_cases s k e
  · rw [same]
  · unfold State.pinchEntry
    rw [(shorten_granted_floor fleet low granted).2.1]
    exact pinchEntry_releaseWhere fun f entry _ => away granted f.1 (fst_mem_of_entries entry)
  · unfold State.pinchEntry
    rw [(shorten_sent_floor fleet low authority sent).1]

end Reach

end Sys2Proof.Machine
end

section
/-! SUPPORT. Runs over slots in which each slot changes what it holds itself, and the preemption as such a run (R42, R112 to
R114, R155). -/
namespace Sys2Proof.Machine
open Sys2Proof

/-! ### Runs over slots -/

/-- A change made for a slot that reaches, beside the slot itself, only segments that the slot holds, which it keeps or
lets go. -/
structure OwnWork (f : State → SlotIx → State) : Prop where
  others : ∀ (t : State) k j, j ≠ k → t.Alike j (f t k)
  seg : ∀ (t : State) k h, (t.seg h).holder ≠ some k → (f t k).seg h = t.seg h
  holder : ∀ (t : State) k h, (t.seg h).holder = some k →
    ((f t k).seg h).holder = some k ∨ ((f t k).seg h).holder = none

section Runs
variable {f : State → SlotIx → State} (own : OwnWork f) {l : List SlotIx} {s : State}
include own

theorem OwnWork.seg_foldl {h : SegIx} (apart : ∀ j ∈ l, (s.seg h).holder ≠ some j) : (l.foldl f s).seg h = s.seg h := by
  induction l generalizing s with
  | nil => rfl
  | cons k l ih =>
    have first : (f s k).seg h = s.seg h := own.seg s k h (apart k List.mem_cons_self)
    rw [List.foldl_cons, ih fun j mem => by rw [first]; exact apart j (List.mem_cons_of_mem _ mem), first]

theorem OwnWork.alike_foldl {j : SlotIx} (apart : j ∉ l) : s.Alike j (l.foldl f s) := by
  induction l generalizing s with
  | nil => exact .refl j s
  | cons k l ih =>
    obtain ⟨ne, later⟩ := not_or.mp (mt List.mem_cons.mpr apart)
    exact (own.others s k j ne).trans (ih later)

/-- A segment that a slot holds after a run without the slot is as it was before. -/
theorem OwnWork.held_foldl {j : SlotIx} (apart : j ∉ l) {h : SegIx} (held : ((l.foldl f s).seg h).holder = some j) :
    (l.foldl f s).seg h = s.seg h := by
  have before : (s.seg h).holder = some j := ((own.alike_foldl apart).holds h).mp held
  refine own.seg_foldl fun i mem same => ?_
  rw [before] at same
  exact apart (Option.some.inj same ▸ mem)

/-- A slot's turn in a run: what it finds, and that the rest of the run leaves what it has made. -/
theorem OwnWork.turn (once : l.Nodup) {j : SlotIx} (mem : j ∈ l) : ∃ before after, l = before ++ j :: after
    ∧ s.Alike j (before.foldl f s)
    ∧ (∀ h, (s.seg h).holder = some j → (before.foldl f s).seg h = s.seg h)
    ∧ (l.foldl f s).slot j = (f (before.foldl f s) j).slot j
    ∧ ∀ h, (s.seg h).holder = some j → (l.foldl f s).seg h = (f (before.foldl f s) j).seg h := by
  obtain ⟨before, after, rfl⟩ := List.append_of_mem mem
  obtain ⟨-, once', apart⟩ := List.nodup_append.mp once
  have early : j ∉ before := fun there => apart j there j List.mem_cons_self rfl
  have late : j ∉ after := (List.nodup_cons.mp once').1
  have found : s.Alike j (before.foldl f s) := own.alike_foldl early
  refine ⟨before, after, rfl, found, fun h held => own.held_foldl early ((found.holds h).mpr held), ?_, fun h held => ?_⟩
  · rw [List.foldl_append, List.foldl_cons]
    exact (own.alike_foldl late).slot
  · rw [List.foldl_append, List.foldl_cons]
    refine own.seg_foldl fun i there same => ?_
    obtain kept | freed := own.holder (before.foldl f s) j h ((found.holds h).mpr held)
    · rw [kept] at same
      exact late (Option.some.inj same ▸ there)
    · rw [freed] at same
      cases same

end Runs

theorem OwnWork.shorten (e : State → SlotIx → Nat) : OwnWork (fun s k => s.shorten k (e s k)) :=
  ⟨fun t k j ne => alike_shorten t k j ne _, fun _ _ _ => seg_shorten_other, fun _ _ _ => holder_shorten⟩

/-! ### A slot that makes way (R155) -/

/-- A fleet slot in authority is shortened to before the first wanted segment of its remaining route. -/
def State.makeWay (want : SegIx → Bool) (s : State) (j : SlotIx) : State :=
  if (s.slot j).state.authority then s.shortenBefore j want else s

/-- The preemption of a waiting passenger slot is a run over the fleet slots. -/
theorem preempt_eq (s : State) (route : List SegIx) :
    s.preempt route = fleetSlots.foldl (State.makeWay fun g => decide (g ∈ route)) s :=
  foldl_fleet (fun j s => s.makeWay (fun g => decide (g ∈ route)) j) s

section MakeWay
variable {want : SegIx → Bool} {s : State} {j : SlotIx}

theorem makeWay_shortens {e : Nat} (authority : (s.slot j).state.authority = true)
    (reaches : (s.slot j).firstReaching want = some e) : s.makeWay want j = s.shorten j (e - 1) :=
  (if_pos authority).trans (firstReaching_of_shorten reaches)

theorem makeWay_clear (clear : (s.slot j).state.authority = true → (s.slot j).firstReaching want = none) :
    s.makeWay want j = s := by
  by_cases authority : (s.slot j).state.authority = true
  · exact (if_pos authority).trans (shortenBefore_clear (clear authority))
  · exact if_neg authority

theorem makeWay_cases (want : SegIx → Bool) (s : State) (j : SlotIx) : s.makeWay want j = s
    ∨ ∃ e, (s.slot j).state.authority = true ∧ (s.slot j).firstReaching want = some e
      ∧ s.makeWay want j = s.shorten j (e - 1) := by
  by_cases authority : (s.slot j).state.authority = true
  · cases reaches : (s.slot j).firstReaching want with
    | none => exact .inl (makeWay_clear fun _ => reaches)
    | some e => exact .inr ⟨e, authority, rfl, makeWay_shortens authority reaches⟩
  · exact .inl (if_neg authority)

theorem OwnWork.makeWay (want : SegIx → Bool) : OwnWork (State.makeWay want) := by
  refine ⟨fun t k j ne => ?_, fun t k h other => ?_, fun t k h held => ?_⟩
  · obtain same | ⟨e, -, -, short⟩ := makeWay_cases want t k
    · rw [same]; exact .refl j t
    · rw [short]; exact alike_shorten t k j ne _
  · obtain same | ⟨e, -, -, short⟩ := makeWay_cases want t k
    · rw [same]
    · rw [short]; exact seg_shorten_other other
  · obtain same | ⟨e, -, -, short⟩ := makeWay_cases want t k
    · rw [same]; exact .inl held
    · rw [short]; exact holder_shorten held

end MakeWay

/-! ### The first index at which a slot meets a path (R155) -/

section Meets
variable {s : State} {j : SlotIx} {path : List SegIx} {e : Nat}

theorem firstReaching_of_meetsAt (meets : meetsAt s j path e) :
    (s.slot j).firstReaching (fun g => decide (g ∈ path)) = some e := by
  obtain ⟨-, -, ahead, within, ⟨g, there, entry⟩, first⟩ := meets
  refine firstReaching_eq_some entry ahead within (by simpa using there) fun i h other past before => ?_
  simpa using first (h, i) other past before

theorem meetsAt_of_firstReaching (fleet : j.val < 20) (authority : (s.slot j).state.authority = true)
    (reaches : (s.slot j).firstReaching (fun g => decide (g ∈ path)) = some e) : meetsAt s j path e := by
  unfold Slot.firstReaching at reaches
  obtain ⟨x, found, rfl⟩ := Option.map_eq_some_iff.mp reaches
  obtain ⟨holds, before, after, split, fails⟩ := List.find?_eq_some_iff_append.mp found
  simp only [Bool.and_eq_true, decide_eq_true_eq] at holds
  obtain ⟨⟨ahead, within⟩, there⟩ := holds
  have entry : x ∈ (s.slot j).entries := List.mem_of_find?_eq_some found
  refine ⟨fleet, authority, ahead, within, ⟨x.1, there, entry⟩, fun y other past less => ?_⟩
  have ascending := entries_ascending (s.slot j)
  rw [split] at other ascending
  have early : y ∈ before := by
    obtain early | late := List.mem_append.mp other
    · exact early
    · obtain rfl | later := List.mem_cons.mp late
      · omega
      · have more := (List.pairwise_cons.mp (List.pairwise_append.mp ascending).2.1).1 y later
        omega
  have fail := fails y early
  simp only [Bool.not_eq_true', Bool.and_eq_false_iff, decide_eq_false_iff_not] at fail
  obtain (behind | beyond) | away := fail
  · exact absurd past behind
  · exact absurd (less.le.trans within) beyond
  · exact away

/-- A slot that meets the path is cut to before the first segment that it meets. -/
theorem effectiveEnd_of_meetsAt (meets : meetsAt s j path e) :
    (s.slot j).effectiveEnd (e - 1) = e - 1 ∧ e - 1 < (s.slot j).endIx := by
  obtain ⟨-, -, ahead, within, -⟩ := meets
  exact ⟨Nat.max_eq_left (by omega), by omega⟩

theorem meetsAt_congr {t : State} (same : t.slot j = s.slot j) : meetsAt t j path e ↔ meetsAt s j path e := by
  unfold meetsAt
  rw [same]

end Meets

end Sys2Proof.Machine
end

section
/-! SUPPORT. What the preemption of a waiting passenger slot leaves (R42, R101, R113, R114, R155). -/
namespace Sys2Proof.Machine
open Sys2Proof

/-- What a shortening that applies makes of the segment of a route entry that the slot holds. -/
theorem seg_shorten_entry {s : State} {k : SlotIx} {e : Nat} (fleet : k.val < 20)
    (authority : (s.slot k).state.authority = true) (low : (s.slot k).effectiveEnd e < (s.slot k).endIx)
    (once : (s.slot k).route.Nodup) {h : SegIx} {d : Nat} (entry : (h, d) ∈ (s.slot k).entries)
    (held : (s.seg h).holder = some k) :
    (d ≤ (s.slot k).effectiveEnd e → (s.shorten k e).seg h = s.seg h)
      ∧ ((s.slot k).effectiveEnd e < d → (s.slot k).state = .granted →
        (s.shorten k e).seg h = (s.seg h).freed (isFleet k && (s.slot k).wetChoice d) (s.freshWet h)
          ∧ ((s.seg h).carried = true ∨ wetChosen k (s.slot k) d → s.newEntry h ∈ (s.shorten k e).drying))
      ∧ ((s.slot k).effectiveEnd e < d → (s.slot k).state ≠ .granted →
        (s.shorten k e).seg h = { s.seg h with pendingRel := true }) := by
  have only {j : Nat} (other : (h, j) ∈ (s.slot k).entries) : j = d :=
    congrArg Prod.snd (entry_unique once other entry rfl)
  by_cases granted : (s.slot k).state = .granted
  · rw [seg_shorten_granted fleet low granted, (shorten_granted_floor fleet low granted).2.2]
    refine ⟨fun within => ?_, fun past _ => ⟨?_, fun wet => ?_⟩, fun _ sent => absurd granted sent⟩
    · refine seg_releaseWhere_kept fun i other picked => ?_
      have past : (s.slot k).effectiveEnd e < i := by simpa using picked
      rw [only other] at past
      omega
    · exact seg_releaseWhere_freed once entry (by simpa using past) held
    · exact mem_drying_releaseWhere_new once entry (by simpa using past) held wet
  · rw [seg_shorten_sent fleet low authority granted]
    refine ⟨fun within => if_neg ?_, fun _ now => absurd now granted, fun past _ => if_pos ⟨held, (h, d), entry, rfl, past⟩⟩
    rintro ⟨-, ⟨f, i⟩, other, rfl, past⟩
    have past : (s.slot k).effectiveEnd e < i := past
    rw [only other] at past
    omega

section Preempt
variable {w : State} {path : List SegIx} {j : SlotIx}

/-! ### Slots -/

theorem slot_preempt_meets {e : Nat} (meets : meetsAt w j path e) :
    (w.preempt path).slot j = w.shortenedSlot j (e - 1) := by
  have fleet := meets.1
  obtain ⟨before, after, -, found, -, slot, -⟩ :=
    (OwnWork.makeWay fun g => decide (g ∈ path)).turn (s := w) nodup_fleetSlots ((mem_fleetSlots j).mpr fleet)
  have there := (meetsAt_congr found.slot).mpr meets
  rw [preempt_eq, slot, makeWay_shortens there.2.1 (firstReaching_of_meetsAt there), slot_shorten,
    shortenedSlot_alike found]

theorem slot_preempt_clear (clear : ∀ e, ¬ meetsAt w j path e) : (w.preempt path).slot j = w.slot j := by
  rw [preempt_eq]
  by_cases fleet : j.val < 20
  · obtain ⟨before, after, -, found, -, slot, -⟩ :=
      (OwnWork.makeWay fun g => decide (g ∈ path)).turn (s := w) nodup_fleetSlots ((mem_fleetSlots j).mpr fleet)
    rw [slot, makeWay_clear, found.slot]
    intro authority
    cases reaches : ((before.foldl (State.makeWay fun g => decide (g ∈ path)) w).slot j).firstReaching
        (fun g => decide (g ∈ path)) with
    | none => rfl
    | some e => exact absurd ((meetsAt_congr found.slot).mp (meetsAt_of_firstReaching fleet authority reaches)) (clear e)
  · exact ((OwnWork.makeWay _).alike_foldl fun mem => fleet ((mem_fleetSlots j).mp mem)).slot

/-! ### Segments -/

theorem seg_preempt_clear {g : SegIx} (clear : ∀ j e, (w.seg g).holder = some j → ¬ meetsAt w j path e) :
    (w.preempt path).seg g = w.seg g := by
  rw [preempt_eq]
  by_cases held : ∃ j : SlotIx, j.val < 20 ∧ (w.seg g).holder = some j
  · obtain ⟨j, fleet, held⟩ := held
    obtain ⟨before, after, -, found, seg, -, after'⟩ :=
      (OwnWork.makeWay fun g => decide (g ∈ path)).turn (s := w) nodup_fleetSlots ((mem_fleetSlots j).mpr fleet)
    rw [after' g held, makeWay_clear, seg g held]
    intro authority
    cases reaches : ((before.foldl (State.makeWay fun g => decide (g ∈ path)) w).slot j).firstReaching
        (fun g => decide (g ∈ path)) with
    | none => rfl
    | some e => exact absurd ((meetsAt_congr found.slot).mp (meetsAt_of_firstReaching fleet authority reaches)) (clear j e held)
  · exact (OwnWork.makeWay _).seg_foldl fun j mem same => held ⟨j, (mem_fleetSlots j).mp mem, same⟩

/-! ### The drying list -/

theorem drying_makeWay_mono {want : SegIx → Bool} {d : DryEntry} (listed : d ∈ w.drying) :
    d ∈ (w.makeWay want j).drying := by
  obtain same | ⟨e, -, -, short⟩ := makeWay_cases want w j
  · rw [same]; exact listed
  · rw [short]; exact drying_shorten_mono listed

theorem drying_foldl_makeWay_mono {want : SegIx → Bool} (l : List SlotIx) {w : State} {d : DryEntry}
    (listed : d ∈ w.drying) : d ∈ (l.foldl (State.makeWay want) w).drying := by
  induction l generalizing w with
  | nil => exact listed
  | cons j l ih => exact ih (drying_makeWay_mono listed)

theorem drying_preempt_mono {d : DryEntry} (listed : d ∈ w.drying) : d ∈ (w.preempt path).drying := by
  rw [preempt_eq]
  exact drying_foldl_makeWay_mono _ listed

/-- The segment of an entry at its slot's turn (R113, R114). -/
theorem seg_preempt_entry {e : Nat} (meets : meetsAt w j path e) (once : (w.slot j).route.Nodup) {h : SegIx} {d : Nat}
    (entry : (h, d) ∈ (w.slot j).entries) (held : (w.seg h).holder = some j) :
    (d < e → (w.preempt path).seg h = w.seg h)
      ∧ (e ≤ d → (w.slot j).state = .granted →
        (w.preempt path).seg h = (w.seg h).freed (isFleet j && (w.slot j).wetChoice d) (w.freshWet h)
          ∧ ((w.seg h).carried = true ∨ wetChosen j (w.slot j) d → w.newEntry h ∈ (w.preempt path).drying))
      ∧ (e ≤ d → (w.slot j).state ≠ .granted → (w.preempt path).seg h = { w.seg h with pendingRel := true }) := by
  have fleet := meets.1
  obtain ⟨before, after, split, found, seg, -, after'⟩ :=
    (OwnWork.makeWay fun g => decide (g ∈ path)).turn (s := w) nodup_fleetSlots ((mem_fleetSlots j).mpr fleet)
  have listed {c : DryEntry} (early : c ∈ (State.makeWay (fun g => decide (g ∈ path))
      (before.foldl (State.makeWay fun g => decide (g ∈ path)) w) j).drying) : c ∈ (w.preempt path).drying := by
    rw [preempt_eq, split, List.foldl_append, List.foldl_cons]
    exact drying_foldl_makeWay_mono _ early
  have there := (meetsAt_congr found.slot).mpr meets
  have turn := makeWay_shortens there.2.1 (firstReaching_of_meetsAt there)
  rw [turn] at listed
  generalize before.foldl (State.makeWay fun g => decide (g ∈ path)) w = t at *
  obtain ⟨least, low⟩ := effectiveEnd_of_meetsAt there
  have ahead : 1 ≤ e := by have := there.2.2.1; omega
  have result : (w.preempt path).seg h = (t.shorten j (e - 1)).seg h := by rw [preempt_eq, after' h held, turn]
  obtain ⟨kept, freed, pending⟩ := seg_shorten_entry (s := t) fleet there.2.1 (least.symm ▸ low)
    (found.slot.symm ▸ once) (h := h) (d := d) (found.slot.symm ▸ entry) ((seg h held).symm ▸ held)
  rw [least, seg h held, found.slot, freshWet_of_outside found.outside, newEntry_of_outside found.outside] at *
  rw [result]
  refine ⟨fun early => kept (by omega), fun late granted => ?_, fun late sent => pending (by omega) sent⟩
  obtain ⟨record, new⟩ := freed (by omega) granted
  exact ⟨record, fun wet => listed (new wet)⟩

end Preempt

end Sys2Proof.Machine
end

section
/-! SUPPORT. What the preemption of a waiting passenger slot can add to the drying list, count in the pinch table and say
(R44, R48, R112, R155). -/
namespace Sys2Proof.Machine
open Sys2Proof

section Preempt
variable {path : List SegIx}

/-- A segment that a slot of a path releases wet as it makes way, at the start of the run. -/
def State.dripsAt (w : State) (path : List SegIx) (j : SlotIx) (d : DryEntry) : Prop :=
  ∃ e i, meetsAt w j path e ∧ (w.slot j).state = .granted ∧ (d.seg, i) ∈ (w.slot j).entries ∧ e ≤ i
    ∧ (w.seg d.seg).holder = some j ∧ ((w.seg d.seg).carried = true ∨ wetChosen j (w.slot j) i) ∧ d = w.newEntry d.seg

theorem mem_drying_makeWay {w : State} {j : SlotIx} (fleet : j.val < 20) {d : DryEntry}
    (listed : d ∈ (w.makeWay (fun g => decide (g ∈ path)) j).drying) : d ∈ w.drying ∨ w.dripsAt path j d := by
  obtain same | ⟨e, authority, reaches, short⟩ := makeWay_cases (fun g => decide (g ∈ path)) w j
  · rw [same] at listed; exact .inl listed
  · have meets := meetsAt_of_firstReaching fleet authority reaches
    obtain ⟨least, low⟩ := effectiveEnd_of_meetsAt meets
    have ahead : 1 ≤ e := by have := meets.2.2.1; omega
    rw [short] at listed
    refine (mem_drying_shorten listed).imp_right fun ⟨granted, held, new, i, entry, past, wet⟩ => ?_
    rw [least] at past
    exact ⟨e, i, meets, granted, entry, by omega, held, wet, new⟩

/-- What a slot drips at its turn it drips at the start: no other slot's turn reaches it. -/
theorem dripsAt_of_makeWay {w : State} {i j : SlotIx} (ne : j ≠ i) {d : DryEntry}
    (drips : (w.makeWay (fun g => decide (g ∈ path)) i).dripsAt path j d) : w.dripsAt path j d := by
  have own := OwnWork.makeWay fun g => decide (g ∈ path)
  have alike := own.others w i j ne
  obtain ⟨e, n, meets, granted, entry, late, held, wet, new⟩ := drips
  have before : (w.seg d.seg).holder = some j := (alike.holds d.seg).mp held
  have seg : (w.makeWay (fun g => decide (g ∈ path)) i).seg d.seg = w.seg d.seg :=
    own.seg w i d.seg (by rw [before]; simpa using ne)
  rw [alike.slot] at granted entry wet
  rw [seg] at wet
  rw [newEntry_of_outside alike.outside] at new
  exact ⟨e, n, (meetsAt_congr alike.slot).mp meets, granted, entry, late, before, wet, new⟩

theorem mem_drying_preempt {w : State} {d : DryEntry} (listed : d ∈ (w.preempt path).drying) :
    d ∈ w.drying ∨ ∃ j, w.dripsAt path j d := by
  have general (l : List SlotIx) (once : l.Nodup) (fleet : ∀ j ∈ l, j.val < 20) (w : State)
      (listed : d ∈ (l.foldl (State.makeWay fun g => decide (g ∈ path)) w).drying) :
      d ∈ w.drying ∨ ∃ j ∈ l, w.dripsAt path j d := by
    induction l generalizing w with
    | nil => exact .inl listed
    | cons i l ih =>
      obtain ⟨apart, once⟩ := List.nodup_cons.mp once
      obtain now | ⟨j, mem, drips⟩ := ih once (fun j mem => fleet j (List.mem_cons_of_mem _ mem)) _ listed
      · exact (mem_drying_makeWay (fleet i List.mem_cons_self) now).imp_right fun drips => ⟨i, List.mem_cons_self, drips⟩
      · have ne : j ≠ i := fun same => apart (same ▸ mem)
        exact .inr ⟨j, List.mem_cons_of_mem _ mem, dripsAt_of_makeWay ne drips⟩
  rw [preempt_eq] at listed
  exact (general _ nodup_fleetSlots (fun j => (mem_fleetSlots j).mp) w listed).imp_right fun ⟨j, _, drips⟩ => ⟨j, drips⟩

/-! ### The pinch table -/

theorem pinchEntry_preempt {w : State} {p : PinchIx}
    (away : ∀ j e, meetsAt w j path e → (w.slot j).state = .granted → ∀ g ∈ (w.slot j).route,
      (w.fixed g).pinch ≠ some p) : (w.preempt path).pinchEntry p = w.pinchEntry p := by
  have own := OwnWork.makeWay fun g => decide (g ∈ path)
  have general (l : List SlotIx) (once : l.Nodup) (fleet : ∀ j ∈ l, j.val < 20) (w : State)
      (away : ∀ j ∈ l, ∀ e, meetsAt w j path e → (w.slot j).state = .granted → ∀ g ∈ (w.slot j).route,
        (w.fixed g).pinch ≠ some p) :
      (l.foldl (State.makeWay fun g => decide (g ∈ path)) w).pinchEntry p = w.pinchEntry p := by
    induction l generalizing w with
    | nil => rfl
    | cons i l ih =>
      obtain ⟨apart, once⟩ := List.nodup_cons.mp once
      have first : (w.makeWay (fun g => decide (g ∈ path)) i).pinchEntry p = w.pinchEntry p := by
        obtain same | ⟨e, authority, reaches, short⟩ := makeWay_cases (fun g => decide (g ∈ path)) w i
        · rw [same]
        · rw [short]
          exact pinchEntry_shorten (away i List.mem_cons_self e
            (meetsAt_of_firstReaching (fleet i List.mem_cons_self) authority reaches))
      rw [List.foldl_cons, ih once (fun j mem => fleet j (List.mem_cons_of_mem _ mem)), first]
      intro j mem e meets granted g route
      have alike := own.others w i j fun same => apart (same ▸ mem)
      rw [alike.slot] at granted route
      rw [fixed_of_outside alike.outside]
      exact away j (List.mem_cons_of_mem _ mem) e ((meetsAt_congr alike.slot).mp meets) granted g route
  rw [preempt_eq]
  exact general _ nodup_fleetSlots (fun j => (mem_fleetSlots j).mp) w fun j _ => away j

/-! ### The notices and the frame -/

theorem fw_preempt {calm : Prop} {s t : State} (h : FloorWork calm s t) (route : List SegIx) :
    FloorWork calm s (t.preempt route) :=
  fw_foldl _ (fun _ _ m => .ite _ (fun _ => fw_shortenBefore m _ _) (fun _ => m)) _ h

theorem notices_preempt {s u : State} {l : List (NoticeKind × List Word)} {flags : List DspFlag}
    (h : s.notices u l flags) (outside : u.outside = s.outside) (route : List SegIx) :
    ∃ l', s.notices (u.preempt route) (l ++ l') flags ∧ ∀ p ∈ l', p.1 = .shortened := by
  have general (slots : List SlotIx) (u : State) (l : List (NoticeKind × List Word)) (h : s.notices u l flags)
      (outside : u.outside = s.outside) :
      ∃ l', s.notices (slots.foldl (State.makeWay fun g => decide (g ∈ route)) u) (l ++ l') flags
        ∧ ∀ p ∈ l', p.1 = .shortened := by
    induction slots generalizing u l with
    | nil => exact ⟨[], by rwa [List.append_nil], fun p mem => by cases mem⟩
    | cons j slots ih =>
      have alike : (u.makeWay (fun g => decide (g ∈ route)) j).outside = u.outside := by
        obtain same | ⟨e, -, -, short⟩ := makeWay_cases (fun g => decide (g ∈ route)) u j
        · rw [same]
        · rw [short, outside_shorten]
      obtain ⟨l₁, told₁, all₁⟩ : ∃ l', s.notices (u.makeWay (fun g => decide (g ∈ route)) j) (l ++ l') flags
          ∧ ∀ p ∈ l', p.1 = .shortened := by
        obtain same | ⟨e, -, -, short⟩ := makeWay_cases (fun g => decide (g ∈ route)) u j
        · rw [same]
          exact ⟨[], by rwa [List.append_nil], fun p mem => by cases mem⟩
        · rw [short]
          exact notices_shorten h outside j (e - 1)
      obtain ⟨l₂, told₂, all₂⟩ := ih _ _ told₁ (alike.trans outside)
      refine ⟨l₁ ++ l₂, by rwa [← List.append_assoc], fun p mem => ?_⟩
      exact (List.mem_append.mp mem).elim (all₁ p) (all₂ p)
  rw [preempt_eq]
  exact general _ u l h outside

end Preempt

end Sys2Proof.Machine
end

section
/-! PROOFS. The commit of a passenger slot (O43; R41, R42, R59, R67, R68, R101, R113, R114, R154, R155, R157). -/
namespace Sys2Proof.Machine
open Sys2Proof

section Claims
variable {s : State} {k : SlotIx}

/-! ### The claims of a waiting passenger slot (R46, R68) -/

/-- A passenger slot's claims on a list of segments. -/
def State.claimAll (k : SlotIx) (l : List SegIx) (s : State) : State := l.foldl (fun s g => s.addClaim k g) s

theorem segStores_claimAll (l : List SegIx) (s : State) : s.segStores (s.claimAll k l) := by
  induction l generalizing s with
  | nil => rfl
  | cons g l ih =>
    have rest : (s.addClaim k g).segStores ((s.addClaim k g).claimAll k l) := ih _
    have cons : s.claimAll k (g :: l) = (s.addClaim k g).claimAll k l := rfl
    unfold State.segStores at *
    rw [cons, rest]
    rfl

theorem silent_claimAll (l : List SegIx) (s : State) : s.silent (s.claimAll k l) :=
  silent_foldl (fun s g => s.addClaim k g) (fun _ _ => ⟨rfl, rfl⟩) l s

theorem seg_addClaim (s : State) (g h : SegIx) : (s.addClaim k g).seg h
    = if g = h then { s.seg g with claims := insertBy Fin.val k (s.seg g).claims } else s.seg h := seg_setSeg s g h _

/-- Claims change nothing else of a segment. -/
theorem seg_claimAll (l : List SegIx) (s : State) (h : SegIx) :
    (s.claimAll k l).seg h = { s.seg h with claims := ((s.claimAll k l).seg h).claims }
      ∧ ∀ c, c ∈ ((s.claimAll k l).seg h).claims ↔ c ∈ (s.seg h).claims ∨ (c = k ∧ h ∈ l) := by
  induction l generalizing s with
  | nil => exact ⟨rfl, fun c => by simp [State.claimAll]⟩
  | cons g l ih =>
    have cons : s.claimAll k (g :: l) = (s.addClaim k g).claimAll k l := rfl
    obtain ⟨shape, claims⟩ := ih (s.addClaim k g)
    rw [cons]
    rw [seg_addClaim] at shape claims
    by_cases here : g = h
    · subst here
      rw [if_pos rfl] at shape claims
      refine ⟨shape, fun c => ?_⟩
      rw [claims, mem_insertBy Fin.val fun _ _ => Fin.ext]
      simp only [List.mem_cons, true_or, and_true]
      tauto
    · rw [if_neg here] at shape claims
      refine ⟨shape, fun c => ?_⟩
      have apart : h ≠ g := fun same => here same.symm
      rw [claims]
      simp [apart]

end Claims

/-! ### The slot becomes WAITING (R67) -/

section Waiting
variable {s : State} {k : SlotIx}

/-- The record of a passenger slot that begins to wait over its captured route. -/
def Slot.waitingOver (r : Slot) (route : List SegIx) (f : Result × Nat) (d : Word) : Slot :=
  { r with state := .waiting, route := route, result := f.1, failIx := f.2, deadline := some d }

/-- A passenger slot that waits with its claims, before the preemption. -/
def State.waitClaiming (k : SlotIx) (f : Result × Nat) (s : State) : State :=
  ((s.capturePassenger k).beginWaiting k f s.passengerWaitLimit).claimAll k (s.slot k).draft.captured

theorem slot_capturePassenger (j : SlotIx) : (s.capturePassenger k).slot j
    = if k = j then { s.slot k with route := (s.slot k).draft.captured } else s.slot j := slot_setSlot s k j _

theorem slot_beginWaiting (f : Result × Nat) (limit : Nat) (j : SlotIx) : (s.beginWaiting k f limit).slot j
    = if k = j then { s.slot k with
        state := .waiting, deadline := some (s.after (10 * limit)), result := f.1, failIx := f.2 } else s.slot j := by
  unfold State.beginWaiting
  rw [slot_notify]
  exact slot_setSlot s k j _

theorem segs_beginWaiting (f : Result × Nat) (limit : Nat) : (s.beginWaiting k f limit).segs = s.segs := by
  unfold State.beginWaiting
  rw [segs_notify]
  rfl

theorem frame_beginWaiting (f : Result × Nat) (limit : Nat) : s.beginWaiting k f limit = { s with
    slots := (s.beginWaiting k f limit).slots, queue := joinQueue k s.queue,
    staging := (s.beginWaiting k f limit).staging, dspFlags := (s.beginWaiting k f limit).dspFlags,
    dirty := (s.beginWaiting k f limit).dirty } := by
  have frame := eq_of_outside (outside_beginWaiting s k f limit)
  have kept : (s.beginWaiting k f limit).pinch = s.pinch ∧ (s.beginWaiting k f limit).freeing = s.freeing
      ∧ (s.beginWaiting k f limit).cells = s.cells ∧ (s.beginWaiting k f limit).scrubbers = s.scrubbers
      ∧ (s.beginWaiting k f limit).drying = s.drying ∧ (s.beginWaiting k f limit).zones = s.zones
      ∧ (s.beginWaiting k f limit).opsFlags = s.opsFlags
      ∧ (s.beginWaiting k f limit).queue = joinQueue k s.queue := by
    simp [State.beginWaiting, State.setQueue]
  obtain ⟨pinch, freeing, cells, scrubbers, drying, zones, ops, queue⟩ := kept
  rw [segs_beginWaiting, pinch, freeing, cells, scrubbers, drying, zones, ops, queue] at frame
  exact frame

theorem notices_beginWaiting {u : State} (f : Result × Nat) (limit : Nat) (h : u.notices s [] [])
    (outside : s.outside = u.outside) : u.notices (s.beginWaiting k f limit)
      [(.waiting, [pack4 (k.val + 1) f.1.code f.2 0, s.after (10 * limit)])] [] := by
  unfold State.beginWaiting
  dsimp only
  generalize record : ({ s.slot k with
    state := .waiting, deadline := some (s.after (10 * limit)), result := f.1, failIx := f.2 } : Slot) = r
  have stored : u.notices (((s.setSlot k r).setQueue (joinQueue k (s.setSlot k r).queue)).markDirty (.slotStatus k)) []
      [] := notices_silent h ⟨by simp [State.setQueue], by simp [State.setQueue]⟩
  have outside' : (((s.setSlot k r).setQueue (joinQueue k (s.setSlot k r).queue)).markDirty (.slotStatus k)).outside
      = u.outside := by simpa using outside
  exact notices_notify stored (congrArg Outside.tuning outside') (congrArg Outside.clock outside')
    (congrArg Outside.held outside') _ _

theorem dirty_beginWaiting (f : Result × Nat) (limit : Nat) : .slotStatus k ∈ (s.beginWaiting k f limit).dirty := by
  have kept (t : State) (p : List Word) : Moves Slot.KeepsRoute (t.markDirty (.slotStatus k))
      ((t.markDirty (.slotStatus k)).notify .waiting p) := mv_notify (.refl _) _ _
  exact (kept _ _).dirty ((mem_dirty_markDirty _ _ _).mpr (.inl rfl))

theorem slot_waitClaiming (f : Result × Nat) (j : SlotIx) : (s.waitClaiming k f).slot j = if k = j then
    (s.slot k).waitingOver (s.slot k).draft.captured f (s.after (10 * s.passengerWaitLimit)) else s.slot j := by
  have claimed := segStores_claimAll (k := k) (s.slot k).draft.captured
    ((s.capturePassenger k).beginWaiting k f s.passengerWaitLimit)
  have slots : (s.waitClaiming k f).slot j
      = ((s.capturePassenger k).beginWaiting k f s.passengerWaitLimit).slot j := by
    rw [State.waitClaiming, claimed]
    rfl
  rw [slots, slot_beginWaiting, slot_capturePassenger, slot_capturePassenger, if_pos rfl]
  by_cases here : k = j
  · rw [if_pos here, if_pos here]
    rfl
  · rw [if_neg here, if_neg here, if_neg here]

theorem seg_waitClaiming (f : Result × Nat) (g : SegIx) :
    (s.waitClaiming k f).seg g = { s.seg g with claims := ((s.waitClaiming k f).seg g).claims }
      ∧ ∀ c, c ∈ ((s.waitClaiming k f).seg g).claims
        ↔ c ∈ (s.seg g).claims ∨ (c = k ∧ g ∈ (s.slot k).draft.captured) := by
  have before : ((s.capturePassenger k).beginWaiting k f s.passengerWaitLimit).seg g = s.seg g := by
    unfold State.seg
    rw [segs_beginWaiting]
    rfl
  have claimed := seg_claimAll (k := k) (s.slot k).draft.captured
    ((s.capturePassenger k).beginWaiting k f s.passengerWaitLimit) g
  rwa [before] at claimed

theorem frame_waitClaiming (f : Result × Nat) : s.waitClaiming k f = { s with
    slots := (s.waitClaiming k f).slots, segs := (s.waitClaiming k f).segs, queue := joinQueue k s.queue,
    staging := (s.waitClaiming k f).staging, dspFlags := (s.waitClaiming k f).dspFlags,
    dirty := (s.waitClaiming k f).dirty } := by
  have claimed : s.waitClaiming k f = _ := segStores_claimAll (k := k) (s.slot k).draft.captured
    ((s.capturePassenger k).beginWaiting k f s.passengerWaitLimit)
  have waits := frame_beginWaiting (s := s.capturePassenger k) (k := k) f s.passengerWaitLimit
  rw [claimed, waits]
  rfl

theorem notices_waitClaiming {u : State} (f : Result × Nat) (h : u.notices s [] []) (outside : s.outside = u.outside) :
    u.notices (s.waitClaiming k f) [(.waiting, [pack4 (k.val + 1) f.1.code f.2 0,
      s.after (10 * s.passengerWaitLimit)])] [] := by
  have before : u.notices (s.capturePassenger k) [] [] := notices_silent h ⟨rfl, rfl⟩
  have told := notices_beginWaiting (k := k) f s.passengerWaitLimit before outside
  exact notices_silent told (silent_claimAll _ _)

theorem dirty_waitClaiming (f : Result × Nat) : .slotStatus k ∈ (s.waitClaiming k f).dirty := by
  have kept (t : State) (l : List SegIx) : Moves Slot.KeepsRoute t (t.claimAll k l) :=
    mv_foldl _ (fun _ g m => mv_addClaim m k g) _ (.refl _)
  exact (kept _ _).dirty (dirty_beginWaiting f _)

theorem commitPassenger_waits {f : Result × Nat} (passes : s.structuralPassenger k = none)
    (fails : (s.capturePassenger k).availability k = some f) :
    s.commitPassenger k = (s.waitClaiming k f).preempt (s.slot k).draft.captured := by
  have waits : (((s.capturePassenger k).beginWaiting k f s.passengerWaitLimit).slot k).route
      = (s.slot k).draft.captured := by
    rw [slot_beginWaiting, if_pos rfl, slot_capturePassenger, if_pos rfl]
  have claims : ((s.waitClaiming k f).slot k).route = (s.slot k).draft.captured := by
    rw [slot_waitClaiming, if_pos rfl]
    rfl
  unfold State.commitPassenger
  rw [passes]
  dsimp only
  rw [fails]
  dsimp only
  rw [waits]
  exact congrArg (fun l => (s.waitClaiming k f).preempt l) claims

theorem commitPassenger_activates (passes : s.structuralPassenger k = none)
    (available : (s.capturePassenger k).availability k = none) :
    s.commitPassenger k = (s.capturePassenger k).activate k := by
  unfold State.commitPassenger
  rw [passes]
  dsimp only
  rw [available]

theorem availability_capturePassenger (passenger : isFleet k = false) : (s.capturePassenger k).availability k
    = firstFailure (fun _ g => s.passengerTest g) ((s.slot k).draft.captured.zipIdx 1) := by
  rw [availability_passenger passenger, slot_capturePassenger, if_pos rfl]
  rfl

end Waiting

end Sys2Proof.Machine
end

section
/-! PROOFS. The commit of a passenger slot, activated or waiting (O43). -/
namespace Sys2Proof.Machine
open Sys2Proof

/-- What the preemption finds: the state of the commit but for the waiting slot, its claims, the queue and the notice. -/
structure Claiming (s w : State) (k : SlotIx) : Prop where
  outside : w.outside = s.outside
  slot : ∀ j, j ≠ k → w.slot j = s.slot j
  seg : ∀ g, w.seg g = { s.seg g with claims := (w.seg g).claims }
  scrubbers : w.scrubbers = s.scrubbers
  zones : w.zones = s.zones
  cells : w.cells = s.cells
  ops : w.opsFlags = s.opsFlags
  drying : w.drying = s.drying
  pinch : w.pinch = s.pinch

theorem claiming_waitClaiming (s : State) (k : SlotIx) (f : Result × Nat) :
    Claiming s (s.clearFreeing.waitClaiming k f) k := by
  have frame := frame_waitClaiming (s := s.clearFreeing) (k := k) f
  refine ⟨?_, fun j ne => ?_, fun g => (seg_waitClaiming (s := s.clearFreeing) (k := k) f g).1, ?_, ?_, ?_, ?_, ?_, ?_⟩
  · rw [frame]; rfl
  · rw [slot_waitClaiming, if_neg ne.symm]; rfl
  all_goals rw [frame]; rfl

section Claimed
variable {s w : State} {k : SlotIx} (found : Claiming s w k) (passenger : 20 ≤ k.val) {path : List SegIx} {j : SlotIx}
include found

theorem Claiming.holder (g : SegIx) : (w.seg g).holder = (s.seg g).holder := by rw [found.seg g]

theorem Claiming.alike (ne : j ≠ k) : s.Alike j w :=
  ⟨found.slot j ne, fun g => by rw [found.holder], found.scrubbers, found.outside⟩

/-! ### Slots -/

theorem Claiming.slot_spared (ne : j ≠ k) (clear : ∀ e, ¬ meetsAt s j path e) : (w.preempt path).slot j = s.slot j := by
  have same := found.slot j ne
  rw [slot_preempt_clear fun e meets => clear e ((meetsAt_congr same).mp meets), same]

include passenger

theorem Claiming.meets {e : Nat} : meetsAt w j path e ↔ meetsAt s j path e := by
  by_cases own : j = k
  · have never (v : State) : ¬ meetsAt v j path e := fun meets => by
      have fleet := meets.1
      rw [own] at fleet
      omega
    exact iff_of_false (never w) (never s)
  · exact meetsAt_congr (found.slot j own)

omit found in
theorem ne_of_meetsAt {e : Nat} (meets : meetsAt s j path e) : j ≠ k := by
  rintro rfl
  have fleet := meets.1
  omega

omit found in
theorem slot_preempt_own : (w.preempt path).slot k = w.slot k :=
  slot_preempt_clear fun e meets => by
    have fleet := meets.1
    omega

theorem Claiming.cut {e : Nat} (meets : meetsAt s j path e) : s.cut (w.preempt path) j (e - 1) := by
  obtain ⟨least, low⟩ := effectiveEnd_of_meetsAt meets
  have slot := slot_preempt_meets ((found.meets passenger).mpr meets)
  rw [shortenedSlot_alike (found.alike (ne_of_meetsAt passenger meets))] at slot
  have cut := cut_shortenedSlot meets.1 meets.2.1 (least.symm ▸ low) slot
  rwa [least] at cut

/-! ### Segments -/

theorem Claiming.seg_spared {g : SegIx} (clear : ∀ j e, (s.seg g).holder = some j → ¬ meetsAt s j path e) :
    (w.preempt path).seg g = { s.seg g with claims := ((w.preempt path).seg g).claims } := by
  have kept : (w.preempt path).seg g = w.seg g := seg_preempt_clear fun j e held meets =>
    clear j e ((found.holder g).symm.trans held) ((found.meets passenger).mp meets)
  rw [kept]
  exact found.seg g

omit passenger in
/-- A claim does not change what a release leaves beside the claims. -/
theorem Claiming.releasedAs {g : SegIx} {c : Bool} {wet : Prop} (choice : c = true ↔ wet) :
    s.releasedAs g wet ((w.seg g).freed c (w.freshWet g))
      ∧ ((w.seg g).freed c (w.freshWet g)).occupant = (s.seg g).occupant := by
  rw [freshWet_of_outside found.outside]
  unfold State.releasedAs Seg.freed
  rw [← choice, found.seg g]
  split
  case isTrue wetted => exact ⟨⟨rfl, fun _ => ⟨rfl, rfl⟩, fun dry => absurd wetted dry⟩, rfl⟩
  case isFalse dry => exact ⟨⟨rfl, fun wetted => absurd wetted dry, fun _ => ⟨rfl, rfl⟩⟩, rfl⟩

theorem Claiming.seg_entry {e : Nat} (meets : meetsAt s j path e) (once : (s.slot j).route.Nodup) {h : SegIx} {d : Nat}
    (entry : (h, d) ∈ (s.slot j).entries) (held : (s.seg h).holder = some j) :
    (d < e → (w.preempt path).seg h = { s.seg h with claims := ((w.preempt path).seg h).claims })
      ∧ (e ≤ d → (s.slot j).state = .granted →
        s.releasedAs h (wetChosen j (s.slot j) d) ((w.preempt path).seg h)
          ∧ ((w.preempt path).seg h).occupant = (s.seg h).occupant
          ∧ ((s.seg h).carried = true ∨ wetChosen j (s.slot j) d → s.newEntry h ∈ (w.preempt path).drying))
      ∧ (e ≤ d → (s.slot j).state ≠ .granted → (w.preempt path).seg h = { s.seg h with
          pendingRel := true, claims := ((w.preempt path).seg h).claims }) := by
  have slot := found.slot j (ne_of_meetsAt passenger meets)
  obtain ⟨kept, freed, pending⟩ := seg_preempt_entry ((found.meets passenger).mpr meets) (slot.symm ▸ once)
    (h := h) (d := d) (slot.symm ▸ entry) ((found.holder h).trans held)
  have carried : (w.seg h).carried = (s.seg h).carried := by rw [found.seg h]
  rw [slot, newEntry_of_outside found.outside] at *
  refine ⟨fun early => ?_, fun late granted => ?_, fun late sent => ?_⟩
  · rw [kept early]
    exact found.seg h
  · obtain ⟨record, new⟩ := freed late granted
    rw [carried] at new
    obtain ⟨released, occupant⟩ := found.releasedAs (g := h) (wetChoice_iff j (s.slot j) d)
    rw [record]
    exact ⟨released, occupant, new⟩
  · rw [pending late sent, found.seg h]

/-! ### The drying list and the pinch table -/

theorem Claiming.mem_drying {d : DryEntry} (listed : d ∈ (w.preempt path).drying) : d ∈ s.drying
    ∨ d = s.newEntry d.seg ∧ ∃ j e i, meetsAt s j path e ∧ (s.slot j).state = .granted
      ∧ (d.seg, i) ∈ (s.slot j).entries ∧ e ≤ i ∧ (s.seg d.seg).holder = some j
      ∧ ((s.seg d.seg).carried = true ∨ wetChosen j (s.slot j) i) := by
  refine (mem_drying_preempt listed).imp (fun old => found.drying ▸ old) ?_
  rintro ⟨j, e, i, meets, granted, entry, late, held, wet, new⟩
  have meets := (found.meets passenger).mp meets
  have carried : (w.seg d.seg).carried = (s.seg d.seg).carried := by rw [found.seg d.seg]
  rw [found.slot j (ne_of_meetsAt passenger meets)] at granted entry wet
  rw [carried] at wet
  rw [newEntry_of_outside found.outside] at new
  exact ⟨new, j, e, i, meets, granted, entry, late, (found.holder _).symm.trans held, wet⟩

theorem Claiming.pinchEntry {p : PinchIx} (away : ∀ j e, meetsAt s j path e → (s.slot j).state = .granted →
    ∀ g ∈ (s.slot j).route, (s.fixed g).pinch ≠ some p) : (w.preempt path).pinchEntry p = s.pinchEntry p := by
  have entry : w.pinchEntry p = s.pinchEntry p := by unfold State.pinchEntry; rw [found.pinch]
  rw [pinchEntry_preempt, entry]
  intro j e meets granted g route
  have meets := (found.meets passenger).mp meets
  rw [found.slot j (ne_of_meetsAt passenger meets)] at granted route
  rw [fixed_of_outside found.outside]
  exact away j e meets granted g route

end Claimed

/-- Settles O43: an activation, or a wait whose claims stand before the fleet makes way. -/
theorem passengerCommit : Obligations.PassengerCommit := by
  intro s k service passenger idle structural
  have isPassenger : isFleet k = false := by simpa [isFleet] using passenger
  have notFleet : ¬ isFleet k = true := by rw [isPassenger]; exact Bool.false_ne_true
  have ran := exec_commitRow (k := k) service false
  rw [commitWrite_taken service idle, if_neg notFleet] at ran
  have quiet : s.notices s.clearFreeing [] [] := notices_silent (notices_self s) ⟨rfl, rfl⟩
  have pass := availability_capturePassenger (s := s.clearFreeing) isPassenger
  refine ⟨fun available => ?_, fun r i fails => ?_⟩
  · have record : (s.clearFreeing.capturePassenger k).slot k = { s.slot k with route := (s.slot k).draft.captured } :=
      (slot_capturePassenger k).trans (if_pos rfl)
    have free : (s.clearFreeing.capturePassenger k).availability k = none :=
      pass.trans (firstFailure_of_none fun e mem => available e.1 (List.fst_mem_of_mem_zipIdx mem))
    have slot := slot_activate (s := s.clearFreeing.capturePassenger k) (k := k)
    have seg := seg_activate (s := s.clearFreeing.capturePassenger k) isPassenger
    have told := notices_activate (k := k) (s := s.clearFreeing.capturePassenger k) (u := s)
      (notices_silent quiet ⟨rfl, rfl⟩) rfl
    rw [record] at slot seg told
    rw [commitPassenger_activates (s := s.clearFreeing) structural free] at ran
    refine ⟨_, _, ran, rfl, frame_activate isPassenger, ⟨?_, fun j ne => ?_⟩, seg, ops_activate isPassenger, ?_,
      dirty_activate⟩
    · rw [slot, if_pos rfl]
      rfl
    · rw [slot, if_neg ne.symm, slot_capturePassenger, if_neg ne.symm]
      rfl
    · rw [slot, if_pos rfl]
      exact told
  · have failure : (s.clearFreeing.capturePassenger k).availability k = some (r, i) := pass.trans fails
    rw [commitPassenger_waits (s := s.clearFreeing) structural failure] at ran
    have found := claiming_waitClaiming s k (r, i)
    have queue : (s.clearFreeing.waitClaiming k (r, i)).queue = joinQueue k s.queue := by
      rw [frame_waitClaiming]; rfl
    have waits : (s.clearFreeing.waitClaiming k (r, i)).slot k = { s.slot k with
        state := .waiting, route := (s.slot k).draft.captured, result := r, failIx := i,
        deadline := some (s.clock + BitVec.ofNat 32 (10 * s.passengerWaitLimit)) } :=
      (slot_waitClaiming (s := s.clearFreeing) (r, i) k).trans (if_pos rfl)
    have claims (g : SegIx) (c : SlotIx) : c ∈ ((s.clearFreeing.waitClaiming k (r, i)).seg g).claims
        ↔ c ∈ (s.seg g).claims ∨ (c = k ∧ g ∈ (s.slot k).draft.captured) :=
      (seg_waitClaiming (s := s.clearFreeing) (k := k) (r, i) g).2 c
    obtain ⟨l, told, short⟩ := notices_preempt (notices_waitClaiming (k := k) (r, i) quiet rfl) found.outside
      (s.slot k).draft.captured
    have marked := (mv_preempt (.refl _) (s.slot k).draft.captured).dirty
      (dirty_waitClaiming (s := s.clearFreeing) (k := k) (r, i))
    have work := fw_preempt (FloorWork.refl (calm := True) (s.clearFreeing.waitClaiming k (r, i))) (s.slot k).draft.captured
    obtain ⟨queue', scrubbers, ops, claims'⟩ := work.still trivial
    refine ⟨(s.clearFreeing.waitClaiming k (r, i)).preempt (s.slot k).draft.captured, _, ran, rfl,
      work.outside.trans found.outside, scrubbers.trans found.scrubbers, work.zones.trans found.zones,
      work.cells.trans found.cells, ops.trans found.ops, ?_, (slot_preempt_own passenger).trans waits,
      fun g c => by rw [claims']; exact claims g c, fun j ne other => ?_,
      fun j e meets => ⟨found.cut passenger meets, fun h d once entry held => found.seg_entry passenger meets once entry held⟩,
      fun j fleet _ clear => ?_, fun g clear => found.seg_spared passenger clear,
      fun d listed => drying_preempt_mono (found.drying.symm ▸ listed),
      fun d listed => found.mem_drying passenger listed, fun p away => found.pinchEntry passenger away, ⟨l, told, short⟩, marked⟩
    · rw [queue', queue, joinQueue, if_neg notFleet]
    · exact found.slot_spared ne fun e meets => other ⟨meets.1, meets.2.1⟩
    · refine found.slot_spared (fun same => ?_) clear
      rw [same] at fleet
      omega

end Sys2Proof.Machine
end

section
/-! SUPPORT. The steps of a withdrawal: occupants alone change, and a fleet slot ahead is shortened (R43, R108). -/
namespace Sys2Proof.Machine
open Sys2Proof

/-! ### Occupants -/

/-- Only occupants, and the pinch groups counted over them, differ. -/
def State.occupantStores (s t : State) : Prop :=
  t = { s with segs := t.segs, pinch := t.pinch, freeing := t.freeing, dirty := t.dirty }
    ∧ ∀ h, t.seg h = { s.seg h with occupant := (t.seg h).occupant }

section Occupants
variable {s t u : State}

theorem occupantStores_refl (s : State) : s.occupantStores s := ⟨rfl, fun _ => rfl⟩

theorem occupantStores_trans (a : s.occupantStores t) (b : t.occupantStores u) : s.occupantStores u := by
  refine ⟨?_, fun h => by rw [b.2 h, a.2 h]⟩
  have first := a.1
  have second := b.1
  rw [first] at second
  exact second

theorem occupantStores_setOccupant (s : State) (x : ScrubIx) (g : SegIx) : s.occupantStores (s.setOccupant x g) := by
  obtain ⟨segs, pinch, freeing, dirty, shape⟩ := pinchOnly_setOccupant s x g
  refine ⟨by rw [shape], fun h => ?_⟩
  rw [seg_setOccupant]
  split <;> rfl

theorem occupantStores_clearOccupant (s : State) (x : ScrubIx) (g : SegIx) : s.occupantStores (s.clearOccupant x g) := by
  obtain ⟨segs, pinch, freeing, dirty, shape⟩ := pinchOnly_clearOccupant s x g
  refine ⟨by rw [shape], fun h => ?_⟩
  rw [seg_clearOccupant]
  split <;> rfl

/-- Clear the scrubber from every segment that it occupies (R108, step 2). -/
def State.vacate (x : ScrubIx) (s : State) : State := (s.occupiedBy x).foldl (fun s h => s.clearOccupant x h) s

theorem occupantStores_vacate (s : State) (x : ScrubIx) : s.occupantStores (s.vacate x) := by
  have general (l : List SegIx) (t : State) (h : s.occupantStores t) :
      s.occupantStores (l.foldl (fun s h => s.clearOccupant x h) t) := by
    induction l generalizing t with
    | nil => exact h
    | cons g l ih => exact ih _ (occupantStores_trans h (occupantStores_clearOccupant t x g))
  exact general _ s (occupantStores_refl s)

theorem occupant_vacate (s : State) (x : ScrubIx) {h : SegIx} (inside : h.val < s.n) : ((s.vacate x).seg h).occupant
    = if (s.seg h).occupant = some x then none else (s.seg h).occupant := by
  unfold State.vacate
  rw [seg_foldl_clearOccupant]
  by_cases mine : (s.seg h).occupant = some x
  · rw [if_pos ⟨(mem_occupiedBy s x h).mpr ⟨inside, mine⟩, mine⟩, if_pos mine]
  · rw [if_neg fun c => mine c.2, if_neg mine]

/-- The scrubber occupies the segment that it is parked on, if it is on one (R108, step 3). -/
def State.stand (x : ScrubIx) (g : Option SegIx) (s : State) : State :=
  match g with
  | none => s
  | some g => s.setOccupant x g

theorem occupantStores_stand (s : State) (x : ScrubIx) (g : Option SegIx) : s.occupantStores (s.stand x g) := by
  cases g with
  | none => exact occupantStores_refl s
  | some g => exact occupantStores_setOccupant s x g

theorem occupant_stand (s : State) (x : ScrubIx) (g : Option SegIx) (free : ∀ f, g = some f → (s.seg f).occupant = none)
    (h : SegIx) : ((s.stand x g).seg h).occupant = if g = some h then some x else (s.seg h).occupant := by
  cases g with
  | none => rfl
  | some f =>
    simp only [State.stand, seg_setOccupant, Option.some.injEq]
    by_cases here : f = h
    · subst here
      rw [if_pos ⟨rfl, free f rfl⟩, if_pos rfl]
    · rw [if_neg fun c => here c.1.symm, if_neg here]

end Occupants

/-! ### The slot ahead -/

/-- Shorten the fleet slot that holds the parked segment ahead (R108, step 3). -/
def State.makeRoom (g : Option SegIx) (s : State) : State :=
  match g with
  | none => s
  | some g => s.shortenHolder g none

theorem park_eq (s : State) (x : ScrubIx) (g : Option SegIx) : s.park x g = (s.stand x g).makeRoom g := by
  cases g <;> rfl

theorem indexOf_of_entry {r : Slot} (once : r.route.Nodup) {g : SegIx} {i : Nat} (entry : (g, i) ∈ r.entries) :
    r.indexOf g = some i := by
  have found := entryFor_unique ((map_fst_entries r).symm ▸ once) entry
  unfold Slot.indexOf
  exact congrArg (Option.map Prod.snd) found

section Room
variable {v : State} {g : Option SegIx} {k : SlotIx}

theorem makeRoom_shortens {f : SegIx} {i : Nat} (fleet : k.val < 20) (held : (v.seg f).holder = some k)
    (index : (v.slot k).indexOf f = some i) (ahead : (v.slot k).progress < i) :
    v.makeRoom (some f) = v.shorten k (i - 1) := by
  have applies : (isFleet k && some k != none) = true := by simpa [isFleet] using fleet
  change v.shortenHolder f none = _
  unfold State.shortenHolder
  rw [held]
  dsimp only
  rw [if_pos applies, index]
  exact if_pos ahead

theorem makeRoom_cases (v : State) (g : Option SegIx) : v.makeRoom g = v
    ∨ ∃ f k e, g = some f ∧ (v.seg f).holder = some k ∧ v.makeRoom g = v.shorten k e := by
  cases g with
  | none => exact .inl rfl
  | some f =>
    unfold State.makeRoom State.shortenHolder
    dsimp only
    split
    case h_1 => exact .inl rfl
    case h_2 k held =>
      split
      case isFalse => exact .inl rfl
      case isTrue =>
        split
        case h_2 => exact .inl rfl
        case h_1 i _ =>
          split
          case isFalse => exact .inl rfl
          case isTrue => exact .inr ⟨f, k, i - 1, rfl, held, rfl⟩

theorem work_makeRoom (v : State) (g : Option SegIx) : FloorWork True v (v.makeRoom g) := by
  obtain same | ⟨f, k, e, -, -, short⟩ := makeRoom_cases v g
  · rw [same]; exact .refl v
  · rw [short]; exact fw_shorten (.refl v) k e

theorem slot_makeRoom_other (other : ∀ f, g = some f → (v.seg f).holder ≠ some k) :
    (v.makeRoom g).slot k = v.slot k := by
  obtain same | ⟨f, j, e, parked, held, short⟩ := makeRoom_cases v g
  · rw [same]
  · have ne : k ≠ j := fun c => other f parked (c ▸ held)
    rw [short]
    exact (alike_shorten v j k ne e).slot

theorem shorten_idle {e : Nat} (idle : (v.slot k).state = .idle) : v.shorten k e = v := by
  obtain same | ⟨-, -, granted⟩ | ⟨-, -, authority, -⟩ := shorten_cases v k e
  · exact same
  · rw [idle] at granted; cases granted
  · rw [idle] at authority; cases authority

theorem slot_makeRoom_idle (idle : (v.slot k).state = .idle) : (v.makeRoom g).slot k = v.slot k := by
  obtain same | ⟨f, j, e, -, -, short⟩ := makeRoom_cases v g
  · rw [same]
  · rw [short]
    by_cases here : j = k
    · rw [here, shorten_idle idle]
    · exact (alike_shorten v j k (Ne.symm here) e).slot

theorem seg_makeRoom_other {h : SegIx} (other : ∀ f k, g = some f → (v.seg f).holder = some k → (v.seg h).holder ≠ some k) :
    (v.makeRoom g).seg h = v.seg h := by
  obtain same | ⟨f, k, e, parked, held, short⟩ := makeRoom_cases v g
  · rw [same]
  · rw [short]
    exact seg_shorten_other (other f k parked held)

theorem holder_makeRoom {h : SegIx} (other : (v.seg h).holder ≠ some k) : ((v.makeRoom g).seg h).holder ≠ some k := by
  obtain same | ⟨f, j, e, -, -, short⟩ := makeRoom_cases v g
  · rw [same]; exact other
  · rw [short]
    by_cases held : (v.seg h).holder = some j
    · obtain stays | free := holder_shorten (e := e) held
      · rw [stays, ← held]; exact other
      · rw [free]; exact nofun
    · rw [seg_shorten_other held]; exact other

theorem drying_makeRoom_mono {d : DryEntry} (listed : d ∈ v.drying) : d ∈ (v.makeRoom g).drying := by
  obtain same | ⟨f, j, e, -, -, short⟩ := makeRoom_cases v g
  · rw [same]; exact listed
  · rw [short]; exact drying_shorten_mono listed

theorem mem_drying_makeRoom {d : DryEntry} (listed : d ∈ (v.makeRoom g).drying) : d ∈ v.drying
    ∨ ∃ k i, (v.slot k).state = .granted ∧ (v.seg d.seg).holder = some k ∧ d = v.newEntry d.seg
      ∧ (d.seg, i) ∈ (v.slot k).entries ∧ ((v.seg d.seg).carried = true ∨ wetChosen k (v.slot k) i) := by
  obtain same | ⟨f, k, e, -, -, short⟩ := makeRoom_cases v g
  · rw [same] at listed; exact .inl listed
  · rw [short] at listed
    exact (mem_drying_shorten listed).imp_right fun ⟨granted, held, new, i, entry, _, wet⟩ =>
      ⟨k, i, granted, held, new, entry, wet⟩

theorem notices_makeRoom {s : State} {l : List (NoticeKind × List Word)} {flags : List DspFlag}
    (h : s.notices v l flags) (outside : v.outside = s.outside) (g : Option SegIx) :
    ∃ l', s.notices (v.makeRoom g) (l ++ l') flags ∧ ∀ p ∈ l', p.1 = .shortened := by
  obtain same | ⟨f, k, e, -, -, short⟩ := makeRoom_cases v g
  · rw [same]
    exact ⟨[], by rwa [List.append_nil], fun p mem => by cases mem⟩
  · rw [short]
    exact notices_shorten h outside k e

end Room

end Sys2Proof.Machine
end

section
/-! SUPPORT. What the end of a withdrawn scrubber's live slot leaves (R41, R72, R91, R108). -/
namespace Sys2Proof.Machine
open Sys2Proof

/-- Whether a slot is not the live slot of a scrubber. -/
def State.spares (s : State) (x : ScrubIx) (k : SlotIx) : Prop := ∀ j, (s.scrub x).liveSlot = some j → fleetSlot j ≠ k

/-- The record that the live slot of a withdrawn scrubber returns to IDLE with. -/
def Slot.withdrawn (r : Slot) : Slot :=
  { r.returned .withdrawn 0 (r.changed || r.state.authority) with overdue := r.overdue && !r.state.authority }

/-- The ENDED notice of the live slot of a withdrawn scrubber, if it has one. -/
def State.withdrawalNotice (s : State) (x : ScrubIx) : List (NoticeKind × List Word) :=
  match (s.scrub x).liveSlot with
  | none => []
  | some j => [(.ended, [pack4 (j.val + 1) Result.withdrawn.code (s.slot (fleetSlot j)).revision.toNat 0])]

/-- The live slot of a scrubber, if it has one, has ended. -/
structure SlotEnded (s v : State) (x : ScrubIx) : Prop where
  outside : v.outside = s.outside
  zones : v.zones = s.zones
  cells : v.cells = s.cells
  ops : v.opsFlags = s.opsFlags
  scrub : s.onlyScrub v x { s.scrub x with liveSlot := none }
  spared : ∀ k, s.spares x k → v.slot k = s.slot k
  ended : ∀ j, (s.scrub x).liveSlot = some j → v.slot (fleetSlot j) = (s.slot (fleetSlot j)).withdrawn
  queue : (s.scrub x).liveSlot = none → v.queue = s.queue
  queueOf : ∀ j, (s.scrub x).liveSlot = some j →
    ((s.slot (fleetSlot j)).state.authority = true → v.queue = s.queue)
      ∧ ((s.slot (fleetSlot j)).state = .waiting → v.queue = s.queue.filter (fun h => h != fleetSlot j))
  told : s.notices v (s.withdrawalNotice x) []

/-- The live slot of a scrubber, if it has one, holds nothing of its route; the wet choices were its own. Occupants
aside. -/
structure FloorLeft (s v : State) (x : ScrubIx) : Prop where
  closure : ∀ h, (s.seg h).sameClosure (v.seg h)
  seg : ∀ h, (∀ k, (s.seg h).holder = some k → s.spares x k) → v.seg h = { s.seg h with occupant := (v.seg h).occupant }
  held : ∀ h k, (v.seg h).holder = some k → v.seg h = { s.seg h with occupant := (v.seg h).occupant }
  gone : ∀ j, (s.scrub x).liveSlot = some j → (s.slot (fleetSlot j)).state.authority = true →
    ∀ g ∈ (s.slot (fleetSlot j)).route, (v.seg g).holder ≠ some (fleetSlot j)
  freed : ∀ j, (s.scrub x).liveSlot = some j → (s.slot (fleetSlot j)).state.authority = true →
    ∀ g i, (s.slot (fleetSlot j)).route.Nodup → (g, i) ∈ (s.slot (fleetSlot j)).entries →
      (s.seg g).holder = some (fleetSlot j) →
      s.releasedAs g (wetChosen (fleetSlot j) (s.slot (fleetSlot j)) i) (v.seg g)
        ∧ ((s.seg g).carried = true ∨ wetChosen (fleetSlot j) (s.slot (fleetSlot j)) i → s.newEntry g ∈ v.drying)
  kept : ∀ d ∈ s.drying, d ∈ v.drying
  drying : ∀ d ∈ v.drying, d ∈ s.drying ∨ d = s.newEntry d.seg ∧ ∃ k i, (s.seg d.seg).holder = some k
    ∧ (d.seg, i) ∈ (s.slot k).entries ∧ ((s.seg d.seg).carried = true ∨ wetChosen k (s.slot k) i)

section Slots
variable {s b : State} {x : ScrubIx} {j : FleetIx}

/-! ### The slot -/

theorem slotEnded_none (idle : (s.scrub x).liveSlot = none) : SlotEnded s s.clearFreeing x where
  outside := rfl
  zones := rfl
  cells := rfl
  ops := rfl
  scrub := ⟨by rw [← idle]; rfl, fun _ _ => rfl⟩
  spared _ _ := rfl
  ended j live := by rw [idle] at live; cases live
  queue _ := rfl
  queueOf j live := by rw [idle] at live; cases live
  told := by
    rw [State.withdrawalNotice, idle]
    exact notices_silent (notices_self s) ⟨rfl, rfl⟩

/-- A slot's end, from a state in which only the floor, the queue and the slot's overdue mark may have moved. -/
theorem slotEnded_endSlot (live : (s.scrub x).liveSlot = some j) (named : (s.slot (fleetSlot j)).scrubber = some x)
    (outside : b.outside = s.outside) (zones : b.zones = s.zones) (cells : b.cells = s.cells)
    (ops : b.opsFlags = s.opsFlags) (scrubbers : b.scrubbers = s.scrubbers) (silent : s.silent b)
    (slot : ∀ i, b.slot i = if fleetSlot j = i then { s.slot i with
      overdue := (s.slot i).overdue && !(s.slot i).state.authority } else s.slot i)
    (queueOf : ((s.slot (fleetSlot j)).state.authority = true → b.queue = s.queue)
      ∧ ((s.slot (fleetSlot j)).state = .waiting → b.queue = s.queue.filter (fun h => h != fleetSlot j))) :
    SlotEnded s (b.endSlot (fleetSlot j) .withdrawn) x := by
  have fleet : isFleet (fleetSlot j) = true := by simp [isFleet, fleetSlot]
  have own := (slot (fleetSlot j)).trans (if_pos rfl)
  have talk := slotTalk_endSlot b (fleetSlot j) .withdrawn
  have scrub (y : ScrubIx) : (b.endSlot (fleetSlot j) .withdrawn).scrub y
      = if x = y then { s.scrub y with liveSlot := none } else s.scrub y := by
    have same : b.scrub y = s.scrub y := by unfold State.scrub; rw [scrubbers]
    rw [scrub_endSlot, own, same]
    simp only [fleet, named, true_and, Option.some.injEq]
  have shown : (b.endSlot (fleetSlot j) .withdrawn).slot (fleetSlot j) = (s.slot (fleetSlot j)).withdrawn := by
    rw [slot_endSlot, if_pos rfl, own, Slot.retired, fleet, Bool.and_true]
    rfl
  have queue : (b.endSlot (fleetSlot j) .withdrawn).queue = b.queue := (congrArg State.queue talk :)
  refine ⟨?_, ?_, ?_, ?_, ⟨?_, fun y ne => ?_⟩, fun k spared => ?_, fun i live' => ?_, fun none => ?_, fun i live' => ?_, ?_⟩
  · exact (outside_endSlot b _ _).trans outside
  · exact (congrArg State.zones talk :).trans zones
  · exact (congrArg State.cells talk :).trans cells
  · exact (congrArg State.opsFlags talk :).trans ops
  · rw [scrub, if_pos rfl]
  · rw [scrub, if_neg ne.symm]
  · have other := spared j live
    rw [slot_endSlot, if_neg other, slot, if_neg other]
  · obtain rfl : j = i := Option.some.inj (live.symm.trans live')
    exact shown
  · rw [none] at live; cases live
  · obtain rfl : j = i := Option.some.inj (live.symm.trans live')
    rw [queue]
    exact queueOf
  · have told := notices_endSlot (notices_silent (notices_self s) silent) outside (fleetSlot j) .withdrawn
    rw [own] at told
    rw [State.withdrawalNotice, live]
    exact told

/-! ### The floor -/

/-- Nothing is left when nothing is held in authority. -/
theorem floorLeft_same (segs : b.segs = s.segs) (drying : b.drying = s.drying)
    (idle : ∀ j, (s.scrub x).liveSlot = some j → (s.slot (fleetSlot j)).state.authority = false) : FloorLeft s b x := by
  have seg (h : SegIx) : b.seg h = s.seg h := by unfold State.seg; rw [segs]
  have never {i : FleetIx} {p : Prop} (live : (s.scrub x).liveSlot = some i)
      (authority : (s.slot (fleetSlot i)).state.authority = true) : p := by
    rw [idle i live] at authority; cases authority
  refine ⟨fun h => ?_, fun h _ => ?_, fun h _ _ => ?_, fun i live authority => never live authority,
    fun i live authority => never live authority, fun d listed => ?_, fun d listed => .inl ?_⟩
  · rw [seg]; exact ⟨rfl, rfl⟩
  · rw [seg]
  · rw [seg]
  · rw [drying]; exact listed
  · rw [← drying]; exact listed

/-- The live slot has released its whole route. -/
theorem floorLeft_releaseAll (live : (s.scrub x).liveSlot = some j)
    (segs : b.segs = (s.releaseAll (fleetSlot j)).segs) (drying : b.drying = (s.releaseAll (fleetSlot j)).drying) :
    FloorLeft s b x := by
  have seg (h : SegIx) : b.seg h = (s.releaseAll (fleetSlot j)).seg h := by unfold State.seg; rw [segs]
  have grip := grip_releaseWhere s (fleetSlot j) fun _ => true
  have work := fw_releaseWhere (FloorWork.refl (calm := True) s) (fleetSlot j) fun _ => true
  have onlyLive {i : FleetIx} (live' : (s.scrub x).liveSlot = some i) : j = i := Option.some.inj (live.symm.trans live')
  have whole {h : SegIx} (kept : ¬ (h ∈ (s.slot (fleetSlot j)).route ∧ (s.seg h).holder = some (fleetSlot j))) :
      b.seg h = s.seg h := (seg h).trans
    (seg_releaseWhere_kept fun i entry _ held => kept ⟨fst_mem_of_entries entry, held⟩)
  have nobody {h : SegIx} (route : h ∈ (s.slot (fleetSlot j)).route) (held : (s.seg h).holder = some (fleetSlot j)) :
      (b.seg h).holder = none := by
    rw [← map_fst_entries] at route
    obtain ⟨e, entry, here⟩ := List.mem_map.mp route
    rw [seg]
    exact congrArg Prod.fst ((grip h).trans (if_pos ⟨held, e, entry, rfl, here⟩))
  refine ⟨fun h => ?_, fun h spared => ?_, fun h k held => ?_, fun i live' _ g route held => ?_,
    fun i live' _ g n once entry held => ?_, fun d listed => ?_, fun d listed => ?_⟩
  · rw [seg]
    exact ⟨work.closure h, (work.still trivial).2.2.2 h⟩
  · rw [whole fun c => spared _ c.2 j live rfl]
  · rw [whole fun c => ?_]
    rw [nobody c.1 c.2] at held
    cases held
  · rw [← onlyLive live'] at route held
    by_cases was : (s.seg g).holder = some (fleetSlot j)
    · rw [nobody route was] at held; cases held
    · rw [whole fun c => was c.2] at held; exact was held
  · rw [← onlyLive live'] at once entry held ⊢
    have record : (s.releaseAll (fleetSlot j)).seg g = _ := seg_releaseWhere_freed once entry rfl held
    rw [seg, record, drying]
    exact ⟨releasedAs_freed (wetChoice_iff _ _ _), fun wet => mem_drying_releaseWhere_new once entry rfl held wet⟩
  · rw [drying]
    exact drying_releaseWhere_mono listed
  · rw [drying] at listed
    exact (mem_drying_releaseWhere listed).imp_right fun ⟨held, new, i, entry, _, wet⟩ => ⟨new, _, i, held, entry, wet⟩

/-- Occupants do not count. -/
theorem FloorLeft.occupants {v : State} (left : FloorLeft s b x) (moved : b.occupantStores v) : FloorLeft s v x := by
  obtain ⟨shape, seg⟩ := moved
  have drying : v.drying = b.drying := (congrArg State.drying shape :)
  have holder (h : SegIx) : (v.seg h).holder = (b.seg h).holder := by rw [seg h]
  have same {h : SegIx} (before : b.seg h = { s.seg h with occupant := (b.seg h).occupant }) :
      v.seg h = { s.seg h with occupant := (v.seg h).occupant } := by rw [seg h, before]
  refine ⟨fun h => ?_, fun h spared => same (left.seg h spared), fun h k held => same (left.held h k (holder h ▸ held)),
    fun j live authority g route => ?_, fun j live authority g i once entry held => ?_, fun d listed => ?_,
    fun d listed => left.drying d (drying ▸ listed)⟩
  · rw [seg h]; exact left.closure h
  · rw [holder]; exact left.gone j live authority g route
  · obtain ⟨⟨record, wet, dry⟩, new⟩ := left.freed j live authority g i once entry held
    rw [drying, seg g]
    refine ⟨⟨?_, wet, dry⟩, new⟩
    rw [record]
  · rw [drying]; exact left.kept d listed

theorem SlotEnded.occupants {v : State} (ended : SlotEnded s b x) (moved : b.occupantStores v) : SlotEnded s v x := by
  obtain ⟨shape, -⟩ := moved
  obtain ⟨segs, pinch, freeing, dirty, shape⟩ : ∃ segs pinch freeing dirty,
    v = { b with segs := segs, pinch := pinch, freeing := freeing, dirty := dirty } := ⟨_, _, _, _, shape⟩
  subst shape
  exact { ended with }

/-! ### The three ways (R108, step 1) -/

/-- What holds authority gives it all up (R41, R72). -/
theorem giveUp_ended (live : (s.scrub x).liveSlot = some j) (named : (s.slot (fleetSlot j)).scrubber = some x)
    (authority : (s.slot (fleetSlot j)).state.authority = true) :
    SlotEnded s (s.clearFreeing.giveUp (fleetSlot j) .withdrawn) x
      ∧ FloorLeft s (s.clearFreeing.giveUp (fleetSlot j) .withdrawn) x := by
  have work := fw_releaseWhere (FloorWork.refl (calm := True) s.clearFreeing) (fleetSlot j) fun _ => true
  obtain ⟨queue, scrubbers, ops, -⟩ := work.still trivial
  have talk := slotTalk_endSlot ((s.clearFreeing.releaseAll (fleetSlot j)).clearOverdue (fleetSlot j)) (fleetSlot j)
    .withdrawn
  have segs : (s.clearFreeing.giveUp (fleetSlot j) .withdrawn).segs = (s.clearFreeing.releaseAll (fleetSlot j)).segs :=
    (congrArg State.segs talk :)
  have drying : (s.clearFreeing.giveUp (fleetSlot j) .withdrawn).drying
      = (s.clearFreeing.releaseAll (fleetSlot j)).drying := (congrArg State.drying talk :)
  have left : FloorLeft s.clearFreeing (s.clearFreeing.giveUp (fleetSlot j) .withdrawn) x :=
    floorLeft_releaseAll live segs drying
  refine ⟨?_, { left with }⟩
  unfold State.giveUp
  refine slotEnded_endSlot live named ?_ ?_ ?_ ?_ ?_ ?_ (fun i => ?_) ⟨fun _ => ?_, fun waits => ?_⟩
  · exact (outside_clearOverdue _ _).trans work.outside
  · exact work.zones
  · exact work.cells
  · exact ops
  · exact scrubbers
  · exact silent_releaseWhere s.clearFreeing (fleetSlot j) fun _ => true
  · have slot (i : SlotIx) : (s.clearFreeing.releaseAll (fleetSlot j)).slot i = s.slot i :=
      slot_releaseWhere s.clearFreeing (fleetSlot j) i _
    unfold State.clearOverdue
    rw [slot_setSlot, slot, slot]
    by_cases here : fleetSlot j = i
    · subst here
      rw [if_pos rfl, if_pos rfl, authority, Bool.not_true, Bool.and_false]
    · rw [if_neg here, if_neg here]
  · exact queue
  · rw [waits] at authority; cases authority

theorem withdrawSlot_ended (named : ∀ j, (s.scrub x).liveSlot = some j → (s.slot (fleetSlot j)).scrubber = some x) :
    SlotEnded s (s.clearFreeing.withdrawSlot x) x ∧ FloorLeft s (s.clearFreeing.withdrawSlot x) x := by
  have ways : s.clearFreeing.withdrawSlot x = match (s.scrub x).liveSlot with
    | none => s.clearFreeing
    | some j =>
      if (s.slot (fleetSlot j)).state.authority then s.clearFreeing.giveUp (fleetSlot j) .withdrawn
      else (s.clearFreeing.leaveQueue (fleetSlot j)).endSlot (fleetSlot j) .withdrawn := rfl
  rw [ways]
  cases live : (s.scrub x).liveSlot with
  | none => exact ⟨slotEnded_none live, floorLeft_same rfl rfl fun j some => by rw [live] at some; cases some⟩
  | some j =>
    dsimp only
    by_cases authority : (s.slot (fleetSlot j)).state.authority = true
    · rw [if_pos authority]
      exact giveUp_ended live (named j live) authority
    · have idle : (s.slot (fleetSlot j)).state.authority = false := Bool.eq_false_iff.mpr authority
      have talk := slotTalk_endSlot (s.clearFreeing.leaveQueue (fleetSlot j)) (fleetSlot j) .withdrawn
      rw [if_neg authority]
      refine ⟨slotEnded_endSlot live (named j live) rfl rfl rfl rfl rfl ⟨rfl, rfl⟩ (fun i => ?_)
        ⟨fun holds => absurd holds authority, fun _ => rfl⟩, floorLeft_same ?_ ?_ fun i live' => ?_⟩
      · by_cases here : fleetSlot j = i
        · subst here
          rw [if_pos rfl, idle, Bool.not_false, Bool.and_true]
          rfl
        · rw [if_neg here]
          rfl
      · exact (congrArg State.segs talk :)
      · exact (congrArg State.drying talk :)
      · rw [← Option.some.inj (live.symm.trans live')]
        exact idle

end Slots

end Sys2Proof.Machine
end

section
/-! PROOFS. WITHDRAW (O49; R41, R44, R101, R107, R108, R176). -/
namespace Sys2Proof.Machine
open Sys2Proof

section Withdrawal
variable {s v : State} {x : ScrubIx} {g : Option SegIx}

/-- The state once the live slot has ended and the scrubber has moved to the segment that it is parked on. -/
def State.parkedAt (x : ScrubIx) (g : Option SegIx) (s : State) : State := ((s.withdrawSlot x).vacate x).stand x g

theorem withdraw_eq : s.withdraw x g = (((((s.clearFreeing.parkedAt x g).makeRoom g).setScrub x
      ((((s.clearFreeing.parkedAt x g).makeRoom g).scrub x).withdrawn g)).markDirty (.scrubView x)).settle) := by
  unfold State.withdraw State.event
  dsimp only
  rw [park_eq]
  rfl

theorem exec_withdraw {f : CmdFields} (modes : s.mode = .recovery ∨ s.mode = .service) (named : f.a.toNat = x.val + 1)
    (present : (s.scrub x).state ≠ .absent) (inside : f.b.toNat ≤ s.n)
    (free : ∀ g : SegIx, f.b.toNat = g.val + 1 → (s.seg g).occupant = none ∨ (s.seg g).occupant = some x) :
    exec (.withdraw f) s
      = .next (State.tookCommand .dispatch 2 f.tag (s.withdraw x (ixOf 255 f.b.toNat)).judgeService) := by
  have running := running_of_modes modes
  obtain ⟨loaded, begun⟩ := (attends_iff s).mp (attends_of_running running)
  have judged : s.cmdOf .dispatch (2 : Byte).toNat f = .ok (s.withdraw x (ixOf 255 f.b.toNat)).judgeService := by
    refine (goesOn running).trans ?_
    rw [scrubOperand_some named present]
    refine (if_neg (Nat.not_lt.mpr inside)).trans ?_
    cases value : ixOf 255 f.b.toNat with
    | none => rfl
    | some g =>
      refine if_neg ?_
      obtain none | own := free g (ixOf_eq_some _ _ _ value)
      · simp [none]
      · simp [own]
  have issued : s.issue .dispatch 2 f
      = ((s.withdraw x (ixOf 255 f.b.toNat)).judgeService).recordDone .dispatch 2 f := by
    unfold State.issue
    rw [if_pos (by rfl), judged]
  refine congrArg Host.Outcome.next ((busAccess_command s .dispatch 2 f loaded begun fun _ => rfl).trans ?_)
  rw [issued]
  rfl

theorem occupant_parkedAt {h : SegIx} (inside : h.val < s.n) (ended : FloorWork False s (s.withdrawSlot x))
    (free : ∀ f, g = some f → f.val < s.n ∧ ((s.seg f).occupant = none ∨ (s.seg f).occupant = some x)) :
    ((s.parkedAt x g).seg h).occupant
      = if g = some h then some x else if (s.seg h).occupant = some x then none else (s.seg h).occupant := by
  have n : (s.withdrawSlot x).n = s.n := by
    unfold State.n
    rw [show (s.withdrawSlot x).site = s.site from congrArg Outside.site ended.outside]
  have left {f : SegIx} (inside : f.val < s.n) : (((s.withdrawSlot x).vacate x).seg f).occupant
      = if (s.seg f).occupant = some x then none else (s.seg f).occupant := by
    rw [occupant_vacate _ x (n.symm ▸ inside), ended.occupant]
  unfold State.parkedAt
  rw [occupant_stand _ x g fun f parked => ?_, left inside]
  obtain ⟨inside, none | own⟩ := free f parked
  · rw [left inside, none, if_neg nofun]
  · rw [left inside, if_pos own]

theorem fw_withdrawSlot (s : State) (x : ScrubIx) : FloorWork False s (s.withdrawSlot x) := by
  unfold State.withdrawSlot
  split
  · exact .refl s
  · exact .ite _ (fun _ => fw_giveUp (.refl s) _ _) (fun _ => fw_endSlot (fw_leaveQueue id (.refl s) _) _ _)

/-! ### The shortening of the slot ahead -/

section Room
variable (ended : SlotEnded s v x) (left : FloorLeft s v x)

include left in
theorem FloorLeft.holder_of {h : SegIx} {k : SlotIx} (held : (v.seg h).holder = some k) : (s.seg h).holder = some k := by
  rw [left.held h k held] at held
  exact held

include left in
/-- What a spared slot holds it still holds. -/
theorem FloorLeft.holds {h : SegIx} {k : SlotIx} (spares : s.spares x k) :
    (v.seg h).holder = some k ↔ (s.seg h).holder = some k := by
  refine ⟨left.holder_of, fun held => ?_⟩
  rw [left.seg h fun j other => ?_]
  · exact held
  · rw [held] at other
    exact Option.some.inj other ▸ spares

include ended in
theorem SlotEnded.idle {j : FleetIx} (live : (s.scrub x).liveSlot = some j) : (v.slot (fleetSlot j)).state = .idle := by
  rw [ended.ended j live]
  rfl

include ended in
/-- A slot that is not idle now is spared, and as it was. -/
theorem SlotEnded.spares_of {k : SlotIx} (alive : (v.slot k).state ≠ .idle) : s.spares x k := by
  rintro j live rfl
  exact alive (ended.idle live)

include ended left in
theorem SlotEnded.slot_kept {k : SlotIx} (spares : s.spares x k)
    (away : ∀ f, g = some f → (s.seg f).holder ≠ some k) : (v.makeRoom g).slot k = s.slot k := by
  rw [slot_makeRoom_other fun f parked held => away f parked (left.holder_of held), ended.spared k spares]

include left in
theorem FloorLeft.seg_kept {h : SegIx} (spares : ∀ k, (s.seg h).holder = some k →
      s.spares x k ∧ ∀ f, g = some f → (s.seg f).holder ≠ some k) :
    (v.makeRoom g).seg h = { s.seg h with occupant := ((v.makeRoom g).seg h).occupant } := by
  rw [seg_makeRoom_other fun f k parked held own => ?_]
  · exact left.seg h fun k held => (spares k held).1
  · exact (spares k (left.holder_of own)).2 f parked (left.holder_of held)

include left in
/-- A segment that nobody holds any more is as the end of the live slot left it. -/
theorem FloorLeft.freed_makeRoom {j : FleetIx} (live : (s.scrub x).liveSlot = some j)
    (authority : (s.slot (fleetSlot j)).state.authority = true) {h : SegIx} {i : Nat}
    (once : (s.slot (fleetSlot j)).route.Nodup) (entry : (h, i) ∈ (s.slot (fleetSlot j)).entries)
    (held : (s.seg h).holder = some (fleetSlot j)) :
    s.releasedAs h (wetChosen (fleetSlot j) (s.slot (fleetSlot j)) i) ((v.makeRoom g).seg h)
      ∧ ((s.seg h).carried = true ∨ wetChosen (fleetSlot j) (s.slot (fleetSlot j)) i →
        s.newEntry h ∈ (v.makeRoom g).drying) := by
  obtain ⟨record, new⟩ := left.freed j live authority h i once entry held
  have nobody : (v.seg h).holder = none := by rw [record.1]
  rw [seg_makeRoom_other fun f k _ _ own => by rw [nobody] at own; cases own]
  exact ⟨record, fun wet => drying_makeRoom_mono (new wet)⟩

include ended left in
theorem SlotEnded.cut_makeRoom {k : SlotIx} {f : SegIx} {i : Nat} (spares : s.spares x k) (ahead : holdsAhead s k f i) :
    s.cut (v.makeRoom (some f)) k (i - 1) := by
  obtain ⟨fleet, authority, held, once, entry, past, within⟩ := ahead
  have slot := ended.spared k spares
  have alike : s.Alike k { v with scrubbers := s.scrubbers } := ⟨slot, fun h => left.holds spares, rfl, ended.outside⟩
  have least : (s.slot k).effectiveEnd (i - 1) = i - 1 := by
    unfold Slot.effectiveEnd
    omega
  have short := makeRoom_shortens fleet ((left.holds spares).mpr held) (slot.symm ▸ indexOf_of_entry once entry)
    (slot.symm ▸ past)
  have cut := cut_shortenedSlot fleet authority (e := i - 1) (by omega) (t := v.makeRoom (some f))
    (by rw [short, slot_shorten]; exact shortenedSlot_alike alike _)
  rwa [least] at cut

include ended left in
theorem SlotEnded.mem_drying {d : DryEntry} (listed : d ∈ (v.makeRoom g).drying) : d ∈ s.drying
    ∨ d = s.newEntry d.seg ∧ ∃ k i, (s.seg d.seg).holder = some k
      ∧ (d.seg, i) ∈ (s.slot k).entries ∧ ((s.seg d.seg).carried = true ∨ wetChosen k (s.slot k) i) := by
  obtain old | ⟨k, i, granted, held, new, entry, wet⟩ := mem_drying_makeRoom listed
  · exact left.drying d old
  · have slot := ended.spared k (ended.spares_of (by rw [granted]; nofun))
    rw [left.held d.seg k held, slot] at wet
    rw [slot] at entry
    rw [newEntry_of_outside ended.outside] at new
    exact .inr ⟨new, k, i, left.holder_of held, entry, wet⟩

end Room

end Withdrawal

/-- Settles O49. -/
theorem withdraw : Obligations.Withdraw := by
  intro s f x modes named present inside free scrubs
  have ran := exec_withdraw modes named present inside free
  rw [withdraw_eq] at ran
  have parked (h : SegIx) : ixOf 255 f.b.toNat = some h ↔ f.b.toNat = h.val + 1 := ixOf_eq_some_iff _ _ _
  generalize ixOf 255 f.b.toNat = g at ran parked
  have moved : (s.clearFreeing.withdrawSlot x).occupantStores (s.clearFreeing.parkedAt x g) :=
    occupantStores_trans (occupantStores_vacate _ x) (occupantStores_stand _ x g)
  have occupant {h : SegIx} (within : h.val < s.n) := occupant_parkedAt (s := s.clearFreeing) (x := x) (g := g) within
    (fw_withdrawSlot _ x) fun h here => by
      have value := (parked h).mp here
      exact ⟨show h.val < s.n by omega, free h value⟩
  obtain ⟨ended, left⟩ := withdrawSlot_ended scrubs
  replace ended := ended.occupants moved
  replace left := left.occupants moved
  generalize s.clearFreeing.parkedAt x g = v at *
  have work := work_makeRoom v g
  obtain ⟨queue, scrubbers, ops, claims⟩ := work.still trivial
  have scrub (y : ScrubIx) : (v.makeRoom g).scrub y = v.scrub y := by unfold State.scrub; rw [scrubbers]
  obtain ⟨l, told, short⟩ := notices_makeRoom ended.told ended.outside g
  have own : (v.makeRoom g).scrub x = { s.scrub x with liveSlot := none } := (scrub x).trans ended.scrub.1
  refine ⟨_, ran, work.outside.trans ended.outside, work.zones.trans ended.zones, work.cells.trans ended.cells,
    ops.trans ended.ops, ⟨?_, fun y ne => ?_⟩, fun h within => ?_, fun h => ?_, fun j live => ⟨?_, fun authority => ?_,
    fun waits => queue.trans ((ended.queueOf j live).2 waits)⟩, fun none => queue.trans (ended.queue none),
    fun d listed => drying_makeRoom_mono (left.kept d listed), fun d listed => ended.mem_drying left listed,
    fun h spares => ?_, fun k i h here spares ahead => ?_, fun k spares away => ?_, ⟨l, told, short⟩, ?_⟩
  · exact (scrub_setScrub _ x x _).trans ((if_pos rfl).trans (by rw [own]; rfl))
  · exact (scrub_setScrub _ x y _).trans ((if_neg ne.symm).trans ((scrub y).trans (ended.scrub.2 y ne)))
  · refine (work.occupant h).trans ((occupant within).trans ?_)
    simp only [parked]
    rfl
  · obtain ⟨closure, claimed⟩ := left.closure h
    exact ⟨(work.closure h).trans closure, (claims h).trans claimed⟩
  · exact (slot_makeRoom_idle (ended.idle live)).trans (ended.ended j live)
  · exact ⟨queue.trans ((ended.queueOf j live).1 authority),
      fun h route => holder_makeRoom (left.gone j live authority h route),
      fun h i once entry held => left.freed_makeRoom live authority once entry held⟩
  · exact left.seg_kept fun k held =>
      ⟨(spares k held).1, fun e here => (spares k held).2 e ((parked e).mp here)⟩
  · obtain rfl := (parked h).mpr here
    exact ended.cut_makeRoom left spares ahead
  · exact ended.slot_kept left spares fun e here => away e ((parked e).mp here)
  · exact (mem_dirty_markDirty _ _ _).mpr (.inl rfl)

end Sys2Proof.Machine
end

section
/-! SUPPORT. How an event moves the slot records and the live slots of the scrubbers: routes stay without repetition, a
live slot stays a live slot that names its scrubber, and an authority's indices stay in order (O58; R61, R62, R65, R66,
R74, R91, R98, R112). -/
namespace Sys2Proof.Machine
open Sys2Proof
set_option Elab.async false

/-! ### Slot records -/

/-- What the law of spans asks of one fleet slot's record. -/
def Slot.spans (r : Slot) : Prop :=
  (r.state ≠ .idle → r.route ≠ []) ∧ (r.state.authority = true → r.progress ≤ r.endIx ∧ r.endIx ≤ r.route.length)

/-- How a slot record may move while it stays out of IDLE or in it: to a distinct route if it had one, and live with its
scrubber if it was live. -/
structure Slot.Walk (r t : Slot) : Prop where
  distinct : r.route.Nodup → t.route.Nodup
  live : r.state.live = true → t.state.live = true ∧ t.scrubber = r.scrubber
  spans : r.spans → t.spans

theorem spans_idle {r : Slot} (idle : r.state = .idle) : r.spans :=
  ⟨fun live => absurd idle live, fun authority => absurd idle (live_of_authority _ authority).1⟩

/-- A store that leaves the fields that the laws read. -/
theorem Slot.Walk.same {r t : Slot} (state : t.state = r.state := by rfl) (scrubber : t.scrubber = r.scrubber := by rfl)
    (route : t.route = r.route := by rfl) (progress : t.progress = r.progress := by rfl)
    (endIx : t.endIx = r.endIx := by rfl) : r.Walk t := by
  refine ⟨fun d => route ▸ d, fun l => ⟨state ▸ l, scrubber⟩, fun law => ?_⟩
  unfold Slot.spans
  rw [state, route, progress, endIx]
  exact law

/-- A slot with an authority moves to another state with its authority. -/
theorem Slot.Walk.authority {r t : Slot} (was : r.state.authority = true) (is : t.state.authority = true)
    (scrubber : t.scrubber = r.scrubber := by rfl) (route : t.route = r.route := by rfl)
    (low : r.progress ≤ r.endIx → t.progress ≤ t.endIx := by exact id) (high : t.endIx ≤ r.endIx := by exact le_rfl) :
    r.Walk t := by
  refine ⟨fun d => route ▸ d, fun _ => ⟨?_, scrubber⟩, fun law => ⟨fun _ => ?_, fun _ => ?_⟩⟩
  · simpa [SlotState.live] using (live_of_authority _ is).1
  · rw [route]; exact law.1 (live_of_authority _ was).1
  · obtain ⟨below, within⟩ := law.2 was
    rw [route]
    exact ⟨low below, high.trans within⟩

theorem Slot.Walk.advanced (r : Slot) (j : Nat) (was : r.state.authority = true) : r.Walk (r.advanced j) :=
  Slot.Walk.authority was was (low := fun _ => Nat.min_le_right _ _)

/-! ### States -/

/-- The laws of the slot records pass from one state to another. -/
structure Steady (s t : State) : Prop where
  distinct : s.distinctLaw → t.distinctLaw
  live : s.liveSlotLaw → t.liveSlotLaw
  span : s.spanLaw → t.spanLaw

theorem Steady.refl (s : State) : Steady s s := ⟨id, id, id⟩

theorem Steady.trans {s t u : State} (a : Steady s t) (b : Steady t u) : Steady s u :=
  ⟨b.distinct ∘ a.distinct, b.live ∘ a.live, b.span ∘ a.span⟩

/-- An update that leaves the slot records and the live slots. -/
theorem Steady.of_same {s t : State} (slot : ∀ k, t.slot k = s.slot k)
    (live : ∀ x, (t.scrub x).liveSlot = (s.scrub x).liveSlot) : Steady s t :=
  ⟨fun law k => by rw [slot]; exact law k, fun law x j told => by rw [slot]; exact law x j ((live x).symm.trans told),
    fun law k => by rw [slot]; exact law k⟩

section Stores
variable {s t : State}

theorem Steady.aside {u : State} (h : Steady s t) (slots : u.slots = t.slots := by rfl)
    (scrubbers : u.scrubbers = t.scrubbers := by rfl) : Steady s u :=
  h.trans (.of_same (slot_of_slots slots) fun x => by unfold State.scrub; rw [scrubbers])

theorem st_ite (c : Prop) [Decidable c] {a b : State} (ha : c → Steady s a) (hb : ¬ c → Steady s b) :
    Steady s (if c then a else b) := by
  split
  · exact ha ‹_›
  · exact hb ‹_›

theorem st_foldl {α : Type} (f : State → α → State) (hf : ∀ t a, Steady s t → Steady s (f t a)) (l : List α)
    (h : Steady s t) : Steady s (l.foldl f t) := by
  induction l generalizing t with
  | nil => exact h
  | cons a l ih => exact ih (hf t a h)

theorem st_setSlot (h : Steady s t) (k : SlotIx) (r : Slot) (walk : (t.slot k).Walk r) : Steady s (t.setSlot k r) := by
  refine h.trans ⟨fun law j => ?_, fun law x j told => ?_, fun law j fleet => ?_⟩ <;> rw [slot_setSlot] <;> split
  case refine_1.isTrue => exact walk.distinct (law k)
  case refine_1.isFalse => exact law j
  case refine_2.isTrue here =>
    obtain ⟨live, named⟩ := law x j told
    rw [← here] at live named
    exact ⟨(walk.live live).1, (walk.live live).2.trans named⟩
  case refine_2.isFalse => exact law x j told
  case refine_3.isTrue here => exact walk.spans (law k (here ▸ fleet))
  case refine_3.isFalse => exact law j fleet

theorem st_setScrub (h : Steady s t) (x : ScrubIx) (r : Scrubber) (kept : r.liveSlot = (t.scrub x).liveSlot := by rfl) :
    Steady s (t.setScrub x r) := by
  refine h.trans (.of_same (fun _ => rfl) fun y => ?_)
  rw [scrub_setScrub]
  split
  case isTrue here => rw [kept, here]
  case isFalse => rfl

theorem st_markDirty (h : Steady s t) (r : MirrorRec) : Steady s (t.markDirty r) := h.aside

theorem st_noteFreeing (h : Steady s t) : Steady s t.noteFreeing := h.aside

theorem st_setSeg (h : Steady s t) (g : SegIx) (r : Seg) : Steady s (t.setSeg g r) := h.aside

theorem st_notify (h : Steady s t) (kind : NoticeKind) (p : List Word) : Steady s (t.notify kind p) :=
  h.aside (slots_notify t kind p) (scrubbers_notify t kind p)

theorem st_notifySlot (h : Steady s t) (kind : NoticeKind) (k : SlotIx) (b c : Nat) :
    Steady s (t.notifySlot kind k b c) := st_notify h _ _

theorem st_raising (f : State → State) (hf : Steady s (f t)) : Steady s (t.raising f) :=
  st_ite _ (fun _ => hf.aside) (fun _ => hf)

/-! ### The floor -/

theorem st_refreshPinchOf (h : Steady s t) (g : SegIx) (gain : Option ScrubIx) : Steady s (t.refreshPinchOf g gain) := by
  obtain ⟨pinch, freeing, shape⟩ := refreshPinchOf_eq t g gain
  rw [shape]
  exact h.aside

theorem st_setOccupant (h : Steady s t) (x : ScrubIx) (g : SegIx) : Steady s (t.setOccupant x g) := by
  obtain ⟨_, _, _, _, shape⟩ := pinchOnly_setOccupant t x g
  rw [shape]
  exact h.aside

theorem st_clearOccupant (h : Steady s t) (x : ScrubIx) (g : SegIx) : Steady s (t.clearOccupant x g) := by
  obtain ⟨_, _, _, _, shape⟩ := pinchOnly_clearOccupant t x g
  rw [shape]
  exact h.aside

theorem st_releaseWhere (h : Steady s t) (k : SlotIx) (pick : SegIx × Nat → Bool) : Steady s (t.releaseWhere k pick) := by
  have freed : t.releaseWhere k pick = _ := floorStores_releaseWhere t k pick
  rw [freed]
  exact h.aside

theorem st_releaseAll (h : Steady s t) (k : SlotIx) : Steady s (t.releaseAll k) := st_releaseWhere h k _

theorem st_markPending (h : Steady s t) (k : SlotIx) (i : Nat) : Steady s (t.markPending k i) :=
  st_foldl _ (fun _ _ m => m.aside) _ h

theorem st_removeClaim (h : Steady s t) (k : SlotIx) (g : SegIx) : Steady s (t.removeClaim k g) :=
  st_ite _ (fun _ => h.aside) (fun _ => h)

theorem st_dropClaims (h : Steady s t) (k : SlotIx) : Steady s (t.dropClaims k) :=
  st_foldl _ (fun _ g m => st_removeClaim m k g) _ h

theorem st_setClosure (h : Steady s t) (g : SegIx) (c : Closure) : Steady s (t.setClosure g c) :=
  st_ite _ (fun _ => h.aside) (fun _ => h.aside)

theorem st_markWet (h : Steady s t) (g : SegIx) : Steady s (t.markWet g) := h.aside

/-! ### Slots that end (R72, R74, R91) -/

/-- A slot goes to IDLE without a route, and no scrubber has it as its live slot any more. -/
theorem steady_ended {u : State} (k : SlotIx) (ended : (u.slot k).state = .idle) (empty : (u.slot k).route = [])
    (others : ∀ j, j ≠ k → u.slot j = t.slot j)
    (kept : ∀ x j, (u.scrub x).liveSlot = some j → (t.scrub x).liveSlot = some j)
    (cleared : ∀ x, isFleet k = true → (t.slot k).scrubber = some x → (u.scrub x).liveSlot = none) : Steady t u := by
  refine ⟨fun law j => ?_, fun law x j told => ?_, fun law j fleet => ?_⟩
  · by_cases here : j = k
    · rw [here, empty]; exact List.nodup_nil
    · rw [others j here]; exact law j
  · obtain ⟨live, named⟩ := law x j (kept x j told)
    have apart : fleetSlot j ≠ k := fun here => by
      have fleet : isFleet k = true := by rw [← here]; exact decide_eq_true j.isLt
      rw [cleared x fleet (here ▸ named)] at told
      cases told
    rw [others _ apart]
    exact ⟨live, named⟩
  · by_cases here : j = k
    · rw [here]; exact spans_idle ended
    · rw [others j here]; exact law j fleet

theorem st_endSlot (h : Steady s t) (k : SlotIx) (res : Result) : Steady s (t.endSlot k res) := by
  have slot := slot_endSlot t k res
  have scrub := scrub_endSlot t k res
  refine h.trans (steady_ended k ?_ ?_ (fun j ne => ?_) (fun x j told => ?_) fun x fleet named => ?_)
  · rw [slot, if_pos rfl]; rfl
  · rw [slot, if_pos rfl]; rfl
  · rw [slot, if_neg ne.symm]
  · rw [scrub] at told
    split at told
    · cases told
    · exact told
  · rw [scrub, if_pos ⟨fleet, named⟩]

theorem st_leaveQueue (h : Steady s t) (k : SlotIx) : Steady s (t.leaveQueue k) := h.aside

theorem st_endWaiting (h : Steady s t) (k : SlotIx) (f : Result × Nat) : Steady s (t.endWaiting k f) := by
  refine st_notifySlot (h.trans ?_) .refused k f.1.code f.2
  have slot (j : SlotIx) : (((t.leaveQueue k).toIdle k f.1 f.2).clearLiveOf k).slot j
      = if k = j then (t.slot k).retired k f.1 f.2 else t.slot j :=
    (slot_of_slots (slots_clearLiveOf _ k) j).trans (slot_toIdle (t.leaveQueue k) k f.1 f.2 j)
  have scrub (x : ScrubIx) : (((t.leaveQueue k).toIdle k f.1 f.2).clearLiveOf k).scrub x
      = if isFleet k = true ∧ (t.slot k).scrubber = some x then { t.scrub x with liveSlot := none } else t.scrub x := by
    have same : ((t.leaveQueue k).toIdle k f.1 f.2).scrub x = t.scrub x := by
      unfold State.scrub
      rw [scrubbers_toIdle]
      rfl
    rw [scrub_clearLiveOf, slot_toIdle, if_pos rfl, same]
    rfl
  refine steady_ended k ?_ ?_ (fun j ne => ?_) (fun x j told => ?_) fun x fleet named => ?_
  · rw [slot, if_pos rfl]; rfl
  · rw [slot, if_pos rfl]; rfl
  · rw [slot, if_neg ne.symm]
  · rw [scrub] at told
    split at told
    · cases told
    · exact told
  · rw [scrub, if_pos ⟨fleet, named⟩]

/-- A passenger slot has no scrubber to tell. -/
theorem st_releasePassenger (h : Steady s t) (k : SlotIx) (passenger : isFleet k = false) :
    Steady s (t.releasePassenger k) := by
  refine st_notifySlot ((st_releaseAll h k).trans ?_) .passengerReleased k _ _
  have scrub (x : ScrubIx) : ((t.releaseAll k).toIdle k .released 0).scrub x = (t.releaseAll k).scrub x := by
    unfold State.scrub
    rw [scrubbers_toIdle]
  refine steady_ended k ?_ ?_ (fun j ne => ?_) (fun x j told => ?_) fun x fleet _ => ?_
  · rw [slot_toIdle, if_pos rfl]; rfl
  · rw [slot_toIdle, if_pos rfl]; rfl
  · rw [slot_toIdle, if_neg ne.symm]
  · rw [← scrub]; exact told
  · rw [passenger] at fleet; cases fleet

theorem st_releaseAndEnd (h : Steady s t) (k : SlotIx) (res : Result) : Steady s (t.releaseAndEnd k res) :=
  st_endSlot (st_releaseAll h k) k res

theorem st_clearOverdue (h : Steady s t) (k : SlotIx) : Steady s (t.clearOverdue k) := st_setSlot h k _ .same

theorem st_giveUp (h : Steady s t) (k : SlotIx) (res : Result) : Steady s (t.giveUp k res) :=
  st_endSlot (st_clearOverdue (st_releaseAll h k) k) k res

/-! ### Grant, activation and the queue (R65, R67, R70, R71) -/

theorem distinctLaw_seated {u : State} {k : SlotIx} {r : Slot} (slot : ∀ j, u.slot j = if k = j then r else t.slot j)
    (route : (t.slot k).route.Nodup → r.route.Nodup) (law : t.distinctLaw) : u.distinctLaw := by
  intro j
  rw [slot]
  split
  · exact route (law k)
  · exact law j

/-- A slot comes to stand under a live record, and it is its scrubber's live slot. -/
theorem liveSlotLaw_seated {u : State} {k : SlotIx} {x : ScrubIx} {r : Slot}
    (slot : ∀ j, u.slot j = if k = j then r else t.slot j)
    (scrub : ∀ y, (u.scrub y).liveSlot = if y = x then asFleet k else (t.scrub y).liveSlot)
    (named : (t.slot k).scrubber = some x) (names : r.scrubber = some x) (live : r.state.live = true)
    (law : t.liveSlotLaw) : u.liveSlotLaw := by
  intro y j told
  rw [slot]
  rw [scrub] at told
  split
  case isTrue here =>
    refine ⟨live, names.trans ?_⟩
    split at told
    case isTrue same => rw [same]
    case isFalse => rw [← named, here]; exact (law y j told).2
  case isFalse apart =>
    split at told
    · refine absurd ?_ apart
      unfold asFleet at told
      split at told
      · cases told; rfl
      · cases told
    · exact law y j told

theorem spanLaw_seated {u : State} {k : SlotIx} {r : Slot} (slot : ∀ j, u.slot j = if k = j then r else t.slot j)
    (spans : k.val < 20 → r.spans) (law : t.spanLaw) : u.spanLaw := by
  intro j fleet
  rw [slot]
  split
  case isTrue here => exact spans (here ▸ fleet)
  case isFalse => exact law j fleet

theorem spans_granted {r : Slot} (route : r.route ≠ []) : r.granted.spans := by
  refine ⟨fun _ => route, fun _ => ⟨?_, le_rfl⟩⟩
  exact Nat.one_le_iff_ne_zero.mpr fun none => route (List.length_eq_zero_iff.mp none)

theorem liveSlot_grant {k : SlotIx} {x : ScrubIx} (named : (t.slot k).scrubber = some x) (y : ScrubIx) :
    ((t.grant k).scrub y).liveSlot = if y = x then asFleet k else (t.scrub y).liveSlot := by
  rw [scrub_grant named]
  split <;> rfl

theorem st_grant (h : Steady s t) (k : SlotIx) {x : ScrubIx} (named : (t.slot k).scrubber = some x)
    (route : k.val < 20 → t.spanLaw → (t.slot k).route ≠ []) : Steady s (t.grant k) := by
  have slot := slot_grant named
  exact h.trans ⟨distinctLaw_seated slot id, liveSlotLaw_seated slot (liveSlot_grant named) named named rfl,
    fun law => spanLaw_seated slot (fun fleet => spans_granted (route fleet law)) law⟩

/-- A passenger slot's record concerns neither the scrubbers nor the spans of fleet slots. -/
theorem steady_passenger {u : State} {k : SlotIx} {r : Slot} (passenger : isFleet k = false) (slot : ∀ j, u.slot j = if k = j then r else t.slot j)
    (scrubbers : u.scrubbers = t.scrubbers) (distinct : (t.slot k).route.Nodup → r.route.Nodup) : Steady t u := by
  refine ⟨distinctLaw_seated slot distinct, fun law y j told => ?_, spanLaw_seated slot fun fleet => ?_⟩
  · have apart : ¬ k = fleetSlot j := by
      rintro rfl
      have fleet : isFleet (fleetSlot j) = true := decide_eq_true j.isLt
      rw [passenger] at fleet
      cases fleet
    rw [slot, if_neg apart]
    refine law y j (Eq.trans ?_ told)
    unfold State.scrub
    rw [scrubbers]
  · have fleet : isFleet k = true := decide_eq_true fleet
    rw [passenger] at fleet
    cases fleet

theorem st_activate (h : Steady s t) (k : SlotIx) (passenger : isFleet k = false) : Steady s (t.activate k) := by
  have frame := frame_activate (s := t) passenger
  exact h.trans (steady_passenger passenger slot_activate (by rw [frame]) id)

theorem st_setResult (h : Steady s t) (k : SlotIx) (r : Result) (i : Nat) : Steady s (t.setResult k r i) :=
  st_setSlot h k _ .same

theorem st_reevalEntry (h : Steady s t) (k : SlotIx) : Steady s (t.reevalEntry k) := by
  refine st_ite _ (fun _ => h) (fun waits => st_ite _ (fun _ => ?_) (fun passenger => ?_))
  · split
    · exact h
    case h_2 x named =>
    split
    · exact st_endWaiting h k _
    split
    · refine st_grant h k named fun fleet law => (law k fleet).1 fun idle => waits ?_
      rw [idle]
      decide
    · exact st_ite _ (fun _ => st_setResult h k _ _) (fun _ => st_endWaiting h k _)
  · split
    · exact st_activate h k (by simpa using passenger)
    · exact st_setResult h k _ _

theorem st_settle (h : Steady s t) : Steady s t.settle :=
  st_ite _ (fun _ => (st_foldl _ (fun _ k m => st_reevalEntry m k) _ h).aside) (fun _ => h)

theorem st_event (f : State → State) (hf : ∀ t, Steady s t → Steady s (f t)) (h : Steady s t) : Steady s (t.event f) :=
  st_settle (hf _ h.aside)

/-! ### Shortening (R112 to R114) -/

theorem walk_shortenedSlot (t : State) (k : SlotIx) (e : Nat) : (t.slot k).Walk (t.shortenedSlot k e) := by
  unfold State.shortenedSlot
  split
  case isTrue => exact .same
  case isFalse short =>
    simp only [Bool.or_eq_true, Bool.not_eq_true', decide_eq_true_eq, not_or, Bool.not_eq_false, not_le] at short
    obtain ⟨⟨_, authority⟩, lower⟩ := short
    split
    · exact Slot.Walk.authority authority authority (low := fun _ => Nat.le_max_right _ _) (high := lower.le)
    · exact Slot.Walk.authority authority rfl (low := fun _ => Nat.le_max_right _ _) (high := lower.le)

theorem st_shorten (h : Steady s t) (k : SlotIx) (e : Nat) : Steady s (t.shorten k e) := by
  have walk := st_setSlot (.refl t) k _ (walk_shortenedSlot t k e)
  refine h.trans (walk.trans (.of_same (fun j => ?_) fun x => ?_))
  · rw [slot_setSlot]
    split
    case isTrue here => rw [← here, slot_shorten]
    case isFalse apart => exact (alike_shorten t k j (Ne.symm apart) e).slot
  · have work := fw_shorten (FloorWork.refl (calm := True) t) k e
    unfold State.scrub
    rw [(work.still trivial).2.1]
    rfl

theorem st_shortenHolder (h : Steady s t) (g : SegIx) (except : Option SlotIx) : Steady s (t.shortenHolder g except) := by
  unfold State.shortenHolder
  split
  · exact h
  · refine st_ite _ (fun _ => ?_) (fun _ => h)
    split
    · exact st_ite _ (fun _ => st_shorten h _ _) (fun _ => h)
    · exact h

theorem st_shortenToProgress (h : Steady s t) (k : SlotIx) : Steady s (t.shortenToProgress k) := st_shorten h k _

theorem st_shortenBefore (h : Steady s t) (k : SlotIx) (want : SegIx → Bool) : Steady s (t.shortenBefore k want) := by
  unfold State.shortenBefore
  split
  · exact st_shorten h _ _
  · exact h

theorem st_preempt (h : Steady s t) (route : List SegIx) : Steady s (t.preempt route) :=
  st_foldl _ (fun _ _ m => st_ite _ (fun _ => st_shortenBefore m _ _) (fun _ => m)) _ h

/-! ### Refusals, cancel, handover and timers -/

theorem st_refuseOnly (h : Steady s t) (k : SlotIx) (r : Result) : Steady s (t.refuseOnly k r) := st_notifySlot h _ _ _ _

theorem st_refuseCommit (h : Steady s t) (k : SlotIx) (f : Result × Nat) : Steady s (t.refuseCommit k f) :=
  st_notifySlot (st_setResult h k f.1 f.2).aside _ _ _ _

theorem st_cancelSent (h : Steady s t) (k : SlotIx) : Steady s (t.cancelSent k) :=
  st_ite _ (fun _ => st_shortenToProgress h k)
    (fun _ => st_ite _ (fun _ => st_releaseAndEnd h k _) (fun _ => st_refuseOnly h k _))

theorem st_cancelLive (h : Steady s t) (k : SlotIx) : Steady s (t.cancelLive k) := by
  have left := st_leaveQueue h k
  unfold State.cancelLive
  split
  case h_1 => exact st_refuseOnly h k _
  case h_2 => exact st_endSlot (st_ite _ (fun _ => left) (fun _ => st_dropClaims left k)) k _
  case h_3 => exact st_releaseAndEnd h k _
  case h_4 =>
    exact st_ite _ (fun _ => st_cancelSent h k) (fun passenger => st_releasePassenger h k (by simpa using passenger))
  case h_5 => exact st_cancelSent h k
  case h_6 => exact st_cancelSent h k

theorem st_cancelWrite (h : Steady s t) (k : SlotIx) (v : Word) : Steady s (t.cancelWrite k v) :=
  st_event _ (fun _ m => st_ite _ (fun _ => st_refuseOnly m k _) (fun _ => st_cancelLive m k)) h

theorem st_draftWrite (h : Steady s t) (k : SlotIx) (w : Fin 11) (v : Word) : Steady s (t.draftWrite k w v) :=
  st_setSlot h k _ .same

theorem st_gatewayHandover (h : Steady s t) (k : SlotIx) : Steady s (t.gatewayHandover k) := by
  refine st_ite _ (fun granted => ?_) (fun _ => st_setSlot h k _ .same)
  have delivered : (t.slot k).Walk ((t.slot k).delivered (t.after t.confirmTimeout)) :=
    .authority (by rw [granted]; rfl) rfl
  exact (st_setSlot h k _ delivered).aside

theorem st_confirmExpiry (h : Steady s t) (k : SlotIx) : Steady s (t.confirmExpiry k) :=
  st_ite _ (fun _ => st_notifySlot (Steady.aside (st_setSlot h k { t.slot k with confirmTimer := none } .same)) _ _ _ _)
    (fun _ => h)

theorem st_setOverdue (h : Steady s t) (k : SlotIx) : Steady s (t.setOverdue k) := st_setSlot h k _ .same

theorem st_shortenExpiry (h : Steady s t) (k : SlotIx) : Steady s (t.shortenExpiry k) := by
  refine st_ite _ (fun _ => ?_) (fun _ => h)
  have stopped := st_setSlot h k { t.slot k with shortenTimer := none } .same
  refine st_notifySlot (st_ite _ (fun _ => stopped) (fun _ => ?_)) _ _ _ _
  exact (st_raising _ (st_setOverdue stopped k)).aside

theorem st_waitExpiry (h : Steady s t) (k : SlotIx) : Steady s (t.waitExpiry k) := by
  refine st_ite _ (fun _ => st_event _ (fun u m => ?_) h) (fun _ => h)
  have left := st_leaveQueue m k
  exact st_ite _ (fun _ => st_endSlot left k _) (fun _ => (st_endSlot (st_dropClaims left k) k _).aside)

/-! ### Reports and scrubber commands (R92 to R110) -/

theorem authority_of_sentSlot {x : ScrubIx} {k : SlotIx} (sent : t.sentSlot x = some k) :
    (t.slot k).state.authority = true := authority_of_sent (sentSlot_some t x k sent)

theorem st_hear (h : Steady s t) (x : ScrubIx) (p : Position) : Steady s (t.hear x p) :=
  st_ite _ (fun _ => st_notify (st_setScrub h x _) _ _) (fun _ => h)

theorem st_moveTo (h : Steady s t) (x : ScrubIx) (p : Position) : Steady s (t.moveTo x p) :=
  st_setScrub (st_foldl _ (fun _ g m => st_clearOccupant m x g) _
    (st_foldl _ (fun _ g m => st_setOccupant m x g) _ h)) x _

theorem st_progressTo (h : Steady s t) (x : ScrubIx) (p : Position) : Steady s (t.progressTo x p) := by
  unfold State.progressTo
  split
  · exact h
  case h_2 k sent =>
  split
  · exact h
  · exact st_setSlot h k _ (Slot.Walk.advanced _ _ (authority_of_sentSlot sent))

theorem st_setMark (h : Steady s t) (x : ScrubIx) : Steady s (t.setMark x) := st_raising _ (st_setScrub h x _)

theorem st_violation (h : Steady s t) (x : ScrubIx) (p : Position) (v : List SegIx) : Steady s (t.violation x p v) := by
  unfold State.violation
  cases v with
  | nil => exact h
  | cons first rest =>
    have marked := st_ite ((t.scrub x).mark = true) (fun _ => h) (fun _ => st_setMark h x)
    have cut : Steady s
        (match (t.scrub x).liveSlot.map fleetSlot with
          | none => if (t.scrub x).mark then t else t.setMark x
          | some k => (if (t.scrub x).mark then t else t.setMark x).shortenToProgress k) := by
      split
      · exact marked
      · exact st_shortenToProgress marked _
    have ahead := st_foldl (s := s) (fun (u : State) (g : SegIx) => u.shortenHolder g ((t.scrub x).liveSlot.map fleetSlot))
      (fun _ g m => st_shortenHolder m g _) (first :: rest) cut
    exact st_ite _ (fun _ => ahead) (fun _ => st_notify ahead.aside _ _)

theorem st_releaseBehind (h : Steady s t) (x : ScrubIx) (p : Position) : Steady s (t.releaseBehind x p) := by
  unfold State.releaseBehind
  split
  · exact h
  · exact st_releaseWhere h _ _

theorem st_witness (h : Steady s t) (x : ScrubIx) (p : Position) (b : Bool) : Steady s (t.witness x p b) := by
  unfold State.witness
  split
  · exact h
  · exact st_setSlot h _ _ .same

theorem st_confirmedNotice (h : Steady s t) (k : SlotIx) : Steady s (t.confirmedNotice k) :=
  st_notifySlot h.aside _ _ _ _

theorem st_confirm (h : Steady s t) (k : SlotIx) (authority : (t.slot k).state.authority = true) : Steady s (t.confirm k) :=
  st_confirmedNotice (st_setSlot h k _ (Slot.Walk.authority authority rfl)) k

theorem st_confirmShortening (h : Steady s t) (k : SlotIx) (authority : (t.slot k).state.authority = true) :
    Steady s (t.confirmShortening k) := by
  unfold State.confirmShortening
  refine st_confirmedNotice (st_setSlot (st_releaseWhere h k _) k _ (Slot.Walk.authority ?_ rfl)) k
  rw [slot_releaseWhere]
  exact authority

theorem st_confirmBeyond (h : Steady s t) (k : SlotIx) (p : Position) : Steady s (t.confirmBeyond k p) :=
  st_endSlot (st_confirmedNotice (st_clearOverdue (st_releaseAll (st_releaseWhere h k _) k) k) k) k _

theorem st_slotField (h : Steady s t) (x : ScrubIx) (p : Position) (r : Report) (beyond : Bool) :
    Steady s (t.slotField x p r beyond) := by
  unfold State.slotField
  split
  case h_1 => exact h
  case h_2 k sent =>
  have authority := authority_of_sentSlot sent
  refine st_ite _ (fun _ => st_giveUp h k _) (fun _ => st_ite _ (fun _ => h) (fun _ => ?_))
  split
  · exact st_confirm h k authority
  · exact st_ite _ (fun _ => st_confirmBeyond h k p) (fun _ => st_confirmShortening h k authority)
  all_goals exact h

theorem st_complete (h : Steady s t) (x : ScrubIx) (p : Position) (f : ReportFlags) : Steady s (t.complete x p f) := by
  unfold State.complete
  split
  · exact h
  · exact st_ite _ (fun _ => st_releaseAndEnd h _ _) (fun _ => h)

theorem st_storeReport (h : Steady s t) (x : ScrubIx) (r : Report) : Steady s (t.storeReport x r) :=
  st_markDirty (st_setScrub h x ((t.scrub x).reported t.clock (t.after t.reportTimeout) r)) _

theorem st_processReport (h : Steady s t) (x : ScrubIx) (p : Position) (r : Report) : Steady s (t.processReport x p r) := by
  have moved := st_progressTo (st_moveTo (st_hear h x p) x p) x p
  have judged := st_witness (st_releaseBehind (st_violation moved x p
    (p.segs.filter fun g => (t.hear x p).violated x ((t.scrub x).state == .unheard) g)) x p) x p r.flags.scrubbing
  exact st_storeReport (st_complete (st_slotField judged x p r _) x p r.flags) x r

theorem st_lostExpiry (h : Steady s t) (x : ScrubIx) : Steady s (t.lostExpiry x) :=
  st_ite _ (fun _ => st_notify (Steady.aside (st_setScrub h x { t.scrub x with state := .lost, timer := none })) _ _)
    (fun _ => h)

theorem st_withdrawSlot (h : Steady s t) (x : ScrubIx) : Steady s (t.withdrawSlot x) := by
  unfold State.withdrawSlot
  split
  · exact h
  · exact st_ite _ (fun _ => st_giveUp h _ _) (fun _ => st_endSlot (st_leaveQueue h _) _ _)

theorem st_withdraw (h : Steady s t) (x : ScrubIx) (g : Option SegIx) : Steady s (t.withdraw x g) := by
  refine st_event _ (fun u m => ?_) h
  have left := st_foldl (s := s) _ (fun _ g m => st_clearOccupant m x g) ((u.withdrawSlot x).occupiedBy x)
    (st_withdrawSlot m x)
  have parked : Steady s
      ((((u.withdrawSlot x).occupiedBy x).foldl (fun s h => s.clearOccupant x h) (u.withdrawSlot x)).park x g) := by
    cases g with
    | none => exact left
    | some g => exact st_shortenHolder (st_setOccupant left x g) g none
  exact st_markDirty (st_setScrub parked x _) _

theorem st_readmit (h : Steady s t) (x : ScrubIx) : Steady s (t.readmit x) :=
  st_markDirty (st_setScrub h x _) _

theorem st_liftMark (h : Steady s t) (x : ScrubIx) : Steady s (t.liftMark x) :=
  st_markDirty (st_setScrub h x _) _

/-! ### Zones -/

theorem st_setZone (h : Steady s t) (z : ZoneIx) (r : Zone) : Steady s (t.setZone z r) := h.aside

theorem st_zoneNotice (h : Steady s t) (kind : NoticeKind) (z : ZoneIx) : Steady s (t.zoneNotice kind z) :=
  st_ite _ (fun _ => st_notify h _ _) (fun _ => h)

theorem st_setChanged (h : Steady s t) (k : SlotIx) : Steady s (t.setChanged k) :=
  st_ite _ (fun _ => st_setSlot h k _ .same) (fun _ => h)

theorem st_dropHolding (h : Steady s t) (z : ZoneIx) (k : SlotIx) : Steady s (t.dropHolding z k) :=
  st_ite _ (fun _ => st_ite _ (fun _ => st_setChanged (st_setSlot h k _ .same) k)
    (fun _ => st_setSlot h k _ .same)) (fun _ => h)

theorem st_reachQuiet (h : Steady s t) (z : ZoneIx) : Steady s (t.reachQuiet z) :=
  st_noteFreeing (st_zoneNotice (st_foldl _ (fun _ k m => st_dropHolding m z (fleetSlot k)) _ (st_setZone h z _)) _ z)

theorem st_enterSettling (h : Steady s t) (z : ZoneIx) : Steady s (t.enterSettling z) :=
  st_ite _ (fun _ => st_reachQuiet (st_setZone h z _) z) (fun _ => st_setZone h z _)

theorem st_reseed (h : Steady s t) (z : ZoneIx) : Steady s (t.reseed z) :=
  st_zoneNotice (st_enterSettling (st_setZone h z _) z) _ z

theorem st_addHolding (h : Steady s t) (z : ZoneIx) (k : SlotIx) : Steady s (t.addHolding z k) :=
  st_ite _ (fun _ => st_setChanged (st_setSlot h k _ .same) k) (fun _ => st_setSlot h k _ .same)

theorem st_presentSlot (h : Steady s t) (z : ZoneIx) (k : SlotIx) : Steady s (t.presentSlot z k) :=
  st_ite _ (fun _ => st_ite _ (fun _ => st_addHolding h z k) (fun _ => st_shortenBefore h k _)) (fun _ => h)

theorem st_enterPresent (h : Steady s t) (z : ZoneIx) : Steady s (t.enterPresent z) :=
  st_zoneNotice (st_foldl _ (fun _ k m => st_presentSlot m z (fleetSlot k)) _ (st_setZone h z _)) _ z

theorem st_endEntry (h : Steady s t) (z : ZoneIx) : Steady s (t.endEntry z) := by
  unfold State.endEntry
  dsimp only
  split
  · exact st_setZone h z _
  · exact st_reachQuiet (st_setZone h z _) z

theorem st_judgeZone (h : Steady s t) (z : ZoneIx) (d : Int) : Steady s (t.judgeZone z d) := by
  have stored (r : Zone) : Steady s (t.setZone z r) := st_setZone h z r
  have present := st_enterPresent h z
  unfold State.judgeZone
  dsimp only
  split
  case h_1 => exact st_ite _ (fun _ => h) fun _ => st_ite _ (fun _ => present) (fun _ => stored _)
  case h_2 => exact st_ite _ (fun _ => h) fun _ => st_ite _ (fun _ => present) (fun _ => stored _)
  case h_3 => exact st_ite _ (fun _ => st_endEntry h z) fun _ => st_ite _ (fun _ => present) (fun _ => stored _)
  case h_4 => exact st_ite _ (fun _ => h) fun _ => st_ite _ (fun _ => st_enterSettling h z) (fun _ => stored _)
  case h_5 =>
    exact st_ite _ (fun _ => stored _) fun _ => st_ite _ (fun _ => st_enterSettling (stored _) z) (fun _ => stored _)
  case h_6 => exact h
  case h_7 => exact h

theorem st_takeSample (h : Steady s t) (z : ZoneIx) (fig : Nat) : Steady s (t.takeSample z fig) := by
  unfold State.takeSample
  dsimp only
  split
  case h_1 => exact st_enterSettling (st_setZone h z _) z
  case h_2 => exact st_enterSettling (st_setZone h z _) z
  all_goals exact st_judgeZone (st_setZone h z _) z _

theorem st_zoneSample (h : Steady s t) (z : ZoneIx) (fig : Nat) : Steady s (t.zoneSample z fig) :=
  st_ite _ (fun _ => st_event _ (fun _ m => st_setZone (st_takeSample m z fig) z _) h) (fun _ => h)

theorem st_moisture (h : Steady s t) (z : ZoneIx) (fig : Nat) : Steady s (t.moisture z fig) :=
  st_ite _ (fun _ => st_setZone h z _) (fun _ => h)

theorem st_quietExpiry (h : Steady s t) (z : ZoneIx) : Steady s (t.quietExpiry z) := by
  refine st_ite _ (fun _ => st_event _ (fun u m => ?_) h) (fun _ => h)
  unfold State.quietEnds
  dsimp only
  split
  · exact st_reachQuiet (st_setZone m z _) z
  all_goals exact st_setZone m z _

theorem st_staleExpiry (h : Steady s t) (z : ZoneIx) : Steady s (t.staleExpiry z) :=
  st_ite _ (fun _ => st_zoneNotice h.aside _ z) (fun _ => h)

theorem st_stuckExpiry (h : Steady s t) (z : ZoneIx) : Steady s (t.stuckExpiry z) :=
  st_ite _ (fun _ => st_event _ (fun _ m => st_reseed m z) h) (fun _ => h)

theorem st_haltExpiry (h : Steady s t) (z : ZoneIx) : Steady s (t.haltExpiry z) :=
  st_ite _ (fun _ => st_event _ (fun _ m => st_reseed m z) h) (fun _ => h)

/-! ### Drying and closures -/

theorem st_expireEntry (h : Steady s t) (e : DryEntry) : Steady s (t.expireEntry e) := by
  have dropped : Steady s (t.dropEntry e.seg) := h.aside
  have dried : Steady s (t.dry e) := st_noteFreeing (st_notify (st_setSeg dropped _ _) _ _)
  refine st_ite _ (fun _ => dried) (fun _ => ?_)
  split
  · exact dried
  · exact st_ite _ (fun _ => dried) fun _ =>
      st_ite _ (fun _ => st_notify h.aside _ _) (fun _ => st_notify h.aside _ _)

theorem st_dryingExpiry (h : Steady s t) (g : SegIx) : Steady s (t.dryingExpiry g) := by
  unfold State.dryingExpiry
  split
  · exact h
  · exact st_event _ (fun _ m => st_expireEntry m _) h

theorem st_closeFloor (h : Steady s t) (i : Issuer) (g : SegIx) : Steady s (t.closeFloor i g) := by
  refine st_ite _ (fun _ => h) (fun _ => ?_)
  have ahead := st_shortenHolder (st_setClosure h g ((t.seg g).closure.withIssuer i)) g none
  dsimp only
  split
  · exact ahead
  · split
    · exact ahead
    · exact st_shortenToProgress ahead _

theorem st_closeSegment (h : Steady s t) (i : Issuer) (g : SegIx) : Steady s (t.closeSegment i g) :=
  st_ite _ (fun _ => h) (fun _ => st_event _ (fun _ m => st_notify (st_closeFloor m i g) _ _) h)

theorem st_reopenFloor (h : Steady s t) (i : Issuer) (g : SegIx) : Steady s (t.reopenFloor i g) :=
  st_ite _ (fun _ => st_setClosure h g _) (fun _ => h)

theorem st_reopenSegment (h : Steady s t) (i : Issuer) (g : SegIx) : Steady s (t.reopenSegment i g) :=
  st_ite _ (fun _ => st_event _ (fun _ m => st_notify (st_reopenFloor m i g) _ _) h) (fun _ => h)

theorem st_closeZone (h : Steady s t) (z : ZoneIx) : Steady s (t.closeZone z) :=
  st_event _ (fun _ m => st_notify (st_foldl _ (fun _ g m => st_closeFloor m _ g) _ m) _ _) h

theorem st_reopenZone (h : Steady s t) (z : ZoneIx) : Steady s (t.reopenZone z) :=
  st_event _ (fun _ m => st_notify (st_foldl _ (fun _ g m => st_reopenFloor m _ g) _ m) _ _) h

theorem st_enterService (h : Steady s t) : Steady s t.enterService :=
  st_notify (st_foldl _ (fun _ g m => st_ite _ (fun _ => st_markWet m g) (fun _ => m)) _ h.aside) _ _

end Stores

end Sys2Proof.Machine
end

section
/-! SUPPORT. What a command does to the slot records: all but a commit move them as events do, or send them to IDLE; a
commit is one access of its own (O57, O58; R59, R73, R172). -/
namespace Sys2Proof.Machine
open Sys2Proof
set_option Elab.async false

/-- How a command without a commit moves the slot records: each as an event moves it, or to IDLE. -/
structure Pace (s t : State) : Prop where
  slots : ∀ k, SlotMove (s.slot k) (t.slot k) ∨ (t.slot k).state = .idle
  steady : Steady s t

/-- The command is one write of a commit word, with work beside the slots before and after it. -/
def State.commits (s t : State) : Prop := ∃ (u : State) (k : SlotIx) (v : Word), u.slots = s.slots ∧ u.scrubbers = s.scrubbers ∧ u.site = s.site
  ∧ t.slots = (u.commitWrite k v).slots ∧ t.scrubbers = (u.commitWrite k v).scrubbers

section Paces
variable {s t u : State}

theorem Pace.trans (a : Pace s t) (b : Pace t u) : Pace s u := by
  refine ⟨fun k => ?_, a.steady.trans b.steady⟩
  obtain second | idle := b.slots k
  · obtain first | idle := a.slots k
    · exact .inl (first.trans second)
    · exact .inr (not_not.mp fun live => second.live live idle)
  · exact .inr idle

theorem Pace.event (moved : Evolve s t) (steady : Steady s t) : Pace s t := ⟨fun k => .inl (moved.slots k), steady⟩

/-- An update beside the slots and the scrubbers. -/
theorem Pace.aside (slots : t.slots = s.slots := by rfl) (scrubbers : t.scrubbers = s.scrubbers := by rfl) : Pace s t :=
  ⟨fun k => .inl (by rw [slot_of_slots slots]; exact .refl _), (Steady.refl s).aside slots scrubbers⟩

theorem Pace.refl (s : State) : Pace s s := .aside

theorem Pace.ite (c : Prop) [Decidable c] (ht : c → Pace s t) (hu : ¬ c → Pace s u) : Pace s (if c then t else u) := by
  split
  · exact ht ‹_›
  · exact hu ‹_›

theorem Pace.of_portOnly (h : s.portOnly t) : Pace s t := by
  rw [h]
  exact .aside

/-- Work beside the slots, the scrubbers and the site model may come first. -/
theorem pace_after {w : State} (h : Pace w t ∨ w.commits t) (slots : w.slots = s.slots := by rfl)
    (scrubbers : w.scrubbers = s.scrubbers := by rfl) (site : w.site = s.site := by rfl) : Pace s t ∨ s.commits t := by
  obtain moved | ⟨u, k, v, slots', scrubbers', site', commit⟩ := h
  · exact .inl ((Pace.aside slots scrubbers).trans moved)
  · exact .inr ⟨u, k, v, slots'.trans slots, scrubbers'.trans scrubbers, site'.trans site, commit⟩

/-! ### The writers and the control words -/

theorem pace_arbitrate (s : State) : Pace s s.arbitrate := by
  rw [arbitrate_eq]
  exact .aside

theorem pace_notify (s : State) (kind : NoticeKind) (p : List Word) : Pace s (s.notify kind p) :=
  .event (ev_notify (.refl s) kind p) (st_notify (.refl s) kind p)

theorem pace_noticeAdmission (s : State) : Pace s s.noticeAdmission := by
  unfold State.noticeAdmission
  refine .ite _ (fun _ => .refl s) fun _ => ?_
  split
  · exact .refl s
  · exact .ite _ (fun _ => Pace.trans .aside (pace_arbitrate _)) (fun _ => .aside)

theorem pace_noticePublish (s : State) : Pace s s.noticePublish :=
  .ite _ (fun _ => (Pace.of_portOnly (portOnly_endGrant s)).trans (pace_arbitrate _)) (fun _ => .refl s)

theorem pace_mirrorWrite (s : State) : Pace s s.mirrorWrite := by
  refine .ite _ (fun _ => Pace.trans ?_ (pace_arbitrate _)) (fun _ => .refl s)
  obtain ⟨_, e⟩ | ⟨r, _, e⟩ := mirrorGrant_cases s
  · rw [e]; exact .refl s
  · rw [e, writeWords_eq]; exact .aside

theorem pace_tune (s : State) (i : Fin 8) (v : Word) : Pace s (s.tune i v) := by
  have judged (u : State) : Pace u u.judgeThreshold := .ite _ (fun _ => .aside) (fun _ => .refl u)
  exact .ite _ (fun _ => Pace.trans .aside (judged _)) (fun _ => .aside)

theorem pace_clearDsp (s : State) (v : Word) : Pace s (s.clearDsp v) := .ite _ (fun _ => .aside) (fun _ => .aside)

/-! ### Restarts and the entry to SERVICE (R172, R177) -/

theorem pace_restarted (slots : t.slots = Vector.replicate 24 {}) (scrubbers : t.scrubbers = Vector.replicate 16 {}) :
    Pace s t := by
  have slot (k : SlotIx) : t.slot k = {} := by simp [State.slot, slots]
  have scrub (x : ScrubIx) : t.scrub x = {} := by simp [State.scrub, scrubbers]
  refine ⟨fun k => .inr (by rw [slot]), fun _ k => ?_, fun _ x j told => ?_, fun _ k _ => ?_⟩
  · rw [slot]; exact List.nodup_nil
  · rw [scrub] at told; cases told
  · rw [slot]; exact spans_idle rfl

theorem pace_restart (s : State) (c : Cause) : Pace s (s.restart c) := pace_restarted rfl rfl

theorem pace_restartWith (s : State) (c : Cause) (f : InFlight) : Pace s (s.restartWith c f) := pace_restarted rfl rfl

theorem slots_enterService (s : State) : s.enterService.slots = s.slots := by
  unfold State.enterService State.restartWet
  rw [slots_notify, foldl_keeps State.slots _ (fun t g => by split <;> rfl)]

theorem pace_judgeService (s : State) : Pace s s.judgeService := by
  refine .ite _ (fun _ => ⟨fun k => .inl ?_, st_enterService (.refl s)⟩) (fun _ => .refl s)
  rw [slot_of_slots (slots_enterService s)]
  exact .refl _

theorem pace_reportEvent (s : State) (c : CellIx) (v : Word) : Pace s (s.reportEvent c v) := by
  have emptied : Evolve s (s.setCell c {}) := ev_setCell (.refl s) c {}
  have steady : Steady s (s.setCell c {}) := Steady.aside (.refl s)
  unfold State.reportEvent
  dsimp only
  split
  case h_1 => exact .event (ev_invalidReport emptied c _) (st_notify (Steady.aside steady) _ _)
  case h_2 x p _ =>
  refine .ite _ (fun _ => .event (ev_notify emptied _ _) (st_notify steady _ _)) fun _ => Pace.trans ?_ (pace_judgeService _)
  exact .event (ev_event _ (fun _ q => ev_processReport q x p _) emptied)
    (st_event _ (fun _ m => st_processReport m x p _) steady)

/-! ### Commands (R160, R161) -/

/-- What a taken command is made of. -/
theorem pace_cmdOf (i : Issuer) (code : Nat) (f : CmdFields) (taken : s.cmdOf i code f = .ok t) : Pace s t := by
  have withdrawn (x : ScrubIx) (g : Option SegIx) : Pace s (s.withdraw x g).judgeService :=
    (Pace.event (ev_withdraw (.refl s) x g) (st_withdraw (.refl s) x g)).trans (pace_judgeService _)
  unfold State.cmdOf at taken
  split at taken
  case h_1 =>
    unfold State.cmdAckRestart at taken
    split at taken <;> cases taken
    exact Pace.trans .aside (pace_judgeService _)
  case h_2 =>
    unfold State.cmdWithdraw at taken
    (repeat' split at taken) <;> cases taken
    · exact withdrawn _ none
    · exact withdrawn _ (some _)
  case h_3 =>
    unfold State.cmdReadmit at taken
    (repeat' split at taken) <;> cases taken
    exact .event (ev_readmit (.refl s) _) (st_readmit (.refl s) _)
  case h_4 =>
    unfold State.cmdClearViolation at taken
    (repeat' split at taken) <;> cases taken
    exact (Pace.event (ev_liftMark (.refl s) _) (st_liftMark (.refl s) _)).trans (pace_judgeService _)
  case h_5 =>
    unfold State.cmdCloseSegment at taken
    (repeat' split at taken) <;> cases taken
    exact .event (ev_closeSegment (.refl s) i _) (st_closeSegment (.refl s) i _)
  case h_6 =>
    unfold State.cmdReopenSegment at taken
    (repeat' split at taken) <;> cases taken
    exact .event (ev_reopenSegment (.refl s) i _) (st_reopenSegment (.refl s) i _)
  case h_7 =>
    unfold State.cmdCloseZone at taken
    (repeat' split at taken) <;> cases taken
    exact .event (ev_closeZone (.refl s) _) (st_closeZone (.refl s) _)
  case h_8 =>
    unfold State.cmdReopenZone at taken
    (repeat' split at taken) <;> cases taken
    exact .event (ev_reopenZone (.refl s) _) (st_reopenZone (.refl s) _)
  case h_9 =>
    unfold State.cmdReseedZone at taken
    (repeat' split at taken) <;> cases taken
    exact .event (ev_event _ (fun _ q => ev_reseed q _) (.refl s)) (st_event _ (fun _ m => st_reseed m _) (.refl s))
  case h_10 =>
    unfold State.cmdResetNotices at taken
    split at taken <;> cases taken
    exact Pace.trans .aside (pace_notify _ _ _)
  case h_11 =>
    unfold State.cmdReloadSite at taken
    (repeat' split at taken) <;> cases taken <;> exact pace_restart s _
  case h_12 => cases taken

theorem pace_setResultRec (s : State) (i : Issuer) (r : CmdResult) : Pace s (s.setResultRec i r) := by
  cases i <;> exact .aside

theorem pace_issue (s : State) (i : Issuer) (code : Byte) (f : CmdFields) : Pace s (s.issue i code f) := by
  unfold State.issue
  split
  case h_1 t taken =>
    have done : Pace s t := by
      split at taken
      · exact pace_cmdOf i _ f taken
      · cases taken
    exact .ite _ (fun _ => done) (fun _ => done.trans (pace_setResultRec t i _))
  case h_2 =>
    have flagged (t : State) : Pace t (t.flagRefused i) := by cases i <;> exact .aside
    exact ((pace_setResultRec s i _).trans (flagged _)).trans (pace_notify _ _ _)

/-! ### Accesses (R18 to R33) -/

theorem pace_controlWrite (s : State) (c : CtlWord) (v : Word) : Pace s (s.controlWrite c v) := by
  cases c with
  | dspCommand => exact pace_issue s .dispatch _ _
  | opsCommand => exact pace_issue s .operations _ _
  | tuning i => exact pace_tune s i v
  | dspClear => exact pace_clearDsp s v
  | opsClear | dspMask | opsMask | gwyMask | readIx => exact .aside
  | mode | clock | changedSlots | dspResult | opsResult | dspStatus | opsStatus | writeIx | refused | unassigned =>
    exact .refl s

/-- A write of an acted word is a commit or moves the slots as events do. -/
theorem pace_actedWrite (s : State) (p : Place) (v : Word) :
    Pace s (s.actedWrite p v) ∨ ∃ k, s.actedWrite p v = s.commitWrite k v := by
  cases p with
  | control c => exact .inl (pace_controlWrite s c v)
  | slot k w =>
    unfold State.actedWrite
    dsimp only
    by_cases commit : w = 11
    · rw [if_pos commit]
      exact .inr ⟨k, rfl⟩
    · rw [if_neg commit]
      exact .inl (.ite _ (fun _ => .event (ev_cancelWrite (.refl s) k v) (st_cancelWrite (.refl s) k v)) (fun _ => .refl s))
  | general | cell | figure | segView | scrubView | ring => exact .inl (.refl s)

theorem pace_watchedCopy (s : State) (p : Place) (v : Word) : Pace s (s.watchedCopy p v) := by
  cases p with
  | cell c w =>
    unfold State.watchedCopy
    dsimp only
    split
    · exact .event (ev_cellWrite (.refl s) c _ v) (Steady.aside (.refl s))
    · exact pace_reportEvent s c v
  | figure z m =>
    exact .ite _ (fun _ => .event (ev_moisture (.refl s) z _) (st_moisture (.refl s) z _))
      (fun _ => .event (ev_zoneSample (.refl s) z _) (st_zoneSample (.refl s) z _))
  | slot k w =>
    unfold State.watchedCopy
    dsimp only
    split
    · exact .event (ev_draftWrite (.refl s) k _ v) (st_draftWrite (.refl s) k _ v)
    · exact .refl s
  | general | control | segView | scrubView | ring => exact .refl s

theorem pace_handoverRead (s : State) (t : Tag) (p : Place) : Pace s (s.handoverRead t p) := by
  cases p with
  | slot k w =>
    exact .ite _ (fun _ => .event (ev_gatewayHandover (.refl s) k) (st_gatewayHandover (.refl s) k)) (fun _ => .refl s)
  | general | control | cell | figure | segView | scrubView | ring => exact .refl s

/-- An access is carried out by a commit write and its answer, or moves the slots as events do. -/
theorem pace_carryOut (s : State) (a : Access) (f : Fate) :
    Pace s (s.carryOut a f) ∨ f.usesPort = false ∧ ∃ k v, s.carryOut a f = (s.commitWrite k v).answered tookOne := by
  cases f with
  | notReady | badParity | watch v => exact .inl .aside
  | denied => rw [State.carryOut, (deny_spec s a).1]; exact .inl .aside
  | pass l => exact .inl ((Pace.of_portOnly (portOnly_writeWords l s)).trans .aside)
  | act v =>
    obtain moved | ⟨k, commit⟩ := pace_actedWrite s (placeOf a.addr) v
    · exact .inl (moved.trans .aside)
    · exact .inr ⟨rfl, k, v, by rw [State.carryOut, commit]; rfl⟩
  | substitute | shut => exact .inl ((pace_handoverRead s _ _).trans .aside)
  | dirtyRead r =>
    have promoted : Pace s (s.promote r) := .ite _ (fun _ => .refl s) (fun _ => .aside)
    exact .inl (promoted.trans .aside)
  | fetch l =>
    obtain ⟨answer, flags, marks, e⟩ := fetch_eq s l
    rw [State.carryOut, e]
    exact .inl .aside

theorem pace_busAccess (s : State) (a : Access) : Pace s (s.busAccess a) ∨ s.commits (s.busAccess a) := by
  have flagged : Pace s (s.flagParity (s.busParityFails a)) := .ite _ (fun _ => .aside) (fun _ => .refl s)
  have turn (t : State) (ready : Bool) : Pace t (t.atTurn ready) :=
    .ite _ (fun _ => .refl t) (fun _ => .of_portOnly (portOnly_awaitPort t))
  by_cases watch : ∃ v, s.fateOf a = .watch v
  · obtain ⟨v, fate⟩ := watch
    refine .inl ?_
    unfold State.busAccess
    rw [fate]
    exact (((flagged.trans (pace_watchedCopy _ _ v)).trans (turn _ _)).trans .aside).trans (pace_arbitrate _)
  unfold State.busAccess
  dsimp only
  rw [handOver_of_not_watch _ a fun v e => watch ⟨v, e⟩]
  split
  case isTrue port =>
    refine .inl (((flagged.trans (turn _ s.portReady)).trans ?_).trans (pace_arbitrate _))
    obtain moved | ⟨off, _⟩ := pace_carryOut ((s.flagParity (s.busParityFails a)).atTurn s.portReady) a (s.fateOf a)
    · exact moved
    · rw [port] at off; cases off
  case isFalse =>
    obtain moved | ⟨_, k, v, commit⟩ := pace_carryOut (s.flagParity (s.busParityFails a)) a (s.fateOf a)
    · exact .inl (flagged.trans moved)
    · refine .inr ⟨s.flagParity (s.busParityFails a), k, v, ?_, ?_, ?_, by rw [commit]; rfl, by rw [commit]; rfl⟩ <;>
        unfold State.flagParity <;> split <;> rfl

/-! ### The load (R13 to R17) -/

theorem pace_headerIn (s : State) (store : List Byte) : Pace s (s.headerIn store) := by
  refine .ite _ (fun _ => ?_) (fun _ => .refl s)
  dsimp only
  split
  · exact .aside
  · exact .aside

theorem pace_install (s : State) (m : Site) : Pace s (s.install m) := by
  refine Pace.trans (t := { s with site := some m, mode := .initialising, load := .idle }) .aside (.event ?_ ?_)
  · exact ev_foldl _ (fun _ x e => ev_ite _ (fun _ => ev_setScrub e x _) (fun _ => e)) _ (.refl _)
  · exact st_foldl _ (fun _ x m => st_ite _ (fun _ => st_setScrub m x _) (fun _ => m)) _ (.refl _)

theorem pace_imageIn (s : State) (store : List Byte) : Pace s (s.imageIn store) := by
  unfold State.imageIn
  split
  · exact .refl s
  · exact .refl s
  · refine .ite _ (fun _ => ?_) (fun _ => .refl s)
    dsimp only
    split
    · exact .aside
    · exact pace_install s _

/-! ### Every command -/

theorem pace_exec (c : Instr) (h : exec c s = .next t) : Pace s t ∨ s.commits t := by
  cases c with
  | power f => cases h; exact .inl (pace_restartWith s .power f)
  | line f => cases h; exact .inl ((pace_restartWith s .line f).trans .aside)
  | resetRelease => cases h; exact .inl .aside
  | headerRead store => cases h; exact .inl (pace_headerIn s store)
  | siteLoadComplete store => cases h; exact .inl (pace_imageIn s store)
  | flushEnd => cases h; exact .inl (.ite _ (fun _ => .aside) (fun _ => .refl s))
  | planBusAccess a upsets =>
    cases h
    exact pace_after (pace_busAccess (s.upset upsets) a)
  | reloadSite f cut =>
    cases h
    have cutShort : s.portOnly (s.cutForReload cut) := by
      unfold State.cutForReload
      split
      · exact portOnly_writeWords _ s
      · exact portOnly_refl s
    exact pace_after (pace_busAccess (s.cutForReload cut) _) (by rw [cutShort]) (by rw [cutShort]) (by rw [cutShort])
  | confirmOverdue k => cases h; exact .inl (.event (ev_confirmExpiry (.refl s) _) (st_confirmExpiry (.refl s) _))
  | shortenOverdue k => cases h; exact .inl (.event (ev_shortenExpiry (.refl s) _) (st_shortenExpiry (.refl s) _))
  | waitExpired k => cases h; exact .inl (.event (ev_waitExpiry (.refl s) k) (st_waitExpiry (.refl s) k))
  | scrubberLost x => cases h; exact .inl (.event (ev_lostExpiry (.refl s) x) (st_lostExpiry (.refl s) x))
  | dryingExpiry g => cases h; exact .inl (.event (ev_dryingExpiry (.refl s) g) (st_dryingExpiry (.refl s) g))
  | quietTimerExpiry z => cases h; exact .inl (.event (ev_quietExpiry (.refl s) z) (st_quietExpiry (.refl s) z))
  | zoneStale z => cases h; exact .inl (.event (ev_staleExpiry (.refl s) z) (st_staleExpiry (.refl s) z))
  | stuckTimerExpiry z => cases h; exact .inl (.event (ev_stuckExpiry (.refl s) z) (st_stuckExpiry (.refl s) z))
  | haltTimerExpiry z => cases h; exact .inl (.event (ev_haltExpiry (.refl s) z) (st_haltExpiry (.refl s) z))
  | noticeAdmission => cases h; exact .inl (pace_noticeAdmission s)
  | noticePublish => cases h; exact .inl (pace_noticePublish s)
  | mirrorRecordWrite => cases h; exact .inl (pace_mirrorWrite s)
  | interlockClockTick => cases h; exact .inl (.ite _ (fun _ => .refl s) (fun _ => .aside))
  | _ => cases h; exact pace_busAccess s _

theorem pace_step (h : step s = .next t) : Pace s t ∨ s.commits t := by
  unfold step at h
  split at h
  case h_1 => cases h; exact .inl (.refl _)
  case h_2 c rest _ => exact pace_after (pace_exec (s := { s with pending := rest }) c h)

end Paces

end Sys2Proof.Machine
end

section
/-! SUPPORT. The structural passes check by check: the draft's entries, its captured route, neighbours, repetitions and
floor, each with the index of its first failure (R60 to R62). -/
namespace Sys2Proof.Machine
open Sys2Proof

/-! ### Searches along a route -/

/-- The first entry of a numbered list that a test picks. -/
theorem find_zipIdx_first {α : Type} {l : List α} {i : Nat} {a : α} (p : α × Nat → Bool) (here : l[i]? = some a)
    (picked : p (a, i + 1) = true) (before : ∀ j < i, ∀ b, l[j]? = some b → p (b, j + 1) = false) :
    (l.zipIdx 1).find? p = some (a, i + 1) := by
  obtain ⟨low, value⟩ := List.getElem?_eq_some_iff.mp here
  refine List.find?_eq_some_iff_getElem.mpr ⟨picked, i, by simpa using low, ?_, fun j early => ?_⟩
  · simp [value, Nat.add_comm]
  · have unpicked := before j early _ (List.getElem?_eq_getElem (early.trans low))
    simp [Nat.add_comm 1 j, unpicked]

/-- Consecutive segments of a route are neighbours. -/
def State.chained (s : State) (l : List SegIx) : Prop :=
  ∀ (i : Nat) (a b : SegIx), l[i]? = some a → l[i + 1]? = some b → b ∈ (s.fixed a).nbrs

theorem adjacent_iff (s : State) (a b : SegIx) : s.adjacent a b = true ↔ b ∈ (s.fixed a).nbrs := by
  simp [State.adjacent]

section Adjacency
variable {s : State}

theorem chained_cons_cons (a b : SegIx) (l : List SegIx) :
    s.chained (a :: b :: l) ↔ b ∈ (s.fixed a).nbrs ∧ s.chained (b :: l) := by
  constructor
  · intro chain
    exact ⟨chain 0 a b rfl rfl, fun i c d first second => chain (i + 1) c d first second⟩
  · rintro ⟨step, chain⟩ i c d first second
    cases i with
    | zero =>
      cases first
      cases second
      exact step
    | succ i => exact chain i c d first second

theorem firstNotAdjacent_none_iff (l : List SegIx) (n : Nat) :
    s.firstNotAdjacent (l.zipIdx n) = none ↔ s.chained l := by
  induction l generalizing n with
  | nil => exact ⟨fun _ i a b first => (by simp at first), fun _ => rfl⟩
  | cons a l ih =>
    cases l with
    | nil => exact ⟨fun _ i a b _ second => (by simp at second), fun _ => rfl⟩
    | cons b l =>
      rw [chained_cons_cons, ← adjacent_iff, ← ih (n + 1)]
      simp only [List.zipIdx_cons, State.firstNotAdjacent]
      split
      case isTrue step => simp [step]
      case isFalse step => simp [step]

theorem firstNotAdjacent_first {l : List SegIx} (n : Nat) {i : Nat} {a b : SegIx} (first : l[i]? = some a)
    (second : l[i + 1]? = some b) (apart : b ∉ (s.fixed a).nbrs)
    (before : ∀ j c d, j < i → l[j]? = some c → l[j + 1]? = some d → d ∈ (s.fixed c).nbrs) :
    s.firstNotAdjacent (l.zipIdx n) = some (n + i + 1) := by
  induction l generalizing n i with
  | nil => simp at first
  | cons c l ih =>
    cases l with
    | nil => simp at second
    | cons d l =>
      simp only [List.zipIdx_cons, State.firstNotAdjacent]
      cases i with
      | zero =>
        cases first
        cases second
        rw [if_neg (mt (adjacent_iff s a b).mp apart)]
      | succ i =>
        have step : d ∈ (s.fixed c).nbrs := before 0 c d (Nat.succ_pos i) rfl rfl
        have rest := ih (n + 1) first second fun j e f early => before (j + 1) e f (Nat.succ_lt_succ early)
        rw [List.zipIdx_cons] at rest
        rw [if_pos ((adjacent_iff s c d).mpr step), rest]
        exact congrArg some (by omega)

end Adjacency

theorem firstRepeated_none_iff (seen l : List SegIx) (n : Nat) :
    firstRepeated seen (l.zipIdx n) = none ↔ l.Nodup ∧ ∀ g ∈ l, g ∉ seen := by
  induction l generalizing seen n with
  | nil => simp [firstRepeated]
  | cons a l ih =>
    rw [List.zipIdx_cons, firstRepeated]
    split
    case isTrue again => simp [again]
    case isFalse new =>
      rw [ih, List.nodup_cons]
      constructor
      · rintro ⟨distinct, apart⟩
        refine ⟨⟨fun again => apart a again List.mem_cons_self, distinct⟩, fun g mem => ?_⟩
        obtain rfl | later := List.mem_cons.mp mem
        · exact new
        · exact fun old => apart g later (List.mem_cons_of_mem _ old)
      · rintro ⟨⟨once, distinct⟩, apart⟩
        refine ⟨distinct, fun g mem old => ?_⟩
        obtain rfl | old := List.mem_cons.mp old
        · exact once mem
        · exact apart g (List.mem_cons_of_mem _ mem) old

theorem firstRepeated_first {l : List SegIx} (seen : List SegIx) (n : Nat) {i : Nat} {g : SegIx} (here : l[i]? = some g)
    (again : g ∈ seen ∨ g ∈ l.take i) (distinct : (l.take i).Nodup) (apart : ∀ f ∈ l.take i, f ∉ seen) :
    firstRepeated seen (l.zipIdx n) = some (n + i) := by
  induction l generalizing seen n i with
  | nil => simp at here
  | cons a l ih =>
    rw [List.zipIdx_cons, firstRepeated]
    cases i with
    | zero =>
      cases here
      rw [if_pos (by simpa using again)]
      rfl
    | succ i =>
      rw [List.take_succ_cons] at again distinct apart
      obtain ⟨once, distinct⟩ := List.nodup_cons.mp distinct
      rw [if_neg (apart a List.mem_cons_self), ih (a :: seen) (n + 1) here ?_ distinct fun f mem old => ?_]
      · congr 1
        omega
      · simpa [or_left_comm, or_assoc] using again
      · obtain rfl | old := List.mem_cons.mp old
        · exact once mem
        · exact apart f (List.mem_cons_of_mem _ mem) old

/-! ### The draft's values and its captured route (R60, R61) -/

section Drafts
variable {s : State} {d : Draft}

theorem entries_at (i : Fin 10) (within : i.val < d.length.toNat) :
    (d.route.toList.take d.length.toNat)[i.val]? = some (d.route[i.val]) := by
  simp [within]

theorem entries_value {i : Nat} {w : Word} (h : (d.route.toList.take d.length.toNat)[i]? = some w) :
    ∃ short : i < 10, i < d.length.toNat ∧ w = d.route[i] := by
  rw [List.getElem?_take] at h
  split at h
  case isTrue within =>
    obtain ⟨short, value⟩ := List.getElem?_eq_some_iff.mp h
    exact ⟨by simpa using short, within, by simpa using value.symm⟩
  case isFalse => cases h

theorem not_outOfRange_iff (s : State) (v : Word) : ¬ valueOutOfRange s v ↔ 1 ≤ v.toNat ∧ v.toNat ≤ s.n := by
  unfold valueOutOfRange
  omega

/-- Every value that the length takes names a segment 1 to n. -/
def State.ranged (s : State) (d : Draft) : Prop :=
  ∀ i : Fin 10, i.val < d.length.toNat → ¬ valueOutOfRange s (d.route[i.val])

theorem firstOutOfRange_none_iff : s.firstOutOfRange d = none ↔ s.ranged d := by
  unfold State.firstOutOfRange Draft.entries State.ranged
  simp only [Option.map_eq_none_iff, List.find?_eq_none, not_outOfRange_iff]
  constructor
  · intro all i within
    have entry : (d.route[i.val], i.val + 1) ∈ (d.route.toList.take d.length.toNat).zipIdx 1 :=
      List.mk_mem_zipIdx_iff_le_and_getElem?_sub.mpr ⟨Nat.le_add_left _ _, entries_at i within⟩
    simpa [Nat.one_le_iff_ne_zero] using all _ entry
  · rintro all ⟨w, i⟩ entry
    obtain ⟨_, value⟩ := List.mk_mem_zipIdx_iff_le_and_getElem?_sub.mp entry
    obtain ⟨short, within, rfl⟩ := entries_value value
    simpa [Nat.one_le_iff_ne_zero] using all ⟨i - 1, short⟩ within

theorem firstOutOfRange_first (i : Fin 10) (within : i.val < d.length.toNat) (out : valueOutOfRange s (d.route[i.val]))
    (before : ∀ j : Fin 10, j.val < i.val → ¬ valueOutOfRange s (d.route[j.val])) :
    s.firstOutOfRange d = some (i.val + 1) := by
  unfold State.firstOutOfRange Draft.entries
  rw [find_zipIdx_first _ (entries_at i within) ?_ fun j early w value => ?_]
  · rfl
  · simpa only [← not_outOfRange_iff, Bool.not_eq_true', decide_eq_false_iff_not, not_not] using out
  · obtain ⟨short, _, rfl⟩ := entries_value value
    simpa [← not_outOfRange_iff] using before ⟨j, short⟩ early

/-- The captured route names the draft's values one by one. -/
theorem captured_map (few : s.n ≤ 255) (ranged : s.ranged d) :
    d.captured.map (fun g => g.val + 1) = (d.route.toList.take d.length.toNat).map BitVec.toNat := by
  have split : d.captured = ((d.route.toList.take d.length.toNat).map BitVec.toNat).filterMap (ixOf 255) := by
    unfold Draft.captured Draft.entries
    rw [List.filterMap_map]
    have unnumbered (l : List Word) (n : Nat) : (l.zipIdx n).filterMap (fun e => ixOf 255 e.1.toNat)
        = l.filterMap (ixOf 255 ∘ BitVec.toNat) := by
      conv_rhs => rw [← List.zipIdx_map_fst n l, List.filterMap_map]
      rfl
    exact unnumbered _ 1
  rw [split]
  refine filterMap_ixOf 255 _ fun v mem => ?_
  obtain ⟨w, taken, rfl⟩ := List.mem_map.mp mem
  obtain ⟨i, value⟩ := List.getElem?_of_mem taken
  obtain ⟨short, within, rfl⟩ := entries_value value
  obtain ⟨low, high⟩ := (not_outOfRange_iff s _).mp (ranged ⟨i, short⟩ within)
  exact ⟨low, high.trans few⟩

theorem length_captured_eq (few : s.n ≤ 255) (ranged : s.ranged d) (short : d.length.toNat ≤ 10) :
    d.captured.length = d.length.toNat := by
  have lengths := congrArg List.length (captured_map few ranged)
  simpa [short] using lengths

theorem captured_ne_nil (few : s.n ≤ 255) (ranged : s.ranged d) (ok : d.lengthOk = true) : d.captured ≠ [] := by
  obtain ⟨low, short⟩ := of_decide_eq_true ok
  intro none
  have lengths := length_captured_eq few ranged short
  rw [none, List.length_nil] at lengths
  omega

end Drafts

/-! ### The checks of a fleet commit (R61) -/

section Checks
variable {s : State} {k : SlotIx} {x : ScrubIx} {m : AuthMode} {d : Draft}

theorem namedElsewhere_iff : s.namedElsewhere k x = true
    ↔ ∃ j : SlotIx, j.val < 20 ∧ j ≠ k ∧ (s.slot j).state ≠ .idle ∧ (s.slot j).scrubber = some x := by
  simp [State.namedElsewhere, isFleet, SlotState.live, and_assoc]

theorem namedElsewhere_false_iff : s.namedElsewhere k x = false
    ↔ ∀ j : SlotIx, j.val < 20 → j ≠ k → (s.slot j).state ≠ .idle → (s.slot j).scrubber ≠ some x := by
  rw [← Bool.not_eq_true, namedElsewhere_iff]
  push Not
  rfl

/-- The checks of the scrubber and of the route's start pass. -/
structure State.Ready (s : State) (k : SlotIx) (x : ScrubIx) : Prop where
  heard : (s.scrub x).state = .heard
  unmarked : (s.scrub x).mark = false
  free : s.namedElsewhere k x = false

/-- The checks of the route itself: neighbours, repetition, floor (R61, checks 9 to 11). -/
def State.routeChecks (s : State) (m : AuthMode) (l : List SegIx) : Option (Result × Nat) :=
  match s.firstNotAdjacent (l.zipIdx 1) with
  | some i => some (.notAdjacent, i)
  | none =>
    match firstRepeated [] (l.zipIdx 1) with
    | some i => some (.repeated, i)
    | none =>
      if m = .scrub then ((l.zipIdx 1).find? (fun e => !s.permitsScrub e.1)).map (fun e => (Result.floor, e.2)) else none

theorem head_zipIdx (l : List SegIx) : (l.zipIdx 1).head?.map Prod.fst = l.head? := by
  rw [← List.head?_map, List.zipIdx_map_fst]

/-- A scrubber that is ready where the route starts leaves the checks of the route. -/
theorem fleetChecks_ready (ready : s.Ready k x) {l : List SegIx} (start : l.head? = (s.scrub x).current) :
    s.fleetChecks k x m (l.zipIdx 1) = s.routeChecks m l := by
  obtain ⟨heard, unmarked, free⟩ := ready
  unfold State.fleetChecks
  dsimp only
  rw [heard, unmarked, free, head_zipIdx, if_neg (by decide), if_neg (by decide), if_neg (not_not.mpr rfl),
    if_neg Bool.false_ne_true, if_neg Bool.false_ne_true, if_neg (not_not.mpr start)]
  rfl

/-- The checks before those of the route fail unless the scrubber is ready where the route starts. -/
theorem ready_of_fleetChecks {l : List SegIx} (passes : s.fleetChecks k x m (l.zipIdx 1) = none) :
    s.Ready k x ∧ l.head? = (s.scrub x).current := by
  unfold State.fleetChecks at passes
  dsimp only at passes
  rw [head_zipIdx] at passes
  split at passes
  · cases passes
  split at passes
  · cases passes
  split at passes
  · cases passes
  case isFalse heard =>
  split at passes
  · cases passes
  case isFalse unmarked =>
  split at passes
  · cases passes
  case isFalse free =>
  split at passes
  · cases passes
  case isFalse start =>
  exact ⟨⟨not_not.mp heard, by simpa using unmarked, by simpa using free⟩, not_not.mp start⟩

/-- A route passes its checks when it is chained, without repetition, and permits scrubbing where that is asked. -/
structure State.Passable (s : State) (m : AuthMode) (l : List SegIx) : Prop where
  chained : s.chained l
  distinct : l.Nodup
  permits : m = .scrub → ∀ g ∈ l, s.permitsScrub g = true

theorem permits_iff (l : List SegIx) (n : Nat) :
    (l.zipIdx n).find? (fun e => !s.permitsScrub e.1) = none ↔ ∀ g ∈ l, s.permitsScrub g = true := by
  rw [List.find?_eq_none]
  constructor
  · intro all g mem
    rw [← List.zipIdx_map_fst n l] at mem
    obtain ⟨e, entry, rfl⟩ := List.mem_map.mp mem
    simpa using all e entry
  · intro all e entry
    simpa using all e.1 (List.fst_mem_of_mem_zipIdx entry)

theorem routeChecks_none_iff {l : List SegIx} : s.routeChecks m l = none ↔ s.Passable m l := by
  have distinct := firstRepeated_none_iff [] l 1
  unfold State.routeChecks
  constructor
  · intro passes
    split at passes
    · cases passes
    case h_2 adjacent =>
    split at passes
    · cases passes
    case h_2 once =>
    refine ⟨(firstNotAdjacent_none_iff l 1).mp adjacent, (distinct.mp once).1, fun scrub => ?_⟩
    rw [if_pos scrub, Option.map_eq_none_iff] at passes
    exact (permits_iff l 1).mp passes
  · rintro ⟨chained, once, permits⟩
    rw [(firstNotAdjacent_none_iff l 1).mpr chained, distinct.mpr ⟨once, fun _ _ => List.not_mem_nil⟩]
    dsimp only
    split
    case isTrue scrub => rw [(permits_iff l 1).mpr (permits scrub)]; rfl
    case isFalse => rfl

theorem fleetChecks_none_iff {l : List SegIx} : s.fleetChecks k x m (l.zipIdx 1) = none
    ↔ s.Ready k x ∧ l.head? = (s.scrub x).current ∧ s.Passable m l := by
  constructor
  · intro passes
    obtain ⟨ready, start⟩ := ready_of_fleetChecks passes
    rw [fleetChecks_ready ready start, routeChecks_none_iff] at passes
    exact ⟨ready, start, passes⟩
  · rintro ⟨ready, start, passable⟩
    rw [fleetChecks_ready ready start]
    exact routeChecks_none_iff.mpr passable

/-! ### The structural passes as a whole (R61, R62) -/

/-- A draft whose header and values are in range passes or fails by the checks on its captured route. -/
theorem structuralFleet_format (scrubber : ixOf 16 (s.slot k).draft.scrubber.toNat = some x)
    (mode : authModeOf (s.slot k).draft.mode = some m) (length : (s.slot k).draft.lengthOk = true)
    (ranged : s.ranged (s.slot k).draft) :
    (s.fleetChecks k x m ((s.slot k).draft.captured.zipIdx 1) = none → s.structuralFleet k = .ok (x, m))
      ∧ ∀ f, s.fleetChecks k x m ((s.slot k).draft.captured.zipIdx 1) = some f → s.structuralFleet k = .error f := by
  unfold State.structuralFleet
  dsimp only
  rw [scrubber, mode, length]
  dsimp only
  rw [firstOutOfRange_none_iff.mpr ranged]
  exact ⟨fun checks => by rw [checks], fun f checks => by rw [checks]⟩

theorem structuralFleet_ok_iff : s.structuralFleet k = .ok (x, m)
    ↔ ixOf 16 (s.slot k).draft.scrubber.toNat = some x ∧ authModeOf (s.slot k).draft.mode = some m
      ∧ (s.slot k).draft.lengthOk = true ∧ s.ranged (s.slot k).draft
      ∧ s.fleetChecks k x m ((s.slot k).draft.captured.zipIdx 1) = none := by
  constructor
  · intro passes
    have ranged := firstOutOfRange_none_iff.mp (firstOutOfRange_of_fleet passes)
    unfold State.structuralFleet at passes
    dsimp only at passes
    split at passes
    case h_2 => cases passes
    case h_1 y a scrubber mode length =>
    split at passes
    · cases passes
    split at passes
    · cases passes
    case h_2 checks =>
    cases passes
    exact ⟨scrubber, mode, length, ranged, checks⟩
  · rintro ⟨scrubber, mode, length, ranged, checks⟩
    exact (structuralFleet_format scrubber mode length ranged).1 checks

theorem structuralPassenger_ranged (length : (s.slot k).draft.lengthOk = true) (ranged : s.ranged (s.slot k).draft) :
    s.structuralPassenger k
      = (firstRepeated [] ((s.slot k).draft.captured.zipIdx 1)).map (fun i => (Result.repeated, i)) := by
  unfold State.structuralPassenger
  dsimp only
  rw [length, firstOutOfRange_none_iff.mpr ranged]
  rfl

theorem structuralPassenger_none_iff : s.structuralPassenger k = none
    ↔ (s.slot k).draft.lengthOk = true ∧ s.ranged (s.slot k).draft ∧ (s.slot k).draft.captured.Nodup := by
  have distinct := firstRepeated_none_iff [] (s.slot k).draft.captured 1
  constructor
  · intro passes
    have ranged := firstOutOfRange_none_iff.mp (firstOutOfRange_of_passenger passes)
    have length : (s.slot k).draft.lengthOk = true := by
      by_contra bad
      unfold State.structuralPassenger at passes
      dsimp only at passes
      rw [if_pos (by simpa using bad)] at passes
      cases passes
    rw [structuralPassenger_ranged length ranged, Option.map_eq_none_iff] at passes
    exact ⟨length, ranged, (distinct.mp passes).1⟩
  · rintro ⟨length, ranged, once⟩
    rw [structuralPassenger_ranged length ranged, distinct.mpr ⟨once, fun _ _ => List.not_mem_nil⟩]
    rfl

end Checks

end Sys2Proof.Machine
end

section
/-! SUPPORT. A commit and the laws of the slots: the committed slot was IDLE, the others move as events move them (O57, O58;
R59 to R67). -/
namespace Sys2Proof.Machine
open Sys2Proof
set_option Elab.async false

/-- What a commit that leaves IDLE does to the slots: the other slots move as events move them, and the laws are kept. -/
structure Seating (few : Prop) (k : SlotIx) (s t : State) : Prop where
  others : ∀ j, j ≠ k → SlotMove (s.slot j) (t.slot j)
  oneSlot : s.oneSlotLaw → t.oneSlotLaw
  queue : s.queueLaw → t.queueLaw
  distinct : s.distinctLaw → t.distinctLaw
  live : s.liveSlotLaw → t.liveSlotLaw
  span : few → s.spanLaw → t.spanLaw

section Commits
variable {few : Prop} {s t u : State} {k : SlotIx} {x : ScrubIx} {m : AuthMode}

theorem Seating.of_event (moved : Evolve s t) (steady : Steady s t) : Seating few k s t :=
  ⟨fun j _ => moved.slots j, moved.toCalm.oneSlot, moved.toCalm.queue, steady.distinct, steady.live, fun _ => steady.span⟩

theorem Seating.trans (a : Seating few k s t) (b : Seating few k t u) : Seating few k s u :=
  ⟨fun j ne => (a.others j ne).trans (b.others j ne), b.oneSlot ∘ a.oneSlot, b.queue ∘ a.queue, b.distinct ∘ a.distinct,
    b.live ∘ a.live, fun f => b.span f ∘ a.span f⟩

/-! ### The laws after one slot has left IDLE -/

/-- A slot that comes to name a scrubber which no other live fleet slot names, or a passenger slot (R61, check 7). -/
theorem oneSlotLaw_seated {r : Slot} (slot : ∀ j, u.slot j = if k = j then r else s.slot j)
    (named : isFleet k = true → ∃ x, r.scrubber = some x ∧ s.namedElsewhere k x = false) (law : s.oneSlotLaw) :
    u.oneSlotLaw := by
  obtain ⟨names, once⟩ := law
  have apart (fleet : isFleet k = true) (j : SlotIx) (ne : k ≠ j) (fleet' : isFleet j = true)
      (live : (s.slot j).state.live = true) : r.scrubber ≠ (s.slot j).scrubber := by
    obtain ⟨x, names, free⟩ := named fleet
    rw [names]
    exact fun same => namedElsewhere_false_iff.mp free j (of_decide_eq_true fleet') ne.symm
      (by simpa [SlotState.live] using live) same.symm
  refine ⟨fun j fleet live => ?_, fun i j fleetI fleetJ liveI liveJ same => ?_⟩
  · rw [slot] at live ⊢
    split at live
    case isTrue here =>
      obtain ⟨x, names, _⟩ := named (here ▸ fleet)
      rw [if_pos here, names]
      rfl
    case isFalse other =>
      rw [if_neg other]
      exact names j fleet live
  · rw [slot] at liveI liveJ same
    rw [slot] at same
    by_cases hereI : k = i <;> by_cases hereJ : k = j
    · exact hereI.symm.trans hereJ
    · rw [if_pos hereI, if_neg hereJ] at same
      rw [if_neg hereJ] at liveJ
      exact absurd same (apart (hereI ▸ fleetI) j hereJ fleetJ liveJ)
    · rw [if_neg hereI, if_pos hereJ] at same
      rw [if_neg hereI] at liveI
      exact absurd same.symm (apart (hereJ ▸ fleetJ) i hereI fleetI liveI)
    · rw [if_neg hereI] at liveI same
      rw [if_neg hereJ] at liveJ same
      exact once i j fleetI fleetJ liveI liveJ same

theorem mem_joinQueue (q : List SlotIx) (j : SlotIx) : j ∈ joinQueue k q ↔ j = k ∨ j ∈ q := by
  unfold joinQueue
  split
  · simp [or_comm]
  · cases fleet : isFleet j <;> simp [fleet, or_comm]

theorem nodup_joinQueue {q : List SlotIx} (once : q.Nodup) (new : k ∉ q) : (joinQueue k q).Nodup := by
  unfold joinQueue
  split
  · simpa using once.concat new
  · refine List.nodup_append.mpr ⟨once.filter _, List.nodup_cons.mpr ⟨?_, once.filter _⟩, ?_⟩
    · exact fun mem => new (List.mem_of_mem_filter mem)
    · rintro a front b back rfl
      obtain rfl | back := List.mem_cons.mp back
      · exact new (List.mem_of_mem_filter front)
      · simp [(List.mem_filter.mp back).2] at front

/-- Joining keeps the passenger slots ahead (R69). -/
theorem joinQueue_ordered {q : List SlotIx} (ordered : q = q.filter (fun j => !isFleet j) ++ q.filter isFleet) :
    joinQueue k q = (joinQueue k q).filter (fun j => !isFleet j) ++ (joinQueue k q).filter isFleet := by
  unfold joinQueue
  cases fleet : isFleet k
  · rw [if_neg Bool.false_ne_true]
    simp [fleet, List.filter_append, List.filter_filter]
  · rw [if_pos rfl]
    conv_lhs => rw [ordered]
    simp [fleet, List.filter_append]

/-- An IDLE slot that becomes WAITING joins the queue (R66, R67, R69). -/
theorem queueLaw_joined (idle : (s.slot k).state = .idle) (queue : u.queue = joinQueue k s.queue)
    (waits : (u.slot k).state = .waiting) (others : ∀ j, j ≠ k → (u.slot j).state = (s.slot j).state) (law : s.queueLaw) :
    u.queueLaw := by
  obtain ⟨once, members, ordered⟩ := law
  have new : k ∉ s.queue := fun mem => by
    have waiting := (members k).mp mem
    rw [idle] at waiting
    cases waiting
  refine ⟨queue ▸ nodup_joinQueue once new, fun j => ?_, queue ▸ joinQueue_ordered ordered⟩
  rw [queue, mem_joinQueue, members]
  by_cases here : j = k
  · subst here
    simp [waits]
  · simp [here, others j here]

/-! ### The captured record (R60) -/

/-- An IDLE slot's record that stays IDLE, with a route without repetition. -/
theorem seating_captured (r : Slot) (idle : (s.slot k).state = .idle) (stays : r.state = .idle) (once : r.route.Nodup) :
    Seating few k s (s.setSlot k r) := by
  have state (j : SlotIx) : ((s.setSlot k r).slot j).state = (s.slot j).state := by
    rw [slot_setSlot]
    split
    case isTrue here => rw [← here, stays, idle]
    case isFalse => rfl
  have other (j : SlotIx) (ne : j ≠ k) : (s.setSlot k r).slot j = s.slot j := slot_setSlot_other s k j r ne.symm
  have alive {j : SlotIx} (live : ((s.setSlot k r).slot j).state.live = true) : j ≠ k := by
    rintro rfl
    rw [state, idle] at live
    cases live
  have steady : Steady s (s.setSlot k r) := st_setSlot (.refl s) k r
    ⟨fun _ => once, fun live => (by rw [idle] at live; cases live), fun _ => spans_idle stays⟩
  refine ⟨fun j ne => by rw [other j ne]; exact .refl _, fun law => ⟨fun j fleet live => ?_, fun i j fi fj li lj same => ?_⟩,
    fun law => queueLaw_same s _ law rfl fun j => by rw [state], steady.distinct, steady.live, fun _ => steady.span⟩
  · have apart := alive live
    rw [other j apart] at live ⊢
    exact law.1 j fleet live
  · have apart := alive li
    have apart' := alive lj
    rw [other i apart] at li same
    rw [other j apart'] at lj same
    exact law.2 i j fi fj li lj same

/-! ### Fleet commits (R61, R63, R65, R66) -/

theorem seating_grant (fleet : isFleet k = true) (named : (s.slot k).scrubber = some x)
    (free : s.namedElsewhere k x = false) (route : few → (s.slot k).route ≠ []) : Seating few k s (s.grant k) := by
  have slot := slot_grant named
  have frame := frame_grant fleet named
  refine ⟨fun j ne => ?_, fun law => ?_, fun law => ?_, distinctLaw_seated slot id,
    liveSlotLaw_seated slot (liveSlot_grant named) named named rfl, fun f => spanLaw_seated slot fun _ => spans_granted (route f)⟩
  · rw [slot, if_neg ne.symm]
    exact .refl _
  · exact oneSlotLaw_seated slot (fun _ => ⟨x, named, free⟩) law
  · refine queueLaw_left s _ k law (by rw [frame]) ?_ fun j ne => by rw [slot, if_neg ne.symm]
    rw [slot, if_pos rfl]
    exact SlotState.noConfusion

/-- The slot becomes WAITING, and its scrubber is told (R66). -/
theorem seating_wait (idle : (s.slot k).state = .idle) (named : (s.slot k).scrubber = some x)
    (free : s.namedElsewhere k x = false) (route : few → (s.slot k).route ≠ []) (f : Result × Nat) (limit : Nat) :
    Seating few k s ((s.setLive (some x) (asFleet k)).beginWaiting k f limit) := by
  have slot := slot_beginWaiting (s := s.setLive (some x) (asFleet k)) (k := k) f limit
  have frame := frame_beginWaiting (s := s.setLive (some x) (asFleet k)) (k := k) f limit
  refine ⟨fun j ne => ?_, fun law => ?_, fun law => ?_, distinctLaw_seated slot id,
    liveSlotLaw_seated slot (x := x) (fun y => ?_) named named rfl,
    fun f => spanLaw_seated slot fun _ => ⟨fun _ => route f, fun h => by cases h⟩⟩
  · rw [slot, if_neg ne.symm]
    exact .refl _
  · exact oneSlotLaw_seated slot (fun _ => ⟨x, named, free⟩) law
  · refine queueLaw_joined idle (by rw [frame]; rfl) ?_ (fun j ne => ?_) law
    · rw [slot, if_pos rfl]
    · rw [slot, if_neg ne.symm]
      rfl
  · have told : ((s.setLive (some x) (asFleet k)).beginWaiting k f limit).scrub y
        = (s.setLive (some x) (asFleet k)).scrub y := by
      unfold State.scrub
      rw [frame]
    rw [told, scrub_setLive]
    simp only [Option.some.injEq, eq_comm (a := x)]
    split <;> rfl

theorem seating_refuseCommit (f : Result × Nat) : Seating few k s (s.refuseCommit k f) :=
  .of_event (ev_refuseCommit (.refl s) k f) (st_refuseCommit (.refl s) k f)

theorem seating_settle (h : Seating few k s t) : Seating few k s t.settle :=
  h.trans (.of_event (ev_settle (.refl t)) (st_settle (.refl t)))

theorem seating_commitFleet (small : few → s.n ≤ 255) (fleet : isFleet k = true) (idle : (s.slot k).state = .idle) (wait : Bool) :
    Seating few k s (s.commitFleet k wait) := by
  unfold State.commitFleet
  split
  case h_1 => exact seating_refuseCommit _
  case h_2 x m passes =>
  obtain ⟨_, _, length, ranged, checks⟩ := structuralFleet_ok_iff.mp passes
  obtain ⟨ready, _, passable⟩ := fleetChecks_none_iff.mp checks
  have captured : Seating few k s (s.captureFleet k x m) := seating_captured _ idle idle passable.distinct
  have record := slot_captureFleet (s := s) (k := k) x m k
  rw [if_pos rfl] at record
  have still : ((s.captureFleet k x m).slot k).state = .idle := by rw [record]; exact idle
  have named : ((s.captureFleet k x m).slot k).scrubber = some x := by rw [record]
  have route (f : few) : ((s.captureFleet k x m).slot k).route ≠ [] := by
    rw [record]
    exact captured_ne_nil (small f) ranged length
  have free : (s.captureFleet k x m).namedElsewhere k x = false := by
    refine namedElsewhere_false_iff.mpr fun j fleet ne => ?_
    rw [slot_captureFleet, if_neg ne.symm]
    exact namedElsewhere_false_iff.mp ready.free j fleet ne
  dsimp only
  split
  · exact captured.trans (seating_grant fleet named free route)
  · split
    · exact captured.trans (seating_wait still named free route _ _)
    · exact seating_refuseCommit _

/-! ### Passenger commits (R62, R63, R67, R154, R155) -/

theorem seating_activate (passenger : isFleet k = false) : Seating few k s (s.activate k) := by
  have steady := st_activate (.refl s) k passenger
  have slot := slot_activate (s := s) (k := k)
  have frame := frame_activate (s := s) passenger
  refine ⟨fun j ne => ?_, fun law => ?_, fun law => ?_, steady.distinct, steady.live, fun _ => steady.span⟩
  · rw [slot, if_neg ne.symm]
    exact .refl _
  · exact oneSlotLaw_seated slot (fun fleet => by rw [passenger] at fleet; cases fleet) law
  · refine queueLaw_left s _ k law (by rw [frame]) ?_ fun j ne => by rw [slot, if_neg ne.symm]
    rw [slot, if_pos rfl]
    exact SlotState.noConfusion

theorem seating_waitClaiming (passenger : isFleet k = false) (idle : (s.slot k).state = .idle)
    (once : (s.slot k).draft.captured.Nodup) (f : Result × Nat) : Seating few k s (s.waitClaiming k f) := by
  have slot := slot_waitClaiming (s := s) (k := k) f
  have frame := frame_waitClaiming (s := s) (k := k) f
  have steady := steady_passenger passenger slot (by rw [frame]) fun _ => once
  refine ⟨fun j ne => ?_, fun law => ?_, fun law => ?_, steady.distinct, steady.live, fun _ => steady.span⟩
  · rw [slot, if_neg ne.symm]
    exact .refl _
  · exact oneSlotLaw_seated slot (fun fleet => by rw [passenger] at fleet; cases fleet) law
  · refine queueLaw_joined idle (by rw [frame]) ?_ (fun j ne => ?_) law
    · rw [slot, if_pos rfl]
      rfl
    · rw [slot, if_neg ne.symm]

theorem seating_commitPassenger (passenger : isFleet k = false) (idle : (s.slot k).state = .idle) :
    Seating few k s (s.commitPassenger k) := by
  cases passes : s.structuralPassenger k with
  | some f =>
    have refused : s.commitPassenger k = s.refuseCommit k f := by unfold State.commitPassenger; rw [passes]
    rw [refused]
    exact seating_refuseCommit f
  | none =>
  obtain ⟨_, _, once⟩ := structuralPassenger_none_iff.mp passes
  have captured : Seating few k s (s.capturePassenger k) := seating_captured _ idle idle once
  cases available : (s.capturePassenger k).availability k with
  | none =>
    rw [commitPassenger_activates passes available]
    exact captured.trans (seating_activate passenger)
  | some f =>
    rw [commitPassenger_waits passes available]
    refine (seating_waitClaiming passenger idle once f).trans ?_
    exact .of_event (ev_preempt (.refl _) _) (st_preempt (.refl _) _)

/-! ### Every commit (R59) -/

/-- A commit of a live slot is an event like any other. -/
theorem commitWrite_live (live : (s.slot k).state ≠ .idle) (v : Word) :
    Evolve s (s.commitWrite k v) ∧ Steady s (s.commitWrite k v) := by
  have alive : (s.clearFreeing.slot k).state.live = true := by simpa [SlotState.live] using live
  unfold State.commitWrite State.event
  dsimp only
  rw [if_pos alive]
  refine ⟨ev_settle (ev_ite _ (fun _ => ?_) (fun _ => ?_)), st_settle (st_ite _ (fun _ => ?_) (fun _ => ?_))⟩
  · exact ev_refuseCommit (ev_clearFreeing (.refl s)) k _
  · exact ev_refuseOnly (ev_clearFreeing (.refl s)) k _
  · exact st_refuseCommit (Steady.aside (.refl s)) k _
  · exact st_refuseOnly (Steady.aside (.refl s)) k _

theorem seating_commitWrite (small : few → s.n ≤ 255) (k : SlotIx) (v : Word) : Seating few k s (s.commitWrite k v) := by
  by_cases idle : (s.slot k).state = .idle
  case neg => exact .of_event (commitWrite_live idle v).1 (commitWrite_live idle v).2
  have begun : Seating few k s s.clearFreeing := .of_event (ev_clearFreeing (.refl s)) (Steady.aside (.refl s))
  refine seating_settle (begun.trans ?_)
  have still : (s.clearFreeing.slot k).state = .idle := idle
  dsimp only
  rw [still]
  split
  · exact seating_refuseCommit _
  rw [if_neg (by decide)]
  split
  · exact seating_refuseCommit _
  split
  case isTrue fleet => exact seating_commitFleet (s := s.clearFreeing) small fleet idle _
  case isFalse passenger => exact seating_commitPassenger (by simpa using passenger) idle

end Commits

end Sys2Proof.Machine
end

section
/-! PROOFS. The laws of the slots (O57; R59, R61, R69, R73, R124) and the slot records (O58; R61, R62, R65, R66, R74, R91,
R98, R112). -/
namespace Sys2Proof.Machine
open Sys2Proof

/-! ### Revisions (R73) -/

/-- Each of at most ten advances of a revision leads to another one: the cycle has 255 steps, 0 stands before it. -/
theorem nextRevision_iterate_ne (r : Byte) (n : Fin 10) : nextRevision^[n.val + 1] r ≠ r := by
  revert r n
  decide +kernel

/-- An authority that an event has moved is the same or has shrunk under another revision, within the ten indices of a
route. -/
theorem onlyShrinks_of_move {r t : Slot} (move : SlotMove r t) (short : r.endIx ≤ 10) : r.onlyShrinks t := by
  intro was is
  obtain ⟨n, room, advanced, same⟩ := move.shrinks was is
  refine ⟨by omega, fun shrunk => ?_⟩
  obtain ⟨m, rfl⟩ := Nat.exists_eq_succ_of_ne_zero fun none => shrunk (same none)
  rw [advanced]
  exact nextRevision_iterate_ne r.revision ⟨m, by omega⟩

theorem onlyShrinks_of_idle {r t : Slot} (idle : r.state = .idle ∨ t.state = .idle) : r.onlyShrinks t := by
  intro was is
  obtain idle | idle := idle
  · exact absurd idle (live_of_authority _ was).1
  · exact absurd idle (live_of_authority _ is).1

/-- A step never lengthens an authority, and shortens it under another revision (R73). -/
theorem onlyShrinks_step {s t : State} (h : step s = .next t) (law : s.routeLaw) (k : SlotIx) :
    (s.slot k).onlyShrinks (t.slot k) := by
  have short : (s.slot k).endIx ≤ 10 := (law k).2
  obtain moved | ⟨u, c, v, slots, _, _, written, _⟩ := pace_step h
  · obtain move | idle := moved.slots k
    · exact onlyShrinks_of_move move short
    · exact onlyShrinks_of_idle (.inr idle)
  · rw [slot_of_slots written, ← slot_of_slots slots]
    rw [← slot_of_slots slots] at short
    by_cases here : k = c
    · subst here
      by_cases idle : (u.slot k).state = .idle
      · exact onlyShrinks_of_idle (.inl idle)
      · exact onlyShrinks_of_move ((commitWrite_live idle v).1.slots k) short
    · exact onlyShrinks_of_move ((seating_commitWrite (few := False) False.elim c v).others k here) short

/-! ### The laws that every part of a command keeps -/

section Laws
variable {s t : State}

theorem queueLaw_of_same (slots : t.slots = s.slots) (queue : t.queue = s.queue) (law : s.queueLaw) : t.queueLaw :=
  queueLaw_same s t law queue fun j => by rw [slot_of_slots slots]

theorem oneSlotLaw_of_same (slots : t.slots = s.slots) (law : s.oneSlotLaw) : t.oneSlotLaw := by
  have slot := slot_of_slots slots
  unfold State.oneSlotLaw
  simp only [slot]
  exact law

theorem idleLaw_of_same (slots : t.slots = s.slots) (mode : t.mode = s.mode ∨ s.mode ≠ .service) (law : s.idleLaw) :
    t.idleLaw := by
  intro outside k
  rw [slot_of_slots slots]
  refine law ?_ k
  obtain same | was := mode
  · exact same ▸ outside
  · exact was

theorem Stride.idle (stride : Stride s t) (law : s.idleLaw) : t.idleLaw := by
  cases stride with
  | event moved => exact moved.toCalm.idle law
  | beside segs slots queue drying mode => exact idleLaw_of_same slots (mode.imp id And.left) law
  | commit k v =>
    by_cases service : s.mode = .service
    · exact fun outside => absurd ((mode_of_outside (outside_commitWrite s k v)).trans service) outside
    · exact (ev_commitWrite k v service).toCalm.idle law
  | restart segs slots queue drying mode => exact fun _ k => by simp [State.slot, slots]
  | entry recovered => exact idleLaw_of_same (slots_enterService s) (.inr (by rw [recovered]; decide)) law

theorem Stride.oneSlot (stride : Stride s t) (law : s.oneSlotLaw) : t.oneSlotLaw := by
  cases stride with
  | event moved => exact moved.toCalm.oneSlot law
  | beside segs slots queue drying mode => exact oneSlotLaw_of_same slots law
  | commit k v => exact (seating_commitWrite (few := False) False.elim k v).oneSlot law
  | restart segs slots queue drying mode =>
    have slot (k : SlotIx) : t.slot k = {} := by simp [State.slot, slots]
    refine ⟨fun k _ live => ?_, fun j k _ _ live => ?_⟩ <;> rw [slot] at live <;> cases live
  | entry recovered => exact oneSlotLaw_of_same (slots_enterService s) law

theorem queue_enterService (s : State) : s.enterService.queue = s.queue := by
  unfold State.enterService State.restartWet
  rw [queue_notify, foldl_keeps State.queue _ (fun t g => by split <;> rfl)]

theorem Stride.queues (stride : Stride s t) (law : s.queueLaw) : t.queueLaw := by
  cases stride with
  | event moved => exact moved.toCalm.queue law
  | beside segs slots queue drying mode => exact queueLaw_of_same slots queue law
  | commit k v => exact (seating_commitWrite (few := False) False.elim k v).queue law
  | restart segs slots queue drying mode =>
    have slot (k : SlotIx) : t.slot k = {} := by simp [State.slot, slots]
    refine ⟨by simp [queue], fun k => ?_, by simp [queue]⟩
    rw [queue, slot]
    exact ⟨fun mem => (by cases mem), fun waits => (by cases waits)⟩
  | entry recovered => exact queueLaw_of_same (slots_enterService s) (queue_enterService s) law

end Laws

/-- Settles O57: each part of a command keeps the three laws; the slots move as events move them, end, or start from
IDLE. -/
theorem slotLawsAreKept : Obligations.SlotLawsAreKept := by
  refine ⟨fun s outside => by simp [State.stopAll, outside], fun s t taken => ⟨fun law => ?_, fun law => ?_, fun law => ?_, ?_⟩⟩
  · exact step_keeps (fun _ _ stride => stride.idle) taken law
  · exact step_keeps (fun _ _ stride => stride.oneSlot) taken law
  · exact step_keeps (fun _ _ stride => stride.queues) taken law
  · exact fun law => onlyShrinks_step taken law

/-- Settles O58: a command moves the records as events do, or is one commit of a draft that has passed its structural
pass. -/
theorem slotRecordsStaySound : Obligations.SlotRecordsStaySound := by
  intro s t taken
  obtain moved | ⟨u, k, v, slots, scrubbers, site, written, told⟩ := pace_step taken
  · exact ⟨moved.steady.distinct, moved.steady.live, fun _ => moved.steady.span⟩
  have small (law : s.siteLaw) : u.n ≤ 255 := n_le_of_siteLaw u (by unfold State.siteLaw; rw [site]; exact law)
  have before : Steady s u := (Steady.refl s).aside slots scrubbers
  have commit := seating_commitWrite small k v
  have after : Steady (u.commitWrite k v) t := (Steady.refl _).aside written told
  exact ⟨after.distinct ∘ commit.distinct ∘ before.distinct, after.live ∘ commit.live ∘ before.live,
    fun law => after.span ∘ commit.span law ∘ before.span⟩

end Sys2Proof.Machine
end

section
/-! PROOFS. The structural pass of a fleet commit, check by check (O37; R60, R61). -/
namespace Sys2Proof.Machine
open Sys2Proof

theorem authModeOf_eq_some_iff (code : Byte) (m : AuthMode) : authModeOf code = some m ↔ code.toNat = m.code := by
  have number (n : Nat) (small : n < 256) : code = BitVec.ofNat 8 n ↔ code.toNat = n := by
    rw [← BitVec.toNat_inj, BitVec.toNat_ofNat, Nat.mod_eq_of_lt small]
  have one := number 1 (by decide)
  have two := number 2 (by decide)
  unfold authModeOf
  by_cases transit : code = 1
  · rw [if_pos transit, one.mp transit]
    cases m <;> decide
  · rw [if_neg transit]
    by_cases scrub : code = 2
    · rw [if_pos scrub, two.mp scrub]
      cases m <;> decide
    · rw [if_neg scrub]
      have apart := mt one.mpr transit
      have apart' := mt two.mpr scrub
      cases m
      · exact ⟨fun h => (by cases h), fun h => absurd h apart⟩
      · exact ⟨fun h => (by cases h), fun h => absurd h apart'⟩

theorem authModeOf_none_iff (code : Byte) : authModeOf code = none ↔ ¬ (code = 1 ∨ code = 2) := by
  unfold authModeOf
  by_cases transit : code = 1
  · simp [transit]
  · by_cases scrub : code = 2
    · simp [scrub]
    · rw [if_neg transit, if_neg scrub]
      exact ⟨fun _ => not_or.mpr ⟨transit, scrub⟩, fun _ => rfl⟩

theorem ixOf_none_iff (n v : Nat) : ixOf n v = none ↔ ¬ (1 ≤ v ∧ v ≤ n) := by
  unfold ixOf
  split
  case isTrue within => simp [Nat.succ_le_iff, within]
  case isFalse out => simpa [Nat.succ_le_iff] using out

theorem lengthOk_iff (d : Draft) : d.lengthOk = true ↔ 1 ≤ d.length.toNat ∧ d.length.toNat ≤ 10 := decide_eq_true_iff

section Format
variable {s : State} {k : SlotIx}

/-- A header out of range fails before any other check (R61, check 1). -/
theorem structuralFleet_header (bad : ¬ ((1 ≤ (s.slot k).draft.scrubber.toNat ∧ (s.slot k).draft.scrubber.toNat ≤ 16)
    ∧ ((s.slot k).draft.mode = 1 ∨ (s.slot k).draft.mode = 2)
    ∧ 1 ≤ (s.slot k).draft.length.toNat ∧ (s.slot k).draft.length.toNat ≤ 10)) :
    s.structuralFleet k = .error (.format, 0) := by
  unfold State.structuralFleet
  dsimp only
  split
  case h_2 => rfl
  case h_1 x m scrubber mode length =>
  refine absurd ⟨?_, ?_, (lengthOk_iff _).mp length⟩ bad
  · by_contra out
    rw [(ixOf_none_iff _ _).mpr out] at scrubber
    cases scrubber
  · by_contra other
    rw [(authModeOf_none_iff _).mpr other] at mode
    cases mode

/-- A header in range names a scrubber and a mode. -/
theorem header_named {d : Draft} (scrubber : 1 ≤ d.scrubber.toNat ∧ d.scrubber.toNat ≤ 16) (mode : d.mode = 1 ∨ d.mode = 2) :
    ∃ x m, ixOf 16 d.scrubber.toNat = some x ∧ authModeOf d.mode = some m := by
  obtain ⟨x, named, _⟩ := ixOf_in_range 16 _ scrubber.1 scrubber.2
  obtain ⟨m, meant⟩ := Option.ne_none_iff_exists'.mp (mt (authModeOf_none_iff d.mode).mp (not_not.mpr mode))
  exact ⟨x, m, named, meant⟩

/-- The first value out of range gives its index (R61, check 2). -/
theorem structuralFleet_outOfRange {x : ScrubIx} {m : AuthMode} {i : Nat}
    (scrubber : ixOf 16 (s.slot k).draft.scrubber.toNat = some x) (mode : authModeOf (s.slot k).draft.mode = some m)
    (length : (s.slot k).draft.lengthOk = true) (out : s.firstOutOfRange (s.slot k).draft = some i) :
    s.structuralFleet k = .error (.format, i) := by
  unfold State.structuralFleet
  dsimp only
  rw [scrubber, mode, length]
  dsimp only
  rw [out]

end Format

section Failures
variable {s : State} {k : SlotIx} {x : ScrubIx} {m : AuthMode} {l : List SegIx}

/-! ### The scrubber's checks (R61, checks 3 to 8) -/

theorem fleetChecks_absent (absent : (s.scrub x).state = .absent) (l : List (SegIx × Nat)) :
    s.fleetChecks k x m l = some (.notEnrolled, 0) := if_pos absent

theorem fleetChecks_lost (lost : (s.scrub x).state = .lost) (l : List (SegIx × Nat)) :
    s.fleetChecks k x m l = some (.scrubberLost, 0) := by
  unfold State.fleetChecks
  dsimp only
  rw [lost, if_neg (by decide), if_pos rfl]

theorem fleetChecks_unplaced (unplaced : (s.scrub x).state = .unheard ∨ (s.scrub x).state = .withdrawn)
    (l : List (SegIx × Nat)) : s.fleetChecks k x m l = some (.notPlaced, 0) := by
  unfold State.fleetChecks
  dsimp only
  obtain state | state := unplaced
  · rw [state, if_neg (by decide), if_neg (by decide), if_pos (by decide)]
  · rw [state, if_neg (by decide), if_neg (by decide), if_pos (by decide)]

/-- A scrubber that is HEARD leaves the later checks. -/
theorem fleetChecks_heard (heard : (s.scrub x).state = .heard) :
    ((s.scrub x).mark = true → s.fleetChecks k x m (l.zipIdx 1) = some (.violation, 0))
    ∧ ((s.scrub x).mark = false →
      (s.namedElsewhere k x = true → s.fleetChecks k x m (l.zipIdx 1) = some (.scrubberBusy, 0))
      ∧ (s.namedElsewhere k x = false → l.head? ≠ (s.scrub x).current →
        s.fleetChecks k x m (l.zipIdx 1) = some (.badStart, 1))) := by
  unfold State.fleetChecks
  dsimp only
  rw [heard, head_zipIdx, if_neg (by decide), if_neg (by decide), if_neg (not_not.mpr rfl)]
  refine ⟨fun marked => if_pos marked, fun unmarked => ?_⟩
  rw [unmarked, if_neg Bool.false_ne_true]
  refine ⟨fun busy => if_pos busy, fun free start => ?_⟩
  rw [free, if_neg Bool.false_ne_true, if_pos start]

/-! ### The route's checks (R61, checks 9 to 11) -/

theorem routeChecks_notAdjacent {i : Nat} (adjacent : s.firstNotAdjacent (l.zipIdx 1) = some i) :
    s.routeChecks m l = some (.notAdjacent, i) := by
  unfold State.routeChecks
  rw [adjacent]

theorem routeChecks_repeated (chained : s.chained l) {i : Nat} (again : firstRepeated [] (l.zipIdx 1) = some i) :
    s.routeChecks m l = some (.repeated, i) := by
  unfold State.routeChecks
  rw [(firstNotAdjacent_none_iff l 1).mpr chained, again]

theorem routeChecks_floor (chained : s.chained l) (once : l.Nodup) (scrub : m = .scrub) {i : Nat} {g : SegIx}
    (here : l[i]? = some g) (refuses : s.permitsScrub g = false) (before : ∀ h ∈ l.take i, s.permitsScrub h = true) :
    s.routeChecks m l = some (.floor, i + 1) := by
  have first : (l.zipIdx 1).find? (fun e => !s.permitsScrub e.1) = some (g, i + 1) := by
    refine find_zipIdx_first _ here (by simp [refuses]) fun j early b there => ?_
    have mem : b ∈ l.take i := List.mem_of_getElem? (i := j) (by rw [List.getElem?_take, if_pos early, there])
    simp [before b mem]
  unfold State.routeChecks
  rw [(firstNotAdjacent_none_iff l 1).mpr chained, (firstRepeated_none_iff [] l 1).mpr ⟨once, fun _ _ => List.not_mem_nil⟩]
  dsimp only
  rw [if_pos scrub, first]
  rfl

end Failures

/-- Settles O37: the header, the values, the scrubber and the route, in the order of their checks. -/
theorem fleetStructuralPass : Obligations.FleetStructuralPass := by
  refine ⟨fun s k x m few => ?_, fun s k d few draft => ⟨?_, ?_⟩, fun s k x m d few draft scrubber mode length ranged => ?_⟩
  · rw [structuralFleet_ok_iff, ixOf_eq_some_iff, authModeOf_eq_some_iff, lengthOk_iff, fleetChecks_none_iff]
    have values : s.ranged (s.slot k).draft ↔ ∀ i : Fin 10, i.val < (s.slot k).draft.length.toNat →
        1 ≤ ((s.slot k).draft.route[i.val]).toNat ∧ ((s.slot k).draft.route[i.val]).toNat ≤ s.n :=
      forall_congr' fun i => imp_congr_right fun _ => not_outOfRange_iff s _
    rw [values, and_assoc]
    refine and_congr_right fun _ => and_congr_right fun _ => and_congr_right fun _ => and_congr_right fun _ =>
      and_congr_right fun _ => ⟨?_, ?_⟩
    · rintro ⟨⟨heard, unmarked, free⟩, start, chained, once, permits⟩
      exact ⟨heard, unmarked, namedElsewhere_false_iff.mp free, start, chained, once, permits⟩
    · rintro ⟨heard, unmarked, free, start, chained, once, permits⟩
      exact ⟨⟨heard, unmarked, namedElsewhere_false_iff.mpr free⟩, start, chained, once, permits⟩
  · subst draft
    exact structuralFleet_header
  · subst draft
    rintro ⟨scrubber, mode, length⟩ i within out before
    obtain ⟨x, m, named, meant⟩ := header_named scrubber mode
    exact structuralFleet_outOfRange named meant ((lengthOk_iff _).mpr length) (firstOutOfRange_first i within out before)
  · subst draft
    have failed := (structuralFleet_format ((ixOf_eq_some_iff _ _ _).mpr scrubber) ((authModeOf_eq_some_iff _ _).mpr mode)
      ((lengthOk_iff _).mpr length) ranged).2
    refine ⟨fun absent => failed _ (fleetChecks_absent absent _), fun lost => failed _ (fleetChecks_lost lost _),
      fun unplaced => failed _ (fleetChecks_unplaced unplaced _), fun heard => ?_⟩
    obtain ⟨whenMarked, whenClear⟩ := fleetChecks_heard (k := k) (m := m) (l := (s.slot k).draft.captured) heard
    refine ⟨fun marked => failed _ (whenMarked marked), fun unmarked => ?_⟩
    obtain ⟨whenBusy, whenFree⟩ := whenClear unmarked
    refine ⟨fun j fleet ne live names => failed _ (whenBusy (namedElsewhere_iff.mpr ⟨j, fleet, ne, live, names⟩)),
      fun free => ?_⟩
    have free := namedElsewhere_false_iff.mpr free
    refine ⟨fun start => failed _ (whenFree free start), fun start => ?_⟩
    have route := fleetChecks_ready (m := m) ⟨heard, unmarked, free⟩ start
    refine ⟨fun i a b first second apart before => failed _ ?_, fun chained => ⟨fun i g here again once => failed _ ?_,
      fun once scrub i g here refuses before => failed _ ?_⟩⟩
    · rw [route]
      refine routeChecks_notAdjacent ?_
      rw [firstNotAdjacent_first 1 first second apart fun j c d => before j c d]
      exact congrArg some (by omega)
    · rw [route]
      refine routeChecks_repeated chained ?_
      rw [firstRepeated_first [] 1 here (.inr again) once fun _ _ => List.not_mem_nil, Nat.add_comm]
    · rw [route]
      exact routeChecks_floor chained once scrub here refuses before

end Sys2Proof.Machine
end

section
/-! PROOFS. The structural pass of a passenger commit (O38; R59, R62). -/
namespace Sys2Proof.Machine
open Sys2Proof

/-! ### Route values and captured segments (R60) -/

section Values
variable {s : State} {d : Draft} (few : s.n ≤ 255) (ranged : s.ranged d)
include few ranged

theorem captured_at (i : Fin 10) (within : i.val < d.length.toNat) :
    ∃ g, d.captured[i.val]? = some g ∧ (d.route[i.val]).toNat = g.val + 1 := by
  have value := congrArg (·[i.val]?) (captured_map few ranged)
  rw [List.getElem?_map, List.getElem?_map, entries_at i within] at value
  obtain ⟨g, here, number⟩ := Option.map_eq_some_iff.mp value
  exact ⟨g, here, number.symm⟩

/-- Two entries name one segment exactly when their values are the same. -/
theorem captured_same_iff (i j : Fin 10) (within : i.val < d.length.toNat) (within' : j.val < d.length.toNat) :
    d.captured[i.val]? = d.captured[j.val]? ↔ d.route[i.val] = d.route[j.val] := by
  obtain ⟨g, here, number⟩ := captured_at few ranged i within
  obtain ⟨h, there, number'⟩ := captured_at few ranged j within'
  rw [here, there, Option.some.injEq, ← BitVec.toNat_inj, number, number', Nat.add_right_cancel_iff, Fin.ext_iff]

variable (short : d.length.toNat ≤ 10)
include short

/-- The first entries of a captured route repeat nothing when their values are all different. -/
theorem nodup_take_captured {n : Nat} (within : n ≤ d.length.toNat)
    (apart : ∀ i j : Fin 10, i.val < n → j.val < i.val → d.route[j.val] ≠ d.route[i.val]) : (d.captured.take n).Nodup := by
  have length := length_captured_eq few ranged short
  refine List.nodup_iff_getElem?_ne_getElem?.mpr fun j i early late same => ?_
  rw [List.length_take, length, Nat.min_eq_left within] at late
  rw [List.getElem?_take, List.getElem?_take, if_pos (early.trans late), if_pos late] at same
  refine apart ⟨i, by omega⟩ ⟨j, by omega⟩ late early ?_
  exact (captured_same_iff few ranged ⟨j, by omega⟩ ⟨i, by omega⟩ (by dsimp only; omega) (by dsimp only; omega)).mp same

theorem firstRepeated_values (i : Fin 10) (within : i.val < d.length.toNat)
    (again : ∃ j : Fin 10, j.val < i.val ∧ d.route[j.val] = d.route[i.val])
    (first : ∀ h : Fin 10, h.val < i.val → ¬ ∃ j : Fin 10, j.val < h.val ∧ d.route[j.val] = d.route[h.val]) :
    firstRepeated [] (d.captured.zipIdx 1) = some (i.val + 1) := by
  obtain ⟨g, here, _⟩ := captured_at few ranged i within
  obtain ⟨j, early, same⟩ := again
  have there := (captured_same_iff few ranged j i (early.trans within) within).mpr same
  have mem : g ∈ d.captured.take i.val := List.mem_of_getElem? (i := j.val) (by
    rw [List.getElem?_take, if_pos early, there, here])
  have once : (d.captured.take i.val).Nodup :=
    nodup_take_captured few ranged short within.le fun h j late early same => first h late ⟨j, early, same⟩
  rw [firstRepeated_first [] 1 here (.inr mem) once fun _ _ => List.not_mem_nil, Nat.add_comm]

end Values

section Passenger
variable {s t : State} {k : SlotIx}

theorem structuralPassenger_length (bad : ¬ (1 ≤ (s.slot k).draft.length.toNat ∧ (s.slot k).draft.length.toNat ≤ 10)) :
    s.structuralPassenger k = some (.format, 0) := by
  unfold State.structuralPassenger
  dsimp only
  rw [if_pos (by simpa [← lengthOk_iff] using bad)]

theorem structuralPassenger_outOfRange {i : Nat} (length : (s.slot k).draft.lengthOk = true)
    (out : s.firstOutOfRange (s.slot k).draft = some i) : s.structuralPassenger k = some (.format, i) := by
  unfold State.structuralPassenger
  dsimp only
  rw [length, out]
  rfl

/-- The passenger pass reads the length, the values and the number of segments alone. -/
theorem structuralPassenger_congr (n : t.n = s.n) (length : (t.slot k).draft.length = (s.slot k).draft.length)
    (route : (t.slot k).draft.route = (s.slot k).draft.route) : t.structuralPassenger k = s.structuralPassenger k := by
  have entries : (t.slot k).draft.entries = (s.slot k).draft.entries := by
    unfold Draft.entries
    rw [length, route]
  have out : t.firstOutOfRange (t.slot k).draft = s.firstOutOfRange (s.slot k).draft := by
    unfold State.firstOutOfRange
    rw [entries, n]
  have captured : (t.slot k).draft.captured = (s.slot k).draft.captured := by
    unfold Draft.captured
    rw [entries]
  unfold State.structuralPassenger Draft.lengthOk
  dsimp only
  rw [length, out, captured]

/-! ### The commit values (R59) -/

/-- A passenger commit reads of its value whether it is a commit value. -/
theorem commitWrite_passenger (passenger : isFleet k = false) :
    s.commitWrite k commitValue = s.commitWrite k commitWaitValue := by
  have taken (u : State) : (if isFleet k then u.commitFleet k (decide (commitValue = commitWaitValue))
      else u.commitPassenger k) = if isFleet k then u.commitFleet k (decide (commitWaitValue = commitWaitValue))
      else u.commitPassenger k := by
    rw [passenger, if_neg Bool.false_ne_true, if_neg Bool.false_ne_true]
  unfold State.commitWrite
  simp only [taken, ne_eq, not_true_eq_false, false_and, and_false, if_false]

/-- No value of a commit word is let through in NO_SITE (R20). -/
theorem busAccess_commit_noSite (noSite : s.mode = .noSite) (v : Word) :
    s.busAccess (goodWrite (drafterOf k) (slotAddr k 11) v) = s.deny (goodWrite (drafterOf k) (slotAddr k 11) v) := by
  have place : placeOf (slotAddr k 11) = .slot k 11 := placeOf_slot k 11
  refine busAccess_denied s _ _ v (by rw [noSite]; decide) (by rw [noSite]; decide) ?_
  have shut : s.noSiteAllows (goodWrite (drafterOf k) (slotAddr k 11) v) (.slot k 11) = false := by
    simp [State.noSiteAllows, noSite, noSiteArea]
  unfold State.allows
  dsimp only [goodWrite]
  rw [place]
  exact Bool.and_eq_false_imp.mpr fun _ => shut

theorem exec_commit_passenger (passenger : isFleet k = false) : exec (.commit k) s = exec (.commitWait k) s := by
  suffices same : s.busAccess (goodWrite (drafterOf k) (slotAddr k 11) commitValue)
      = s.busAccess (goodWrite (drafterOf k) (slotAddr k 11) commitWaitValue) from congrArg Host.Outcome.next same
  cases mode : s.mode with
  | loading => rw [busAccess_notReady s _ (.inl mode), busAccess_notReady s _ (.inl mode)]
  | initialising => rw [busAccess_notReady s _ (.inr mode), busAccess_notReady s _ (.inr mode)]
  | noSite =>
    rw [busAccess_commit_noSite mode, busAccess_commit_noSite mode]
    rfl
  | recovery | service =>
    have running : s.running = true := by simp [State.running, mode]
    rw [busAccess_commit s k _ running, busAccess_commit s k _ running, commitWrite_passenger passenger]

end Passenger

/-- Settles O38: length, values and repetitions in turn; the commit value is looked at for a fleet slot alone. -/
theorem passengerStructuralPass : Obligations.PassengerStructuralPass := by
  refine ⟨fun s k _ few => ⟨structuralPassenger_length, fun length => ?_⟩,
    fun s t k n length route => structuralPassenger_congr n length route,
    fun s k passenger => exec_commit_passenger (by simpa [isFleet] using passenger)⟩
  have ok := (lengthOk_iff _).mpr length
  refine ⟨fun i within out before => structuralPassenger_outOfRange ok (firstOutOfRange_first i within out before),
    fun ranged => ⟨fun i within again first => ?_, fun apart => ?_⟩⟩
  · rw [structuralPassenger_ranged ok ranged, firstRepeated_values few ranged length.2 i within again first]
    rfl
  · have once := nodup_take_captured few ranged length.2 le_rfl apart
    rw [← length_captured_eq few ranged length.2, List.take_length] at once
    exact structuralPassenger_none_iff.mpr ⟨ok, ranged, once⟩

end Sys2Proof.Machine
end

section
/-! PROOFS. Commits that leave their slot as it was but for the result (O36, O42; R59, R61 to R64, R66). -/
namespace Sys2Proof.Machine
open Sys2Proof

/-! ### The refusal of a commit (R59, R64) -/

/-- A commit has left its slot IDLE with a result and a failing index, and sent a REFUSED notice. -/
def State.refusedCommit (s t : State) (k : SlotIx) (f : Result × Nat) : Prop :=
  t = { s with
      answer := some tookOne, slots := t.slots, staging := t.staging, dspFlags := t.dspFlags, dirty := t.dirty,
      freeing := false }
  ∧ s.onlySlot t k { s.slot k with result := f.1, failIx := f.2 }
  ∧ s.notices t [(.refused, [pack4 (k.val + 1) f.1.code f.2 0])] []
  ∧ s.marks t [.slotStatus k]

section Refusals
variable (s : State) (k : SlotIx)

theorem marks_setResult (r : Result) (i : Nat) : s.marks ((s.setResult k r i).markDirty (.slotStatus k)) [.slotStatus k] := by
  intro m
  have progress : ({ s.slot k with result := r, failIx := i } : Slot).progressWord = (s.slot k).progressWord := rfl
  have flags : ((s.setResult k r i).markDirty (.slotStatus k)).dspFlags = s.dspFlags := rfl
  have ops : ((s.setResult k r i).markDirty (.slotStatus k)).opsFlags = s.opsFlags := rfl
  rw [mem_dirty_markDirty, State.setResult, mem_dirty_setSlot, progress]
  simp only [List.mem_singleton, ne_eq, not_true_eq_false, false_and, false_or]
  unfold State.setResult at flags ops
  rw [flags, ops]
  tauto

theorem notices_clearFreeing : s.notices s.clearFreeing [] [] := notices_silent (notices_self s) ⟨rfl, rfl⟩

theorem freeing_refuseCommit (f : Result × Nat) : (s.refuseCommit k f).freeing = s.freeing := by
  unfold State.refuseCommit State.notifySlot
  rw [notify_shape]
  rfl

theorem slot_refuseCommit (f : Result × Nat) (j : SlotIx) : (s.refuseCommit k f).slot j
    = if k = j then { s.slot k with result := f.1, failIx := f.2 } else s.slot j := by
  unfold State.refuseCommit State.notifySlot
  rw [slot_notify]
  exact slot_setSlot s k j _

theorem refusedCommit_answered (f : Result × Nat) :
    s.refusedCommit ((s.clearFreeing.refuseCommit k f).answered tookOne) k f := by
  have told := notices_notify (s := s) (u := (s.clearFreeing.setResult k f.1 f.2).markDirty (.slotStatus k))
    (notices_silent (notices_clearFreeing s) ⟨rfl, rfl⟩) rfl rfl rfl .refused [pack4 (k.val + 1) f.1.code f.2 0]
  have marked := marks_notify (marks_from (marks_setResult s.clearFreeing k f.1 f.2) (u := s)) (.inl rfl) .refused
    [pack4 (k.val + 1) f.1.code f.2 0]
  refine ⟨?_, onlySlot_of_slot (slot_refuseCommit s.clearFreeing k f), told, marks_congr marked⟩
  unfold State.refuseCommit State.notifySlot
  rw [notify_shape]
  rfl

end Refusals

/-! ### The rows and the order of their checks (R59) -/

section Rows
variable {s : State} {k : SlotIx}

theorem exec_commitRunning (running : s.running = true) (wait : Bool) :
    exec (if wait then .commitWait k else .commit k) s
      = .next ((s.commitWrite k (if wait then commitWaitValue else commitValue)).answered tookOne) := by
  cases wait
  · exact congrArg Host.Outcome.next (busAccess_commit s k commitValue running)
  · exact congrArg Host.Outcome.next (busAccess_commit s k commitWaitValue running)

theorem exec_commitWord (running : s.running = true) (v : Word) :
    exec (.planBusAccess (goodWrite (drafterOf k) (slotAddr k 11) v) []) s
      = .next ((s.commitWrite k v).answered tookOne) :=
  congrArg Host.Outcome.next (busAccess_commit s k v running)

theorem settle_refuseCommit (f : Result × Nat) :
    (s.clearFreeing.refuseCommit k f).settle = s.clearFreeing.refuseCommit k f :=
  settle_eq_self (freeing_refuseCommit s.clearFreeing k f)

/-- Outside SERVICE the value is not looked at. -/
theorem commitWrite_outside (rest : s.mode ≠ .service) (v : Word) :
    s.commitWrite k v = s.clearFreeing.refuseCommit k (.notInService, 0) :=
  (congrArg State.settle (if_pos (show s.clearFreeing.mode ≠ .service from rest))).trans (settle_refuseCommit _)

/-- Nor for a live slot. -/
theorem commitWrite_busy (service : s.mode = .service) (live : (s.slot k).state ≠ .idle) (v : Word) :
    s.commitWrite k v = s.clearFreeing.refuseOnly k .state := by
  have still : ¬ s.clearFreeing.mode ≠ .service := not_not.mpr service
  have alive : (s.clearFreeing.slot k).state.live = true := by simpa [SlotState.live] using live
  have calm : (s.clearFreeing.refuseOnly k .state).freeing = false := by
    unfold State.refuseOnly State.notifySlot
    rw [notify_shape]
    rfl
  unfold State.commitWrite State.event
  dsimp only
  rw [if_neg still, if_pos alive, settle_eq_self calm]

theorem commitWrite_format (service : s.mode = .service) (idle : (s.slot k).state = .idle) (v : Word)
    (other : v ≠ commitValue ∧ v ≠ commitWaitValue) :
    s.commitWrite k v = s.clearFreeing.refuseCommit k (.format, 0) := by
  have still : ¬ s.clearFreeing.mode ≠ .service := not_not.mpr service
  have rests : ¬ (s.clearFreeing.slot k).state.live = true := by
    have same : (s.clearFreeing.slot k).state = .idle := idle
    rw [same]
    exact Bool.false_ne_true
  unfold State.commitWrite State.event
  dsimp only
  rw [if_neg still, if_neg rests, if_pos other, settle_refuseCommit]

/-- A draft that fails its structural pass is refused with the failure. -/
theorem commitWrite_structural (service : s.mode = .service) (idle : (s.slot k).state = .idle) (wait : Bool)
    {f : Result × Nat} (fleet : k.val < 20 → s.structuralFleet k = .error f)
    (passenger : 20 ≤ k.val → s.structuralPassenger k = some f) :
    s.commitWrite k (if wait then commitWaitValue else commitValue) = s.clearFreeing.refuseCommit k f := by
  rw [commitWrite_taken service idle]
  by_cases here : k.val < 20
  · have failed := (structuralFleet_clearFreeing s k).trans (fleet here)
    rw [if_pos (show isFleet k = true from decide_eq_true here)]
    unfold State.commitFleet
    rw [failed]
    exact settle_refuseCommit f
  · have failed : s.clearFreeing.structuralPassenger k = some f :=
      (structuralPassenger_congr rfl rfl rfl).trans (passenger (Nat.le_of_not_lt here))
    rw [if_neg fun fleet : isFleet k = true => here (of_decide_eq_true fleet)]
    unfold State.commitPassenger
    rw [failed]
    exact settle_refuseCommit f

end Rows

/-- Settles O36: the checks in their order, each with one refusal. -/
theorem commitRefused : Obligations.CommitRefused := by
  intro s k wait
  have inRecovery (recovery : s.mode = .recovery) : s.mode ≠ .service := by rw [recovery]; decide
  refine ⟨fun recovery => ?_, fun service live => ?_, fun f service idle fleet passenger => ?_,
    fun v one two => ⟨fun early => ?_, fun service idle => ?_⟩⟩
  · refine ⟨_, exec_commitRunning (running_of_modes (.inl recovery)) wait, ?_⟩
    rw [commitWrite_outside (inRecovery recovery)]
    exact refusedCommit_answered s k _
  · refine ⟨_, exec_commitRunning (running_of_modes (.inr service)) wait, ?_⟩
    rw [commitWrite_busy service live]
    refine ⟨?_, notices_notify (notices_clearFreeing s) rfl rfl rfl _ _,
      marks_congr (marks_notify (marks_dirty_same s s.clearFreeing rfl rfl rfl) (.inl rfl) .refused _)⟩
    unfold State.refuseOnly State.notifySlot
    rw [notify_shape]
    rfl
  · refine ⟨_, exec_commitRunning (running_of_modes (.inr service)) wait, ?_⟩
    rw [commitWrite_structural service idle wait fleet passenger]
    exact refusedCommit_answered s k f
  · have modes : s.mode = .recovery ∨ s.mode = .service := early.imp id And.left
    have row : exec (.commit k) s = _ := exec_commitRunning (running_of_modes modes) false
    rw [exec_commitWord (running_of_modes modes), row]
    obtain recovery | ⟨service, live⟩ := early
    · rw [commitWrite_outside (inRecovery recovery), commitWrite_outside (inRecovery recovery)]
    · rw [commitWrite_busy service live, commitWrite_busy service live]
  · refine ⟨_, exec_commitWord (running_of_modes (.inr service)) v, ?_⟩
    rw [commitWrite_format service idle v ⟨one, two⟩]
    exact refusedCommit_answered s k _

/-! ### A route that is not available (R63, R66) -/

section Unavailable
variable {s : State} {k : SlotIx} {x : ScrubIx} {m : AuthMode} {f : Result × Nat}

theorem availability_captureFleet (fleet : isFleet k = true) : (s.captureFleet k x m).availability k
    = firstFailure (fun i g => s.fleetTest x m i g) ((s.slot k).draft.captured.zipIdx 1) := by
  have record := slot_captureFleet (s := s) (k := k) x m k
  rw [if_pos rfl] at record
  rw [availability_fleet fleet (x := x) (by rw [record]), record]
  rfl

/-- What a fleet commit does whose availability pass fails. -/
theorem commitFleet_unavailable (fleet : isFleet k = true) (wait : Bool) (passes : s.structuralFleet k = .ok (x, m))
    (fails : firstFailure (fun i g => s.fleetTest x m i g) ((s.slot k).draft.captured.zipIdx 1) = some f) :
    s.commitFleet k wait = if wait && f.1.transient && decide (0 < s.fleetWaitLimit) then
      ((s.captureFleet k x m).setLive (some x) (asFleet k)).beginWaiting k f s.fleetWaitLimit
      else s.refuseCommit k f := by
  unfold State.commitFleet
  rw [passes]
  dsimp only
  rw [availability_captureFleet fleet, fails]

/-- The slot waits over its captured route, its scrubber told, before the clock's turn and the notice (R66). -/
def State.fleetWaits (s : State) (k : SlotIx) (x : ScrubIx) (m : AuthMode) (f : Result × Nat) : State :=
  ((s.captureFleet k x m).setLive (some x) (asFleet k)).beginWaiting k f s.fleetWaitLimit

theorem frame_fleetWaits : s.fleetWaits k x m f = { s with
    slots := (s.fleetWaits k x m f).slots, scrubbers := (s.fleetWaits k x m f).scrubbers, queue := joinQueue k s.queue,
    staging := (s.fleetWaits k x m f).staging, dspFlags := (s.fleetWaits k x m f).dspFlags,
    dirty := (s.fleetWaits k x m f).dirty } := by
  have frame := frame_beginWaiting (s := (s.captureFleet k x m).setLive (some x) (asFleet k)) (k := k) f s.fleetWaitLimit
  have scrubbers : (s.fleetWaits k x m f).scrubbers = ((s.captureFleet k x m).setLive (some x) (asFleet k)).scrubbers :=
    (congrArg State.scrubbers frame :)
  rw [scrubbers]
  exact frame

theorem slot_fleetWaits (j : SlotIx) : (s.fleetWaits k x m f).slot j = if k = j then { s.slot k with
    state := .waiting, scrubber := some x, mode := m, route := (s.slot k).draft.captured, result := f.1, failIx := f.2,
    deadline := some (s.clock + BitVec.ofNat 32 (10 * s.fleetWaitLimit)) } else s.slot j := by
  have stored (i : SlotIx) : ((s.captureFleet k x m).setLive (some x) (asFleet k)).slot i = (s.captureFleet k x m).slot i :=
    rfl
  unfold State.fleetWaits
  rw [slot_beginWaiting, stored, stored, slot_captureFleet, slot_captureFleet, if_pos rfl]
  by_cases here : k = j
  · rw [if_pos here, if_pos here]
    rfl
  · rw [if_neg here, if_neg here, if_neg here]

theorem scrub_fleetWaits (y : ScrubIx) :
    (s.fleetWaits k x m f).scrub y = if y = x then { s.scrub y with liveSlot := asFleet k } else s.scrub y := by
  have frame := frame_beginWaiting (s := (s.captureFleet k x m).setLive (some x) (asFleet k)) (k := k) f s.fleetWaitLimit
  have told : (s.fleetWaits k x m f).scrub y = ((s.captureFleet k x m).setLive (some x) (asFleet k)).scrub y := by
    unfold State.scrub State.fleetWaits
    rw [frame]
  rw [told, scrub_setLive]
  simp only [Option.some.injEq, eq_comm (a := x)]
  rfl

theorem notices_fleetWaits : s.notices (s.fleetWaits k x m f)
    [(.waiting, [pack4 (k.val + 1) f.1.code f.2 0, s.clock + BitVec.ofNat 32 (10 * s.fleetWaitLimit)])] [] :=
  notices_beginWaiting f s.fleetWaitLimit (notices_silent (notices_self s) ⟨rfl, rfl⟩) rfl

end Unavailable

/-- Settles O42. -/
theorem fleetCommitUnavailable : Obligations.FleetCommitUnavailable := by
  intro s k wait x m r i service within idle structural fails
  have fleet : isFleet k = true := decide_eq_true within
  have passes := (structuralFleet_clearFreeing s k).trans structural
  have outcome (wait : Bool) := commitFleet_unavailable (s := s.clearFreeing) fleet wait passes fails
  have row (wait : Bool) := exec_commitRow (k := k) service wait
  refine ⟨fun _ transient limit => ?_, fun refused => ?_⟩
  · have waits : s.clearFreeing.commitFleet k true = s.clearFreeing.fleetWaits k x m (r, i) := by
      rw [outcome, if_pos]
      · rfl
      · simp only [transient, Bool.true_and, decide_eq_true_eq]
        exact limit
    have frame := frame_fleetWaits (s := s.clearFreeing) (k := k) (x := x) (m := m) (f := (r, i))
    have calm : (s.clearFreeing.fleetWaits k x m (r, i)).freeing = false := by rw [frame]; rfl
    refine ⟨_, row true, ?_⟩
    rw [commitWrite_taken service idle, if_pos fleet, waits, settle_eq_self calm]
    refine ⟨?_, onlySlot_of_slot slot_fleetWaits, scrub_fleetWaits, ?_, dirty_beginWaiting _ _⟩
    · rw [frame, joinQueue, if_pos fleet]
      rfl
    · exact notices_fleetWaits (s := s.clearFreeing)
  · refine ⟨_, row wait, ?_⟩
    have stays : ¬ (wait && r.transient && decide (0 < s.clearFreeing.fleetWaitLimit)) = true := by
      have limit : s.clearFreeing.fleetWaitLimit = s.fleetWaitLimit := rfl
      rw [limit]
      obtain never | permanent | none := refused
      · simp [never]
      · simp [permanent]
      · simp [none]
    rw [commitWrite_taken service idle, if_pos fleet, outcome, if_neg stays, settle_refuseCommit]
    exact refusedCommit_answered s k (r, i)

end Sys2Proof.Machine
end

section
/-! PROOFS. The expiry of a wait deadline (O30; R68, R72, R159). -/
namespace Sys2Proof.Machine
open Sys2Proof

section Claims
variable (k : SlotIx)

/-! ### Claims that go (R46, R68) -/

/-- A passenger slot's claims removed from a list of segments. -/
def State.unclaim (k : SlotIx) (l : List SegIx) (s : State) : State := l.foldl (fun s g => s.removeClaim k g) s

theorem seg_removeClaim (s : State) (g h : SegIx) : (s.removeClaim k g).seg h = if g = h then
    { s.seg g with claims := (s.seg g).claims.filter (fun c => c != k) } else s.seg h := by
  unfold State.removeClaim
  split
  case isTrue => rw [seg_noteFreeing, seg_setSeg]
  case isFalse unclaimed =>
    split
    case isTrue here =>
      have same : (s.seg g).claims.filter (fun c => c != k) = (s.seg g).claims :=
        List.filter_eq_self.mpr fun c mem => by
          rw [bne_iff_ne]
          rintro rfl
          exact unclaimed mem
      rw [same, here]
    case isFalse => rfl

theorem freeing_removeClaim (s : State) (g : SegIx) :
    (s.removeClaim k g).freeing = true ↔ s.freeing = true ∨ k ∈ (s.seg g).claims := by
  unfold State.removeClaim
  split
  case isTrue claimed => exact ⟨fun _ => .inr claimed, fun _ => rfl⟩
  case isFalse unclaimed => simp [unclaimed]

theorem claimStores_unclaim (l : List SegIx) (s : State) : s.claimStores (s.unclaim k l) :=
  claimStores_foldl _ (fun t g => by unfold State.removeClaim; split <;> rfl) l s

theorem seg_unclaim (l : List SegIx) (s : State) (h : SegIx) : (s.unclaim k l).seg h = if h ∈ l then
    { s.seg h with claims := (s.seg h).claims.filter (fun c => c != k) } else s.seg h := by
  induction l generalizing s with
  | nil => simp [State.unclaim]
  | cons g l ih =>
    have cons : s.unclaim k (g :: l) = (s.removeClaim k g).unclaim k l := rfl
    rw [cons, ih, seg_removeClaim]
    by_cases here : g = h
    · subst here
      simp
    · have apart : h ≠ g := Ne.symm here
      simp [here, apart]

/-- A freeing change is noted when one of the segments had the claim. -/
theorem freeing_unclaim (l : List SegIx) (s : State) :
    (s.unclaim k l).freeing = true ↔ s.freeing = true ∨ ∃ g ∈ l, k ∈ (s.seg g).claims := by
  induction l generalizing s with
  | nil => simp [State.unclaim]
  | cons g l ih =>
    have cons : s.unclaim k (g :: l) = (s.removeClaim k g).unclaim k l := rfl
    have later (h : SegIx) : k ∈ ((s.removeClaim k g).seg h).claims ↔ g ≠ h ∧ k ∈ (s.seg h).claims := by
      rw [seg_removeClaim]
      by_cases here : g = h
      · subst here
        simp
      · simp [here]
    rw [cons, ih, freeing_removeClaim]
    simp only [later, List.mem_cons, exists_eq_or_imp]
    constructor
    · rintro ((noted | claimed) | ⟨h, mem, _, claimed⟩)
      · exact .inl noted
      · exact .inr (.inl claimed)
      · exact .inr (.inr ⟨h, mem, claimed⟩)
    · rintro (noted | claimed | ⟨h, mem, claimed⟩)
      · exact .inl (.inl noted)
      · exact .inl (.inr claimed)
      · by_cases here : g = h
        · exact .inl (.inr (here ▸ claimed))
        · exact .inr ⟨h, mem, here, claimed⟩

end Claims

section Expiry
variable {s : State} {k : SlotIx}

theorem retired_waiting (waits : (s.slot k).state = .waiting) (res : Result) (i : Nat) :
    (s.slot k).retired k res i = (s.slot k).returned res i (s.slot k).changed := by
  have off : (s.slot k).state.authority = false := by rw [waits]; rfl
  rw [Slot.retired, off, Bool.false_and, Bool.or_false]

/-- A passenger slot's end leaves the scrubbers. -/
theorem scrubbers_endSlot (passenger : isFleet k = false) (res : Result) : (s.endSlot k res).scrubbers = s.scrubbers := by
  unfold State.endSlot State.clearLiveOf State.notifySlot
  rw [passenger, if_neg Bool.false_ne_true, scrubbers_notify, scrubbers_toIdle]

theorem waitExpiry_eq (waits : (s.slot k).state = .waiting) (due : (s.slot k).deadline = some s.clock) :
    s.waitExpiry k = if isFleet k then ((s.clearFreeing.leaveQueue k).endSlot k .waitExpired).settle
      else (((s.clearFreeing.leaveQueue k).dropClaims k).endSlot k .waitExpired |>.setOps .passengerExpired).settle := by
  unfold State.waitExpiry State.event
  rw [if_pos ⟨waits, due⟩, apply_ite State.settle]

/-- The slot's claims are dropped along its route. -/
theorem dropClaims_eq (t : State) : t.dropClaims k = t.unclaim k (t.slot k).route := rfl

end Expiry

/-- Settles O30. -/
theorem waitExpired : Obligations.WaitExpired := by
  intro s k
  refine ⟨fun early => congrArg Host.Outcome.next (if_neg early), fun waits due => ⟨fun within => ?_, fun beyond => ?_⟩⟩
  · have fleet : isFleet k = true := decide_eq_true within
    have talk := slotTalk_endSlot (s.clearFreeing.leaveQueue k) k .waitExpired
    have calm : ((s.clearFreeing.leaveQueue k).endSlot k .waitExpired).freeing = false := by rw [talk]; rfl
    have told := notices_endSlot (u := s.clearFreeing.leaveQueue k) (notices_silent (notices_self s) ⟨rfl, rfl⟩) rfl k
      .waitExpired
    refine ⟨(s.clearFreeing.leaveQueue k).endSlot k .waitExpired, ?_, talk, onlySlot_of_slot fun j => ?_, fun x => ?_, told,
      (dirty_endSlot _ k _).1⟩
    · have row : s.waitExpiry k = _ := waitExpiry_eq waits due
      rw [if_pos fleet, settle_eq_self calm] at row
      exact congrArg Host.Outcome.next row
    · rw [slot_endSlot, ← retired_waiting waits]
      rfl
    · rw [scrub_endSlot]
      exact if_congr (by simp only [fleet, true_and]; rfl) rfl rfl
  · have passenger : isFleet k = false := decide_eq_false (Nat.not_lt.mpr beyond)
    have claims := claimStores_unclaim k (s.slot k).route (s.clearFreeing.leaveQueue k)
    have segs := seg_unclaim k (s.slot k).route (s.clearFreeing.leaveQueue k)
    have freed := freeing_unclaim k (s.slot k).route (s.clearFreeing.leaveQueue k)
    have slot (j : SlotIx) : ((s.clearFreeing.leaveQueue k).unclaim k (s.slot k).route).slot j = s.slot j :=
      slot_dropClaims (s.clearFreeing.leaveQueue k) k j
    have row : s.waitExpiry k = _ := waitExpiry_eq waits due
    rw [if_neg (by rw [passenger]; exact Bool.false_ne_true), dropClaims_eq] at row
    have same : (s.clearFreeing.leaveQueue k).slot k = s.slot k := rfl
    rw [same] at row
    generalize (s.clearFreeing.leaveQueue k).unclaim k (s.slot k).route = w at claims segs freed slot row
    have talk := slotTalk_endSlot w k .waitExpired
    have silent : s.silent w := by rw [claims]; exact ⟨rfl, rfl⟩
    have told := notices_endSlot (notices_silent (notices_self s) silent) (by rw [claims]; rfl) k .waitExpired
    have scrubbers := scrubbers_endSlot (s := w) passenger .waitExpired
    have seg (g : SegIx) : ((w.endSlot k .waitExpired).setOps .passengerExpired).seg g = w.seg g := by
      rw [seg_setOps]
      unfold State.seg
      rw [talk]
    refine ⟨(w.endSlot k .waitExpired).setOps .passengerExpired, congrArg Host.Outcome.next row, ?_,
      onlySlot_of_slot fun j => ?_, fun g => ?_, ?_, fun f => ?_, ?_, ?_⟩
    · have ended : w.endSlot k .waitExpired = { w with
          slots := (w.endSlot k .waitExpired).slots, scrubbers := w.scrubbers,
          staging := (w.endSlot k .waitExpired).staging, dspFlags := (w.endSlot k .waitExpired).dspFlags,
          dirty := (w.endSlot k .waitExpired).dirty } := by
        rw [← scrubbers]
        exact talk
      rw [ended, claims]
      rfl
    · rw [slot_setOps, slot_endSlot, slot, slot, retired_waiting waits]
    · rw [seg, segs]
      rfl
    · have noted : ((w.endSlot k .waitExpired).setOps .passengerExpired).freeing = w.freeing :=
        (congrArg State.freeing talk :)
      rw [noted, freed]
      exact ⟨fun h => h.resolve_left Bool.false_ne_true, .inr⟩
    · have flags : (w.endSlot k .waitExpired).opsFlags = s.opsFlags := by rw [talk, claims]; rfl
      rw [ops_setOps]
      unfold State.ops
      rw [flags]
    · rw [slot] at told
      exact notices_silent told ⟨rfl, rfl⟩
    · exact ((Moves.refl (R := Slot.KeepsRoute) _).setOps _).dirty (dirty_endSlot w k .waitExpired).1

end Sys2Proof.Machine
end

section
/-! SUPPORT. What the end of an event leaves of a slot that has ended and of the notices staged before (R39, R70, R104,
R176). -/
namespace Sys2Proof.Machine
open Sys2Proof
set_option Elab.async false

/-- The record of fleet slot j stays, it comes to hold nothing, it does not become the live slot of scrubber x, and the
staged notices stay staged. -/
structure Aftermath (x : ScrubIx) (j : FleetIx) (s t : State) : Prop where
  slot : t.slot (fleetSlot j) = s.slot (fleetSlot j)
  free : ∀ g, (s.seg g).holder ≠ some (fleetSlot j) → (t.seg g).holder ≠ some (fleetSlot j)
  away : (s.scrub x).liveSlot ≠ some j → (t.scrub x).liveSlot ≠ some j
  told : ∀ n ∈ s.staging, n ∈ t.staging

section After
variable {x : ScrubIx} {j : FleetIx} {s t u : State} {k : SlotIx}

theorem Aftermath.refl (s : State) : Aftermath x j s s := ⟨rfl, fun _ => id, id, fun _ => id⟩

theorem Aftermath.trans (a : Aftermath x j s t) (b : Aftermath x j t u) : Aftermath x j s u :=
  ⟨b.slot.trans a.slot, fun g => b.free g ∘ a.free g, b.away ∘ a.away, fun n => b.told n ∘ a.told n⟩

/-- A step beside the slots, the floor, the scrubbers and the notices. -/
theorem Aftermath.aside (slots : t.slots = s.slots := by rfl) (segs : t.segs = s.segs := by rfl)
    (scrubbers : t.scrubbers = s.scrubbers := by rfl) (staging : t.staging = s.staging := by rfl) : Aftermath x j s t := by
  refine ⟨slot_of_slots slots _, fun g => ?_, ?_, fun n => ?_⟩
  · unfold State.seg; rw [segs]; exact id
  · unfold State.scrub; rw [scrubbers]; exact id
  · rw [staging]; exact id

theorem Aftermath.ite (c : Prop) [Decidable c] (ht : c → Aftermath x j s t) (hu : ¬ c → Aftermath x j s u) :
    Aftermath x j s (if c then t else u) := by
  split
  · exact ht ‹_›
  · exact hu ‹_›

theorem aftermath_foldl {α : Type} (f : State → α → State) (law : State → Prop) (kept : ∀ t a, law t → law (f t a))
    (one : ∀ t a, law t → Aftermath x j t (f t a)) (l : List α) (s : State) (start : law s) :
    Aftermath x j s (l.foldl f s) := by
  induction l generalizing s with
  | nil => exact .refl s
  | cons a l ih => exact (one s a start).trans (ih _ (kept s a start))

/-! ### Notices -/

theorem staging_notify_mono (s : State) (kind : NoticeKind) (p : List Word) (n : Notice) (staged : n ∈ s.staging) :
    n ∈ (s.notify kind p).staging := by
  unfold State.notify State.stage
  split
  · exact staged
  split
  · exact staged
  · exact List.mem_append_left _ staged

theorem aftermath_notify (s : State) (kind : NoticeKind) (p : List Word) : Aftermath x j s (s.notify kind p) :=
  ⟨slot_notify s kind p _, fun g => by rw [seg_notify]; exact id, by unfold State.scrub; rw [scrubbers_notify]; exact id,
    staging_notify_mono s kind p⟩

/-! ### Re-evaluation (R70) -/

theorem liveSlot_setScrub (y : ScrubIx) (r : Scrubber) (new : r.liveSlot = (s.scrub y).liveSlot ∨ r.liveSlot ≠ some j) :
    (s.scrub x).liveSlot ≠ some j → ((s.setScrub y r).scrub x).liveSlot ≠ some j := by
  rw [scrub_setScrub]
  split
  case isTrue same =>
    subst same
    exact fun away => new.elim (fun kept => kept ▸ away) id
  case isFalse => exact id

theorem aftermath_setScrub (y : ScrubIx) (r : Scrubber)
    (new : r.liveSlot = (s.scrub y).liveSlot ∨ r.liveSlot ≠ some j) : Aftermath x j s (s.setScrub y r) :=
  ⟨rfl, fun _ => id, liveSlot_setScrub y r new, fun _ => id⟩

theorem aftermath_setSlot (r : Slot) (other : k ≠ fleetSlot j) : Aftermath x j s (s.setSlot k r) :=
  ⟨slot_setSlot_other s k _ r other, fun _ => id, id, fun _ => id⟩

theorem scrubbers_takeHold (s : State) (k : SlotIx) : (s.takeHold k).scrubbers = s.scrubbers := by
  cases fleet : isFleet k
  · have stores : s.takeHold k = _ := claimStores_takeHold s k fleet
    rw [stores]
  · have stores : s.takeHold k = _ := floorStores_takeHold s k fleet
    rw [stores]

/-- What another slot takes, slot j does not come to hold. -/
theorem aftermath_takeHold (other : k ≠ fleetSlot j) : Aftermath x j s (s.takeHold k) := by
  refine ⟨slot_takeHold s k _, fun g away => ?_, ?_, fun n => ?_⟩
  · have grip := grip_takeHold s k g
    split at grip
    · have taken : ((s.takeHold k).seg g).holder = some k := congrArg Prod.fst grip
      rw [taken]
      exact fun same => other (Option.some.inj same)
    · rw [(grip_eq grip).1]
      exact away
  · unfold State.scrub
    rw [scrubbers_takeHold]
    exact id
  · rw [(silent_takeHold s k).1]
    exact id

theorem asFleet_ne (other : k ≠ fleetSlot j) : asFleet k ≠ some j := by
  unfold asFleet
  split
  · rintro ⟨rfl⟩
    exact other rfl
  · nofun

theorem aftermath_grant {y : ScrubIx} (named : (s.slot k).scrubber = some y) (other : k ≠ fleetSlot j) :
    Aftermath x j s (s.grant k) := by
  have taken : Aftermath x j s (s.seated k (s.slot k).granted) :=
    (aftermath_takeHold other).trans ((aftermath_setSlot _ other).trans .aside)
  have live : Aftermath x j (s.seated k (s.slot k).granted) ((s.seated k (s.slot k).granted).setScrub y
      { s.scrub y with liveSlot := asFleet k }) := aftermath_setScrub y _ (.inr (asFleet_ne other))
  rw [grant_eq named]
  exact (taken.trans live).trans (Aftermath.trans .aside (aftermath_notify _ _ _))

theorem aftermath_activate (other : k ≠ fleetSlot j) : Aftermath x j s (s.activate k) := by
  have taken : Aftermath x j s (s.seated k (s.slot k).activated) :=
    (aftermath_takeHold other).trans ((aftermath_setSlot _ other).trans .aside)
  rw [activate_eq]
  exact taken.trans (Aftermath.trans .aside (aftermath_notify _ _ _))

theorem aftermath_toIdle (res : Result) (i : Nat) (other : k ≠ fleetSlot j) : Aftermath x j s (s.toIdle k res i) := by
  have idle : Aftermath x j s ((s.setSlot k ((s.slot k).toIdle res i)).markSlotWords k) :=
    (aftermath_setSlot _ other).trans .aside
  exact .ite _ (fun _ => idle.trans (.ite _ (fun _ => aftermath_setSlot _ other) fun _ => .refl _)) fun _ => idle

theorem aftermath_clearLiveOf (s : State) (k : SlotIx) : Aftermath x j s (s.clearLiveOf k) := by
  refine .ite _ (fun _ => ?_) fun _ => .refl s
  unfold State.setLive
  split
  · exact .refl s
  · exact aftermath_setScrub _ _ (.inr nofun)

theorem aftermath_endWaiting (f : Result × Nat) (other : k ≠ fleetSlot j) : Aftermath x j s (s.endWaiting k f) :=
  (((Aftermath.aside (t := s.leaveQueue k)).trans (aftermath_toIdle f.1 f.2 other)).trans (aftermath_clearLiveOf _ k)).trans
    (aftermath_notify _ _ _)

theorem aftermath_stillWaiting (f : Result × Nat) (other : k ≠ fleetSlot j) : Aftermath x j s (s.stillWaiting k f) :=
  aftermath_setSlot _ other

/-- The evaluation of a queue's entry passes over a slot that does not wait. -/
theorem aftermath_reevalEntry (idle : (s.slot (fleetSlot j)).state = .idle) (k : SlotIx) :
    Aftermath x j s (s.reevalEntry k) := by
  by_cases own : k = fleetSlot j
  · rw [reevalEntry_apart (by rw [own, idle]; nofun)]
    exact .refl s
  · unfold State.reevalEntry
    refine .ite _ (fun _ => .refl s) fun _ => .ite _ (fun _ => ?_) fun _ => ?_
    · split
      · exact .refl s
      · rename_i named
        split
        · exact aftermath_endWaiting _ own
        split
        · exact aftermath_grant named own
        · exact .ite _ (fun _ => aftermath_stillWaiting _ own) fun _ => aftermath_endWaiting _ own
    · split
      · exact aftermath_activate own
      · exact aftermath_stillWaiting _ own

theorem aftermath_settle (idle : (s.slot (fleetSlot j)).state = .idle) : Aftermath x j s s.settle := by
  refine .ite _ (fun _ => ?_) fun _ => .refl s
  refine (aftermath_foldl _ (fun t => (t.slot (fleetSlot j)).state = .idle) (fun t k rest => ?_)
    (fun t k rest => aftermath_reevalEntry rest k) _ s idle).trans .aside
  rw [(aftermath_reevalEntry (x := x) rest k).slot]
  exact rest

/-! ### The end of a report's event (R33, R104, R176) -/

theorem aftermath_storeReport (s : State) (y : ScrubIx) (r : Report) : Aftermath x j s (s.storeReport y r) :=
  (aftermath_setScrub y ((s.scrub y).reported s.clock (s.after s.reportTimeout) r) (.inl rfl)).trans .aside

theorem aftermath_markWet (s : State) (g : SegIx) : Aftermath x j s (s.markWet g) := by
  refine ⟨rfl, fun h away => ?_, id, fun _ => id⟩
  rw [(grip_eq (grip_markWet s g h)).1]
  exact away

theorem aftermath_judgeService (s : State) : Aftermath x j s s.judgeService := by
  refine .ite _ (fun _ => ?_) fun _ => .refl s
  have wet : Aftermath x j { s with mode := .service } ({ s with mode := .service } : State).restartWet :=
    aftermath_foldl _ (fun _ => True) (fun _ _ => id)
      (fun t g _ => .ite _ (fun _ => aftermath_markWet t g) fun _ => .refl t) _ _ trivial
  exact (Aftermath.aside (t := { s with mode := .service })).trans (wet.trans (aftermath_notify _ _ _))

theorem Aftermath.of_portOnly (port : s.portOnly t) : Aftermath x j s t := by
  unfold State.portOnly at port
  rw [port]
  exact .aside

theorem aftermath_port (s : State) (ready : Bool) (a : BitVec 18) (v : Word) :
    Aftermath x j s ((s.atTurn ready).storeWatched a v).arbitrate := by
  have turn : Aftermath x j s (s.atTurn ready) :=
    .ite _ (fun _ => .refl s) fun _ => .of_portOnly (portOnly_awaitPort s)
  have stored : Aftermath x j (s.atTurn ready) ((s.atTurn ready).storeWatched a v) := .aside
  rw [arbitrate_eq]
  exact turn.trans (stored.trans .aside)

end After
end Sys2Proof.Machine
end

section
/-! SUPPORT. How many notices the steps of a report produce before its slot ends (R94, R106, R168). -/
namespace Sys2Proof.Machine
open Sys2Proof
set_option Elab.async false

/-- Between two states, with the same outside, at most n notices have been produced. -/
structure Says (n : Nat) (s t : State) : Prop where
  outside : t.outside = s.outside
  few : ∃ l flags, s.notices t l flags ∧ l.length ≤ n

section Counting
variable {n : Nat} {s t u : State}

theorem Says.refl (s : State) : Says 0 s s := ⟨rfl, [], [], notices_self s, Nat.le_refl 0⟩

theorem Says.weaken {m : Nat} (h : Says n s t) (le : n ≤ m) : Says m s t := by
  obtain ⟨outside, l, flags, told, short⟩ := h
  exact ⟨outside, l, flags, told, short.trans le⟩

theorem Says.silent (h : Says n s t) (silent : t.silent u) (outside : u.outside = t.outside) : Says n s u := by
  obtain ⟨same, l, flags, told, short⟩ := h
  exact ⟨outside.trans same, l, flags, notices_silent told silent, short⟩

theorem Says.ite (c : Prop) [Decidable c] (ht : c → Says n s t) (hu : ¬ c → Says n s u) : Says n s (if c then t else u) := by
  split
  · exact ht ‹_›
  · exact hu ‹_›

theorem Says.notify (h : Says n s t) (kind : NoticeKind) (p : List Word) : Says (n + 1) s (t.notify kind p) := by
  obtain ⟨outside, l, flags, told, short⟩ := h
  refine ⟨(outside_notify t kind p).trans outside, _, flags, notices_notify told (congrArg Outside.tuning outside)
    (congrArg Outside.clock outside) (congrArg Outside.held outside) kind p, ?_⟩
  rw [List.length_append]
  exact Nat.add_le_add_right short 1

theorem Says.setDsp (h : Says n s t) (f : DspFlag) : Says n s (t.setDsp f) := by
  obtain ⟨outside, l, flags, told, short⟩ := h
  exact ⟨outside, l, f :: flags, notices_setDsp told f, short⟩

theorem says_foldl {α : Type} (f : State → α → State) (one : ∀ n t a, Says n s t → Says (n + 1) s (f t a)) (l : List α)
    (h : Says n s t) : Says (n + l.length) s (l.foldl f t) := by
  induction l generalizing n t with
  | nil => exact h
  | cons a l ih =>
    rw [List.length_cons, Nat.add_comm l.length 1, ← Nat.add_assoc]
    exact ih (one n t a h)

/-- The notice that comes after n others finds room when n others leave some. -/
theorem tells_of_notices {l : List (NoticeKind × List Word)} {flags : List DspFlag} {kind : NoticeKind} {p : List Word}
    (told : s.notices t (l ++ [(kind, p)]) flags) (short : l.length ≤ n) : s.tells t n kind p := by
  intro sent room
  have sendable : s.sendable (l ++ [(kind, p)]) = s.sendable l ++ [(kind, p)] := by
    simp [State.sendable, sent]
  have fewer : (s.sendable l).length ≤ l.length := List.length_filter_le _ _
  obtain ⟨staging, -⟩ := told
  rw [staging, sendable, List.take_of_length_le (by rw [List.length_append, List.length_singleton]; omega)]
  exact List.mem_append_right _ (List.mem_map.mpr ⟨(kind, p), List.mem_append_right _ (List.mem_singleton_self _), rfl⟩)

theorem Says.tells (h : Says n s t) (kind : NoticeKind) (p : List Word) : s.tells (t.notify kind p) n kind p := by
  obtain ⟨outside, l, flags, told, short⟩ := h
  exact tells_of_notices (notices_notify told (congrArg Outside.tuning outside) (congrArg Outside.clock outside)
    (congrArg Outside.held outside) kind p) short

theorem tells_mono {kind : NoticeKind} {p : List Word} (told : s.tells t n kind p)
    (kept : ∀ m ∈ t.staging, m ∈ u.staging) : s.tells u n kind p := fun sent room => kept _ (told sent room)

/-! ### The steps of a report (R94 to R101, R106) -/

theorem Says.hear (h : Says n s t) (x : ScrubIx) (p : Position) : Says (n + 1) s (t.hear x p) := by
  refine .ite _ (fun _ => ?_) fun _ => h.weaken (Nat.le_succ n)
  exact (h.silent (u := t.setScrub x _) ⟨rfl, rfl⟩ rfl).notify _ _

theorem silent_moveTo (s : State) (x : ScrubIx) (p : Position) : s.silent (s.moveTo x p) :=
  ⟨moveTo_keeps State.staging (fun _ _ _ _ _ => rfl) (fun _ _ _ => rfl) s x p,
    moveTo_keeps State.dspFlags (fun _ _ _ _ _ => rfl) (fun _ _ _ => rfl) s x p⟩

theorem silent_progressTo (s : State) (x : ScrubIx) (p : Position) : s.silent (s.progressTo x p) := by
  unfold State.progressTo
  split
  · exact ⟨rfl, rfl⟩
  · split <;> exact ⟨rfl, rfl⟩

theorem silent_releaseBehind (s : State) (x : ScrubIx) (p : Position) : s.silent (s.releaseBehind x p) := by
  unfold State.releaseBehind
  split
  · exact ⟨rfl, rfl⟩
  · exact silent_releaseWhere s _ _

theorem silent_witness (s : State) (x : ScrubIx) (p : Position) (scrubbing : Bool) :
    s.silent (s.witness x p scrubbing) := by
  unfold State.witness
  split <;> exact ⟨rfl, rfl⟩

theorem Says.setMark (h : Says n s t) (x : ScrubIx) : Says n s (t.setMark x) := by
  have placed : Says n s (t.placeMark x) := h.silent ⟨rfl, rfl⟩ rfl
  exact .ite _ (fun _ => placed.setDsp _) fun _ => placed

theorem Says.shortenedNotice (h : Says n s t) (k : SlotIx) : Says (n + 1) s (t.shortenedNotice k) :=
  (h.silent (u := t.markDirty (.slotStatus k)) ⟨rfl, rfl⟩ rfl).notify _ _

theorem Says.setSlot (h : Says n s t) (k : SlotIx) (r : Slot) : Says n s (t.setSlot k r) := h.silent ⟨rfl, rfl⟩ rfl

theorem Says.shorten (h : Says n s t) (k : SlotIx) (e : Nat) : Says (n + 1) s (t.shorten k e) := by
  obtain same | ⟨fleet, low, granted⟩ | ⟨fleet, low, authority, sent⟩ := shorten_cases t k e
  · rw [same]
    exact h.weaken (Nat.le_succ n)
  · rw [shorten_granted fleet low granted]
    exact ((h.silent (silent_releaseWhere t k _) (outside_releaseWhere t k _)).setSlot k _).shortenedNotice k
  · rw [shorten_sent fleet low authority sent]
    exact ((h.silent (silent_markPending t k _) (outside_markPending t k _)).setSlot k _).shortenedNotice k

theorem Says.shortenHolder (h : Says n s t) (g : SegIx) (except : Option SlotIx) :
    Says (n + 1) s (t.shortenHolder g except) := by
  unfold State.shortenHolder
  split
  · exact h.weaken (Nat.le_succ n)
  · refine .ite _ (fun _ => ?_) fun _ => h.weaken (Nat.le_succ n)
    split
    · exact .ite _ (fun _ => h.shorten _ _) fun _ => h.weaken (Nat.le_succ n)
    · exact h.weaken (Nat.le_succ n)

end Counting
end Sys2Proof.Machine
end

section
/-! SUPPORT. The violation step of a report (R95, R96, R106). -/
namespace Sys2Proof.Machine
open Sys2Proof
set_option Elab.async false

section Violation
variable {n : Nat} {s t : State} {x : ScrubIx} {p : Position} {j : FleetIx} {v : List SegIx}

/-! ### The parts of the step (R106) -/

/-- The violation mark, set once (R106, R107). -/
def State.marked (x : ScrubIx) (s : State) : State := if (s.scrub x).mark then s else s.setMark x

/-- A scrubber's own slot shortened to its progress (R106, step 3). -/
def State.ownCut (x : ScrubIx) (s : State) : State :=
  match (s.scrub x).liveSlot.map fleetSlot with
  | none => s.marked x
  | some k => (s.marked x).shortenToProgress k

/-- The other slots that hold a violated segment ahead, shortened to before it (R106, step 4). -/
def State.othersCut (x : ScrubIx) (v : List SegIx) (s : State) : State :=
  v.foldl (fun t g => t.shortenHolder g ((s.scrub x).liveSlot.map fleetSlot)) (s.ownCut x)

theorem violation_eq (first : SegIx) (rest : List SegIx) : s.violation x p (first :: rest)
    = if (s.scrub x).mark then s.othersCut x (first :: rest)
      else ((s.othersCut x (first :: rest)).setDsp .violation).notify .violation
        [pack4 (x.val + 1) (p.current.val + 1) (first.val + 1) 0] := rfl

theorem Says.violation (h : Says n s t) (x : ScrubIx) (p : Position) (v : List SegIx) :
    Says (n + v.length + 2) s (t.violation x p v) := by
  cases v with
  | nil => exact h.weaken (Nat.le_add_right _ _)
  | cons first rest =>
    have marked : Says n s (t.marked x) := .ite _ (fun _ => h) fun _ => h.setMark x
    have own : Says (n + 1) s (t.ownCut x) := by
      unfold State.ownCut
      split
      · exact marked.weaken (Nat.le_succ n)
      · exact marked.shorten _ _
    have others : Says (n + 1 + (first :: rest).length) s (t.othersCut x (first :: rest)) :=
      says_foldl _ (fun _ _ g m => m.shortenHolder g _) _ own
    rw [violation_eq]
    exact .ite _ (fun _ => others.weaken (by omega)) fun _ => ((others.setDsp _).notify _ _).weaken (by omega)

/-! ### The scrubber's own slot (R106, step 3) -/

theorem slot_marked (k : SlotIx) : (s.marked x).slot k = s.slot k := by
  unfold State.marked State.setMark State.raising
  split
  · rfl
  · split <;> rfl

theorem slot_shortenHolder_except (g : SegIx) (k : SlotIx) : (s.shortenHolder g (some k)).slot k = s.slot k := by
  unfold State.shortenHolder
  split
  · rfl
  · rename_i i _
    split
    · rename_i other
      have ne : k ≠ i := by rintro rfl; simp at other
      split
      · split
        · exact (alike_shorten s i k ne _).slot
        · rfl
      · rfl
    · rfl

/-- The own slot is shortened to its progress, and by nothing else. -/
theorem slot_violation_own (live : (s.scrub x).liveSlot = some j) (violated : v ≠ []) :
    (s.violation x p v).slot (fleetSlot j)
      = (s.marked x).shortenedSlot (fleetSlot j) (s.slot (fleetSlot j)).progress := by
  obtain ⟨first, rest, rfl⟩ := List.exists_cons_of_ne_nil violated
  have own : (s.ownCut x).slot (fleetSlot j)
      = (s.marked x).shortenedSlot (fleetSlot j) (s.slot (fleetSlot j)).progress := by
    unfold State.ownCut
    rw [live]
    exact (slot_shorten _ _ _).trans (by rw [slot_marked])
  have others : (s.othersCut x (first :: rest)).slot (fleetSlot j) = (s.ownCut x).slot (fleetSlot j) := by
    unfold State.othersCut
    rw [live]
    exact foldl_keeps (fun t => t.slot (fleetSlot j)) _ (fun t g => slot_shortenHolder_except g _) _ _
  rw [violation_eq, ← own, ← others]
  split
  · rfl
  · rw [slot_notify]; rfl

theorem calm_shortenHolder (t : State) (g : SegIx) (except : Option SlotIx) :
    FloorWork True t (t.shortenHolder g except) := by
  unfold State.shortenHolder
  split
  · exact .refl t
  · refine .ite _ (fun _ => ?_) fun _ => .refl t
    split
    · exact .ite _ (fun _ => fw_shorten (.refl t) _ _) fun _ => .refl t
    · exact .refl t

theorem liveSlot_violation (y : ScrubIx) : ((s.violation x p v).scrub y).liveSlot = (s.scrub y).liveSlot := by
  cases v with
  | nil => rfl
  | cons first rest =>
    have marked : ((s.marked x).scrub y).liveSlot = (s.scrub y).liveSlot := by
      unfold State.marked
      split
      · rfl
      · rw [scrub_setMark, State.placeMark, scrub_setScrub]
        split
        · rename_i same; rw [same]
        · rfl
    have cut : FloorWork True (s.marked x) (s.othersCut x (first :: rest)) := by
      have own : FloorWork True (s.marked x) (s.ownCut x) := by
        unfold State.ownCut
        split
        · exact .refl _
        · exact fw_shorten (.refl _) _ _
      exact fw_foldl _ (fun t g m => m.trans (calm_shortenHolder t g _)) _ own
    have scrubbers : (s.violation x p (first :: rest)).scrubbers = (s.marked x).scrubbers := by
      rw [violation_eq, ← (cut.still trivial).2.1]
      split
      · rfl
      · rw [scrubbers_notify]; rfl
    rw [← marked]
    unfold State.scrub
    rw [scrubbers]

/-! ### The violated segments (R95, R96) -/

theorem allowed_iff (g : SegIx) : s.allowed x g = true ↔ allowedFor s x g := by
  have sent (r : SlotState) : r.sent = true ↔ r = .delivered ∨ r = .active ∨ r = .shortening := by
    cases r <;> simp [SlotState.sent]
  unfold State.allowed allowedFor State.sentSlot
  cases live : (s.scrub x).liveSlot with
  | none => simp
  | some i =>
    by_cases out : (s.slot (fleetSlot i)).state.sent = true
    · simp [out, (sent _).mp out, or_assoc]
    · have never := mt (sent _).mpr out
      simp [out, never]

theorem violated_iff (g : SegIx) : s.violated x ((s.scrub x).state == .unheard) g = true ↔ violatedBy s x g := by
  unfold State.violated violatedBy
  by_cases first : (s.scrub x).state = .unheard
  · cases (s.seg g).occupant <;> simp [first, Option.isSome_iff_ne_none]
  · have judged := allowed_iff (s := s) (x := x) g
    cases (s.seg g).occupant <;> simp [first, ← judged]

theorem slot_hear (k : SlotIx) : (s.hear x p).slot k = s.slot k := slot_of_slots (slots_hear s x p) k

theorem violated_hear (present : (s.scrub x).state ≠ .absent) (stays : (s.scrub x).state ≠ .withdrawn) (g : SegIx) :
    (s.hear x p).violated x ((s.scrub x).state == .unheard) g = s.violated x ((s.scrub x).state == .unheard) g := by
  have scrub := (scrub_hear p present stays x).trans (if_pos rfl)
  have seg : (s.hear x p).seg g = s.seg g := by unfold State.seg; rw [(hear_tables s x p).2.2]
  unfold State.violated State.allowed State.sentSlot
  simp only [scrub, seg, slot_hear]

/-- The violated segments of a report, current first. -/
def State.violatedSegs (s : State) (x : ScrubIx) (p : Position) : List SegIx :=
  p.segs.filter (fun g => (s.hear x p).violated x ((s.scrub x).state == .unheard) g)

theorem violatedSegs_length : (s.violatedSegs x p).length ≤ 2 := by
  refine (List.length_filter_le _ _).trans ?_
  obtain ⟨current, trailing⟩ := p
  cases trailing <;> simp [Position.segs]

theorem violatedSegs_nil (present : (s.scrub x).state ≠ .absent) (stays : (s.scrub x).state ≠ .withdrawn)
    (clear : ¬ violatingAt s x p) : s.violatedSegs x p = [] := by
  refine List.filter_eq_nil_iff.mpr fun g stands violated => clear ?_
  rw [violated_hear present stays, violated_iff] at violated
  obtain rfl | trailing := (mem_segs p g).mp stands
  · exact .inl violated
  · exact .inr ⟨g, trailing.symm, violated⟩

end Violation
end Sys2Proof.Machine
end

section
/-! SUPPORT. The slot of a reporting scrubber before the slot field is judged (R92 to R100). -/
namespace Sys2Proof.Machine
open Sys2Proof
set_option Elab.async false

/-- A slot that its scrubber goes on serving: draft, scrubber, mode and route stay, and so does being sent. -/
structure Slot.Serves (r t : Slot) : Prop where
  draft : t.draft = r.draft
  scrubber : t.scrubber = r.scrubber
  mode : t.mode = r.mode
  route : t.route = r.route
  sent : r.state.sent = true → t.state.sent = true

/-- The record after step 4 of a report (R98). -/
def Slot.reached (r : Slot) (p : Position) : Slot :=
  match r.indexOf p.current with
  | none => r
  | some i => r.advanced i

/-- The state once a report has placed its scrubber (R94, R97). -/
def State.placed (x : ScrubIx) (p : Position) (s : State) : State := (s.hear x p).moveTo x p

/-- The state after steps 2 to 7 of a report, before its slot field is judged (R92). -/
def State.judged (x : ScrubIx) (p : Position) (scrubbing : Bool) (s : State) : State :=
  ((((s.placed x p).progressTo x p).violation x p (s.violatedSegs x p)).releaseBehind x p).witness x p scrubbing

/-- The state after steps 2 to 9 of a report (R92). -/
def State.ruled (x : ScrubIx) (p : Position) (r : Report) (s : State) : State :=
  ((s.judged x p r.flags.scrubbing).slotField x p r ((s.placed x p).beyondEnd x p)).complete x p r.flags

theorem processReport_eq (s : State) (x : ScrubIx) (p : Position) (r : Report) :
    s.processReport x p r = (s.ruled x p r).storeReport x r := rfl

section Judged
variable {s t : State} {x : ScrubIx} {p : Position} {j : FleetIx} {r : Slot}

theorem Slot.Serves.refl (r : Slot) : r.Serves r := ⟨rfl, rfl, rfl, rfl, id⟩

theorem Slot.Serves.trans {q t : Slot} (a : r.Serves q) (b : q.Serves t) : r.Serves t :=
  ⟨b.draft.trans a.draft, b.scrubber.trans a.scrubber, b.mode.trans a.mode, b.route.trans a.route, b.sent ∘ a.sent⟩

theorem serves_shortenedSlot (s : State) (k : SlotIx) (e : Nat) : (s.slot k).Serves (s.shortenedSlot k e) := by
  unfold State.shortenedSlot
  split
  · exact .refl _
  split
  · exact ⟨rfl, rfl, rfl, rfl, id⟩
  · exact ⟨rfl, rfl, rfl, rfl, fun _ => rfl⟩

theorem reached_walks (r : Slot) (p : Position) : ∃ i, r.reached p = { r with progress := i } := by
  unfold Slot.reached
  split
  · exact ⟨r.progress, rfl⟩
  · exact ⟨_, rfl⟩

/-- A slot whose scrubber stands at its end, or beyond it, has come to its end. -/
theorem reached_end {i : Nat} (stands : r.indexOf p.current = some i) (atEnd : r.endIx ≤ i) :
    (r.reached p).progress = r.endIx := by
  unfold Slot.reached
  rw [stands]
  exact Nat.min_eq_right (atEnd.trans (Nat.le_max_right _ _))

theorem shortenedSlot_end (ended : (s.slot (fleetSlot j)).endIx ≤ (s.slot (fleetSlot j)).progress) :
    s.shortenedSlot (fleetSlot j) (s.slot (fleetSlot j)).progress = s.slot (fleetSlot j) := by
  refine if_pos ?_
  simp only [Slot.effectiveEnd, Nat.max_self, ended, decide_true, Bool.or_true]

theorem sentSlot_of (live : (s.scrub x).liveSlot = some j) (sent : (s.slot (fleetSlot j)).state.sent = true) :
    s.sentSlot x = some (fleetSlot j) := by
  unfold State.sentSlot
  rw [live]
  exact if_pos sent

/-! ### The live slot stays -/

theorem scrub_notify (kind : NoticeKind) (l : List Word) (y : ScrubIx) : (s.notify kind l).scrub y = s.scrub y := by
  unfold State.scrub
  rw [scrubbers_notify]

theorem liveSlot_hear (y : ScrubIx) : ((s.hear x p).scrub y).liveSlot = (s.scrub y).liveSlot := by
  unfold State.hear
  dsimp only
  split
  · rw [scrub_notify, scrub_setScrub]
    split
    · rename_i same; rw [same]
    · rfl
  · rfl

theorem liveSlot_placed (y : ScrubIx) : ((s.placed x p).scrub y).liveSlot = (s.scrub y).liveSlot := by
  rw [← liveSlot_hear (s := s) (x := x) (p := p), State.placed, scrub_moveTo]
  split
  · rename_i same; rw [same]
  · rfl

theorem slot_placed (k : SlotIx) : (s.placed x p).slot k = s.slot k :=
  (slot_of_slots (slots_moveTo _ x p) k).trans (slot_hear k)

theorem scrub_progressTo (y : ScrubIx) : (s.progressTo x p).scrub y = s.scrub y := by
  unfold State.progressTo
  split
  · rfl
  · split <;> rfl

theorem scrub_releaseWhere (k : SlotIx) (pick : SegIx × Nat → Bool) (y : ScrubIx) :
    (s.releaseWhere k pick).scrub y = s.scrub y := by
  have freed : s.floorStores _ := floorStores_releaseWhere s k pick
  unfold State.scrub
  rw [freed]

theorem scrub_releaseBehind (y : ScrubIx) : (s.releaseBehind x p).scrub y = s.scrub y := by
  unfold State.releaseBehind
  split
  · rfl
  · exact scrub_releaseWhere _ _ y

theorem scrub_witness (b : Bool) (y : ScrubIx) : (s.witness x p b).scrub y = s.scrub y := by
  unfold State.witness
  split <;> rfl

theorem liveSlot_judged (b : Bool) (y : ScrubIx) : ((s.judged x p b).scrub y).liveSlot = (s.scrub y).liveSlot := by
  unfold State.judged
  rw [scrub_witness, scrub_releaseBehind, liveSlot_violation, scrub_progressTo, liveSlot_placed]

theorem says_judged (b : Bool) : Says 5 s (s.judged x p b) := by
  have placed : Says 1 s (s.placed x p) := ((Says.refl s).hear x p).silent (silent_moveTo _ x p) (outside_moveTo _ x p)
  have moved := placed.silent (silent_progressTo _ x p) (outside_progressTo _ x p)
  have violated : Says 5 s _ := (moved.violation x p (s.violatedSegs x p)).weaken (by
    have few := violatedSegs_length (s := s) (x := x) (p := p)
    omega)
  exact (violated.silent (silent_releaseBehind _ x p) (outside_releaseBehind _ x p)).silent (silent_witness _ x p b)
    (outside_witness _ x p b)

/-! ### The slot record -/

theorem slot_progressTo (live : (s.scrub x).liveSlot = some j) (sent : (s.slot (fleetSlot j)).state.sent = true) :
    (s.progressTo x p).slot (fleetSlot j) = (s.slot (fleetSlot j)).reached p := by
  unfold State.progressTo Slot.reached
  rw [sentSlot_of live sent]
  dsimp only
  cases (s.slot (fleetSlot j)).indexOf p.current with
  | none => rfl
  | some i => exact slot_setSlot_same s _ _

theorem slot_releaseBehind (k : SlotIx) : (s.releaseBehind x p).slot k = s.slot k := by
  unfold State.releaseBehind
  split
  · rfl
  · exact slot_releaseWhere s _ k _

theorem slot_witness (b : Bool) (live : (s.scrub x).liveSlot = some j) (sent : (s.slot (fleetSlot j)).state.sent = true) :
    (s.witness x p b).slot (fleetSlot j) = (s.slot (fleetSlot j)).evidenced p b := by
  unfold State.witness
  rw [sentSlot_of live sent]
  exact slot_setSlot_same s _ _

theorem serves_violation (v : List SegIx) (live : (s.scrub x).liveSlot = some j) :
    (s.slot (fleetSlot j)).Serves ((s.violation x p v).slot (fleetSlot j)) := by
  by_cases none : v = []
  · rw [none]; exact .refl _
  · rw [slot_violation_own live none, ← slot_marked (x := x)]
    exact serves_shortenedSlot _ _ _

theorem slot_violation_kept {v : List SegIx} (live : (s.scrub x).liveSlot = some j)
    (kept : v = [] ∨ (s.slot (fleetSlot j)).endIx ≤ (s.slot (fleetSlot j)).progress) :
    (s.violation x p v).slot (fleetSlot j) = s.slot (fleetSlot j) := by
  by_cases none : v = []
  · rw [none]; rfl
  · rw [slot_violation_own live none]
    have ended := kept.resolve_left none
    rw [← slot_marked (x := x)] at ended ⊢
    exact shortenedSlot_end ended

section Sent
variable (live : (s.scrub x).liveSlot = some j) (sent : (s.slot (fleetSlot j)).state.sent = true)
include live sent

theorem reached_placed : ((s.placed x p).progressTo x p).slot (fleetSlot j) = (s.slot (fleetSlot j)).reached p := by
  rw [slot_progressTo ((liveSlot_placed x).trans live) (by rw [slot_placed]; exact sent), slot_placed]

omit sent in
theorem liveSlot_reached : (((s.placed x p).progressTo x p).scrub x).liveSlot = some j := by
  rw [scrub_progressTo, liveSlot_placed, live]

/-- The slot is judged with the evidence of what the violation step has left of it. -/
theorem slot_judged (b : Bool) : (s.judged x p b).slot (fleetSlot j)
    = ((((s.placed x p).progressTo x p).violation x p (s.violatedSegs x p)).slot (fleetSlot j)).evidenced p b := by
  have serves := serves_violation (p := p) (s.violatedSegs x p) (liveSlot_reached (p := p) live)
  rw [reached_placed live sent] at serves
  have still : (((s.slot (fleetSlot j)).reached p)).state.sent = true := by
    obtain ⟨i, walked⟩ := reached_walks (s.slot (fleetSlot j)) p
    rw [walked]; exact sent
  unfold State.judged
  rw [slot_witness b _ (by rw [slot_releaseBehind]; exact serves.sent still), slot_releaseBehind]
  rw [scrub_releaseBehind, liveSlot_violation, liveSlot_reached live]

theorem serves_judged (b : Bool) : (s.slot (fleetSlot j)).Serves ((s.judged x p b).slot (fleetSlot j)) := by
  have serves := serves_violation (p := p) (s.violatedSegs x p) (liveSlot_reached (p := p) live)
  have walked : (s.slot (fleetSlot j)).Serves ((s.slot (fleetSlot j)).reached p) := by
    obtain ⟨i, walked⟩ := reached_walks (s.slot (fleetSlot j)) p
    rw [walked]; exact ⟨rfl, rfl, rfl, rfl, id⟩
  rw [reached_placed live sent] at serves
  rw [slot_judged live sent]
  exact (walked.trans serves).trans ⟨rfl, rfl, rfl, rfl, id⟩

/-- Without a violation, and at the slot's end, the judgement moves progress and evidence alone. -/
theorem walked_judged (b : Bool) (kept : s.violatedSegs x p = [] ∨ ∃ i, (s.slot (fleetSlot j)).indexOf p.current = some i
      ∧ (s.slot (fleetSlot j)).endIx ≤ i) : ∃ i l, (s.judged x p b).slot (fleetSlot j)
        = { s.slot (fleetSlot j) with progress := i, evidence := l } := by
  have reached := reached_placed (p := p) live sent
  obtain ⟨i, walked⟩ := reached_walks (s.slot (fleetSlot j)) p
  rw [slot_judged live sent, slot_violation_kept (liveSlot_reached live), reached, walked]
  · exact ⟨i, _, rfl⟩
  · refine kept.imp_right fun ⟨i, stands, atEnd⟩ => ?_
    have ended := reached_end stands atEnd
    rw [reached, ended, walked]

end Sent
end Judged
end Sys2Proof.Machine
end

section
/-! SUPPORT. The ways in which a report ends its scrubber's slot (R41, R74, R85, R98, R102, R103, R116, R117, R119). -/
namespace Sys2Proof.Machine
open Sys2Proof
set_option Elab.async false

/-- Fleet slot j has ended with a result as record r: it holds nothing of a route, it is not the live slot of scrubber
x, and its ENDED notice has come after n others. -/
structure Ends (s t : State) (x : ScrubIx) (j : FleetIx) (route : List SegIx) (n : Nat) (res : Result) (r : Slot) :
    Prop where
  slot : t.slot (fleetSlot j) = r
  free : ∀ g ∈ route, (t.seg g).holder ≠ some (fleetSlot j)
  away : (t.scrub x).liveSlot ≠ some j
  told : s.tells t n .ended [pack4 ((fleetSlot j).val + 1) res.code r.revision.toNat 0]

section Endings
variable {n : Nat} {s t u : State} {x : ScrubIx} {p : Position} {j : FleetIx} {r : Slot} {res : Result}

theorem Ends.after {route : List SegIx} (ends : Ends s t x j route n res r) (after : Aftermath x j t u) :
    Ends s u x j route n res r :=
  ⟨after.slot.trans ends.slot, fun g mem => after.free g (ends.free g mem), after.away ends.away,
    tells_mono ends.told after.told⟩

/-! ### The end of a slot (R72, R91) -/

theorem isFleet_fleetSlot (j : FleetIx) : isFleet (fleetSlot j) = true := by simp [isFleet, fleetSlot]

theorem liveSlot_endSlot (named : (t.slot (fleetSlot j)).scrubber = some x) :
    ((t.endSlot (fleetSlot j) res).scrub x).liveSlot = none := by
  rw [scrub_endSlot, if_pos ⟨isFleet_fleetSlot j, named⟩]

theorem staging_endSlot_mono (k : SlotIx) (m : Notice) (staged : m ∈ t.staging) : m ∈ (t.endSlot k res).staging := by
  unfold State.endSlot
  dsimp only
  rw [(silent_clearLiveOf _ k).1]
  refine staging_notify_mono _ _ _ m ?_
  rw [(silent_toIdle t k res 0).1]
  exact staged

theorem ends_endSlot {route : List SegIx} (counted : Says n s t) (authority : (t.slot (fleetSlot j)).state.authority = true)
    (named : (t.slot (fleetSlot j)).scrubber = some x) (free : ∀ g ∈ route, (t.seg g).holder ≠ some (fleetSlot j)) :
    Ends s (t.endSlot (fleetSlot j) res) x j route n res ((t.slot (fleetSlot j)).returned res 0 true) := by
  obtain ⟨outside, l, flags, told, short⟩ := counted
  have talk := slotTalk_endSlot t (fleetSlot j) res
  refine ⟨?_, fun g mem => ?_, ?_, tells_of_notices (notices_endSlot told outside (fleetSlot j) res) short⟩
  · rw [slot_endSlot, if_pos rfl, Slot.retired, authority, isFleet_fleetSlot, Bool.and_true, Bool.or_true]
  · unfold State.seg
    rw [talk]
    exact free g mem
  · rw [liveSlot_endSlot named]
    nofun

theorem free_releaseAll (k : SlotIx) {g : SegIx} (mem : g ∈ (t.slot k).route) : ((t.releaseAll k).seg g).holder ≠ some k := by
  have grip := grip_releaseWhere t k (fun _ => true) g
  rw [← map_fst_entries] at mem
  obtain ⟨e, entry, here⟩ := List.mem_map.mp mem
  intro held
  split at grip
  · have nobody : ((t.releaseAll k).seg g).holder = none := congrArg Prod.fst grip
    rw [nobody] at held
    cases held
  · rename_i other
    have same : ((t.releaseAll k).seg g).holder = (t.seg g).holder := (grip_eq grip).1
    exact other ⟨same ▸ held, e, entry, rfl, here⟩

theorem ends_releaseAndEnd (counted : Says n s t) (authority : (t.slot (fleetSlot j)).state.authority = true)
    (named : (t.slot (fleetSlot j)).scrubber = some x) : Ends s (t.releaseAndEnd (fleetSlot j) res) x j
      (t.slot (fleetSlot j)).route n res ((t.slot (fleetSlot j)).returned res 0 true) := by
  have freed := counted.silent (silent_releaseWhere t (fleetSlot j) fun _ => true) (outside_releaseWhere t _ _)
  have slot := slot_releaseAll t (fleetSlot j) (fleetSlot j)
  rw [← slot] at authority named
  have ends := ends_endSlot (t := t.releaseAll (fleetSlot j)) (res := res) freed authority named fun g =>
    free_releaseAll (fleetSlot j)
  rwa [slot] at ends

theorem staging_releaseAndEnd_mono (k : SlotIx) (m : Notice) (staged : m ∈ t.staging) :
    m ∈ (t.releaseAndEnd k res).staging := by
  refine staging_endSlot_mono k m ?_
  rw [State.releaseAll, (silent_releaseWhere t k _).1]
  exact staged

/-- What gives up everything ends with its overdue mark cleared (R119). -/
theorem ends_giveUp (counted : Says n s t) (authority : (t.slot (fleetSlot j)).state.authority = true)
    (named : (t.slot (fleetSlot j)).scrubber = some x) : Ends s (t.giveUp (fleetSlot j) res) x j
      (t.slot (fleetSlot j)).route n res { (t.slot (fleetSlot j)).returned res 0 true with overdue := false } := by
  have freed := counted.silent (silent_releaseWhere t (fleetSlot j) fun _ => true) (outside_releaseWhere t _ _)
  have slot : ((t.releaseAll (fleetSlot j)).clearOverdue (fleetSlot j)).slot (fleetSlot j)
      = { t.slot (fleetSlot j) with overdue := false } := by
    unfold State.clearOverdue
    rw [slot_setSlot_same, slot_releaseAll]
  have ends := ends_endSlot (t := (t.releaseAll (fleetSlot j)).clearOverdue (fleetSlot j)) (res := res)
    (freed.setSlot _ _) (by rw [slot]; exact authority) (by rw [slot]; exact named) fun g =>
      free_releaseAll (fleetSlot j)
  rwa [slot] at ends

/-! ### Completion (R103) -/

theorem complete_gone (f : ReportFlags) (gone : (t.scrub x).liveSlot = none) : t.complete x p f = t := by
  unfold State.complete State.sentSlot
  rw [gone]

theorem completedBy_of {f : ReportFlags} (active : r.state = .active) (completes : completesAt r p f) :
    r.completedBy p f = true := by
  obtain ⟨entry, trailing, flag⟩ := completes
  simp [Slot.completedBy, active, entry, trailing, flag]

theorem complete_active {f : ReportFlags} (live : (t.scrub x).liveSlot = some j)
    (active : (t.slot (fleetSlot j)).state = .active) (completes : completesAt (t.slot (fleetSlot j)) p f) :
    t.complete x p f = t.releaseAndEnd (fleetSlot j) .completed := by
  unfold State.complete
  rw [sentSlot_of live (by rw [active]; rfl)]
  exact if_pos (completedBy_of active completes)

/-! ### Confirmation (R85, R116, R117) -/

theorem Says.confirmedNotice (h : Says n s t) (k : SlotIx) : Says (n + 1) s (t.confirmedNotice k) :=
  (h.silent (u := t.markDirty (.slotStatus k)) ⟨rfl, rfl⟩ rfl).notify _ _

theorem tells_confirmedNotice (h : Says n s t) (k : SlotIx) :
    s.tells (t.confirmedNotice k) n .confirmed [pack4 (k.val + 1) (t.slot k).revision.toNat 0 0] :=
  (h.silent (u := t.markDirty (.slotStatus k)) ⟨rfl, rfl⟩ rfl).tells _ _

theorem slot_confirmedNotice (k i : SlotIx) : (t.confirmedNotice k).slot i = t.slot i := slot_notify _ _ _ i

theorem scrub_confirmedNotice (k : SlotIx) (y : ScrubIx) : (t.confirmedNotice k).scrub y = t.scrub y :=
  scrub_notify _ _ y

theorem seg_confirmedNotice (k : SlotIx) (g : SegIx) : (t.confirmedNotice k).seg g = t.seg g := seg_notify _ _ _ g

/-- A slot stored as ACTIVE, confirmed, and completed by the same report. -/
theorem ends_confirmed {f : ReportFlags} (counted : Says n s t) (live : (t.scrub x).liveSlot = some j)
    (active : r.state = .active) (named : r.scrubber = some x) (completes : completesAt r p f) :
    Ends s (((t.setSlot (fleetSlot j) r).confirmedNotice (fleetSlot j)).complete x p f) x j r.route (n + 1) .completed
        (r.returned .completed 0 true)
      ∧ s.tells (((t.setSlot (fleetSlot j) r).confirmedNotice (fleetSlot j)).complete x p f) n .confirmed
        [pack4 ((fleetSlot j).val + 1) r.revision.toNat 0 0] := by
  have stored := counted.setSlot (fleetSlot j) r
  have slot : ((t.setSlot (fleetSlot j) r).confirmedNotice (fleetSlot j)).slot (fleetSlot j) = r := by
    rw [slot_confirmedNotice, slot_setSlot_same]
  have told := tells_confirmedNotice stored (fleetSlot j)
  rw [slot_setSlot_same] at told
  have ends := ends_releaseAndEnd (res := .completed) (x := x) (j := j) (stored.confirmedNotice (fleetSlot j))
    (by rw [slot, active]; rfl) (by rw [slot]; exact named)
  rw [slot] at ends
  rw [complete_active (by rw [scrub_confirmedNotice]; exact live) (by rw [slot]; exact active) (by rw [slot]; exact completes)]
  exact ⟨ends, tells_mono told (staging_releaseAndEnd_mono _)⟩

/-- The confirmation from beyond the end (R117). -/
theorem ends_confirmBeyond (counted : Says n s t) (authority : (t.slot (fleetSlot j)).state.authority = true)
    (named : (t.slot (fleetSlot j)).scrubber = some x) :
    Ends s (t.confirmBeyond (fleetSlot j) p) x j (t.slot (fleetSlot j)).route (n + 1) .completed
        { (t.slot (fleetSlot j)).returned .completed 0 true with overdue := false }
      ∧ s.tells (t.confirmBeyond (fleetSlot j) p) n .confirmed
        [pack4 ((fleetSlot j).val + 1) (t.slot (fleetSlot j)).revision.toNat 0 0]
      ∧ ((t.confirmBeyond (fleetSlot j) p).scrub x).liveSlot = none := by
  obtain ⟨pick, picked⟩ : ∃ pick : SegIx × Nat → Bool,
    pick = fun e => decide (e.2 ∈ (t.slot (fleetSlot j)).pendingSet) && !decide (e.1 ∈ p.segs) := ⟨_, rfl⟩
  have shape : t.confirmBeyond (fleetSlot j) p = ((((t.releaseWhere (fleetSlot j) pick).releaseAll
    (fleetSlot j)).clearOverdue (fleetSlot j)).confirmedNotice (fleetSlot j)).endSlot (fleetSlot j) .completed := by
      rw [picked]; rfl
  have slot₁ := slot_releaseWhere t (fleetSlot j) (fleetSlot j) pick
  have counted₁ := counted.silent (silent_releaseWhere t (fleetSlot j) pick) (outside_releaseWhere t _ _)
  rw [shape]
  generalize t.releaseWhere (fleetSlot j) pick = u at slot₁ counted₁
  have counted₂ := (counted₁.silent (silent_releaseWhere u (fleetSlot j) fun _ => true) (outside_releaseWhere u _ _)).setSlot
    (fleetSlot j) { (u.releaseAll (fleetSlot j)).slot (fleetSlot j) with overdue := false }
  have slot₂ : ((u.releaseAll (fleetSlot j)).clearOverdue (fleetSlot j)).slot (fleetSlot j)
      = { t.slot (fleetSlot j) with overdue := false } := by
    unfold State.clearOverdue
    rw [slot_setSlot_same, slot_releaseAll, slot₁]
  have free (g : SegIx) (mem : g ∈ (t.slot (fleetSlot j)).route) :
      (((u.releaseAll (fleetSlot j)).clearOverdue (fleetSlot j)).seg g).holder ≠ some (fleetSlot j) :=
    free_releaseAll (fleetSlot j) (slot₁ ▸ mem)
  have told := tells_confirmedNotice counted₂ (fleetSlot j)
  change s.tells (((u.releaseAll (fleetSlot j)).clearOverdue (fleetSlot j)).confirmedNotice (fleetSlot j)) n .confirmed
    [pack4 _ (((u.releaseAll (fleetSlot j)).clearOverdue (fleetSlot j)).slot (fleetSlot j)).revision.toNat 0 0] at told
  replace counted₂ : Says n s ((u.releaseAll (fleetSlot j)).clearOverdue (fleetSlot j)) := counted₂
  generalize (u.releaseAll (fleetSlot j)).clearOverdue (fleetSlot j) = w at *
  have slot₃ : (w.confirmedNotice (fleetSlot j)).slot (fleetSlot j) = _ := (slot_confirmedNotice _ _).trans slot₂
  have ends := ends_endSlot (res := .completed) (x := x) (j := j) (route := (t.slot (fleetSlot j)).route)
    (counted₂.confirmedNotice (fleetSlot j)) (by rw [slot₃]; exact authority) (by rw [slot₃]; exact named)
    fun g mem => by rw [seg_confirmedNotice]; exact free g mem
  rw [slot₃] at ends
  rw [slot₂] at told
  exact ⟨ends, tells_mono told (staging_endSlot_mono _), liveSlot_endSlot (by rw [slot₃]; exact named)⟩

end Endings
end Sys2Proof.Machine
end

section
/-! PROOFS. The reports that end a slot (O35; R74, R82, R85, R98, R102, R103, R116, R117, R119). -/
namespace Sys2Proof.Machine
open Sys2Proof
set_option Elab.async false

section Slots
variable {s t : State} {x : ScrubIx} {p : Position} {j : FleetIx} {k : SlotIx} {r : Slot} {rep : Report} {f : ReportFlags}

/-! ### Where the scrubber stands on its route (R98) -/

theorem entry_of_entryAt {g : SegIx} {i : Nat} (found : r.entryAt i = some g) : (g, i) ∈ r.entries := by
  obtain ⟨e, here, rfl⟩ := Option.map_eq_some_iff.mp found
  have index : e.2 = i := by simpa using List.find?_some here
  exact index ▸ List.mem_of_find?_eq_some here

theorem entry_of_indexOf {g : SegIx} {i : Nat} (found : r.indexOf g = some i) : (g, i) ∈ r.entries := by
  obtain ⟨e, here, rfl⟩ := Option.map_eq_some_iff.mp found
  exact (entryFor_mem here).2 ▸ (entryFor_mem here).1

theorem indexOf_completes (once : r.route.Nodup) (completes : completesAt r p f) :
    r.indexOf p.current = some r.endIx := indexOf_of_entry once (entry_of_entryAt completes.1)

theorem beyondEnd_within (sent : s.sentSlot x = some k)
    (within : ∀ i, (p.current, i) ∈ (s.slot k).entries → i ≤ (s.slot k).endIx) : s.beyondEnd x p = false := by
  unfold State.beyondEnd
  rw [sent]
  dsimp only
  split
  · rfl
  · rename_i i found
    have low : ¬ (s.slot k).endIx < i := Nat.not_lt.mpr (within i (entry_of_indexOf found))
    simp [low]

theorem beyondEnd_pending {i : Nat} (sent : s.sentSlot x = some k) (shortening : (s.slot k).state = .shortening)
    (stands : (s.slot k).indexOf p.current = some i) (past : (s.slot k).endIx < i) (pending : i ∈ (s.slot k).pendingSet) :
    s.beyondEnd x p = true := by
  unfold State.beyondEnd
  rw [sent]
  dsimp only
  rw [stands]
  simp [shortening, past, pending]

/-! ### The slot field (R102) -/

theorem slotField_disclaims {beyond : Bool} (sent : s.sentSlot x = some k) (disclaims : rep.slot = 0) :
    s.slotField x p rep beyond = s.giveUp k .disclaimed := by
  unfold State.slotField
  rw [sent]
  exact if_pos disclaims

theorem slotField_active {beyond : Bool} (sent : s.sentSlot x = some k) (speaks : rep.slot ≠ 0)
    (active : (s.slot k).state = .active) : s.slotField x p rep beyond = s := by
  unfold State.slotField
  rw [sent]
  dsimp only
  rw [if_neg speaks, active]
  split <;> rfl

section Named
variable {beyond : Bool} (sent : s.sentSlot x = some k) (names : rep.slot.toNat = k.val + 1)
  (revision : rep.revision = (s.slot k).revision)
include sent names revision

theorem slotField_delivered (delivered : (s.slot k).state = .delivered) :
    s.slotField x p rep beyond = s.confirm k := by
  have speaks : rep.slot ≠ 0 := by rintro none; rw [none] at names; cases names
  unfold State.slotField
  rw [sent]
  refine (if_neg speaks).trans ((if_neg (by simp [names, revision])).trans ?_)
  simp only [delivered]

theorem slotField_shortening (shortening : (s.slot k).state = .shortening) :
    s.slotField x p rep beyond = if beyond then s.confirmBeyond k p else s.confirmShortening k := by
  have speaks : rep.slot ≠ 0 := by rintro none; rw [none] at names; cases names
  unfold State.slotField
  rw [sent]
  refine (if_neg speaks).trans ((if_neg (by simp [names, revision])).trans ?_)
  simp only [shortening]

end Named

end Slots

/-! ### The ways to end (R102, R103) -/

/-- The judged state of a report that has moved nothing of its scrubber's slot r but progress and evidence. -/
structure Walks (s u : State) (x : ScrubIx) (j : FleetIx) (r : Slot) : Prop where
  counted : Says 5 s u
  live : (u.scrub x).liveSlot = some j
  sent : u.sentSlot x = some (fleetSlot j)
  slot : ∃ i l, u.slot (fleetSlot j) = { r with progress := i, evidence := l }

section Ways
variable {s u : State} {x : ScrubIx} {p : Position} {j : FleetIx} {r : Slot} {rep : Report} {b beyond : Bool}

theorem sentSlot_judged (live : (s.scrub x).liveSlot = some j) (sent : (s.slot (fleetSlot j)).state.sent = true) :
    (s.judged x p b).sentSlot x = some (fleetSlot j) :=
  sentSlot_of ((liveSlot_judged b x).trans live) ((serves_judged live sent b).sent sent)

/-- Without a violation, and at the slot's end, a report moves progress and evidence alone. -/
theorem walks_judged (live : (s.scrub x).liveSlot = some j) (sent : (s.slot (fleetSlot j)).state.sent = true)
    (kept : s.violatedSegs x p = [] ∨ ∃ i, (s.slot (fleetSlot j)).indexOf p.current = some i
      ∧ (s.slot (fleetSlot j)).endIx ≤ i) : Walks s (s.judged x p b) x j (s.slot (fleetSlot j)) :=
  ⟨says_judged b, (liveSlot_judged b x).trans live, sentSlot_judged live sent, walked_judged live sent b kept⟩

/-- A disclaimer ends the slot whatever else the report does (R119). -/
theorem ends_disclaimed (counted : Says 5 s u) (sent : u.sentSlot x = some (fleetSlot j))
    (serves : r.Serves (u.slot (fleetSlot j))) (named : r.scrubber = some x) (disclaims : rep.slot = 0) :
    ∃ m, Ends s ((u.slotField x p rep beyond).complete x p rep.flags) x j r.route 5 .disclaimed
      { r.returned .disclaimed 0 true with overdue := false, revision := m } := by
  obtain ⟨draft, scrubber, mode, route, -⟩ := serves
  have names := scrubber.trans named
  have ends := ends_giveUp (res := .disclaimed) (x := x) counted (authority_of_sentSlot sent) names
  have gone : ((u.giveUp (fleetSlot j) .disclaimed).scrub x).liveSlot = none := by
    refine liveSlot_endSlot ?_
    unfold State.clearOverdue
    rw [slot_setSlot_same, slot_releaseAll]
    exact names
  rw [slotField_disclaims sent disclaims, complete_gone _ gone]
  rw [Slot.returned, draft, scrubber, mode, route] at ends
  exact ⟨_, ends⟩

theorem ends_active (walks : Walks s u x j r) (named : r.scrubber = some x) (active : r.state = .active)
    (speaks : rep.slot ≠ 0) (completes : completesAt r p rep.flags) :
    Ends s ((u.slotField x p rep beyond).complete x p rep.flags) x j r.route 5 .completed (r.returned .completed 0 true) := by
  obtain ⟨counted, live, sent, i, l, slot⟩ := walks
  rw [slotField_active sent speaks (by rw [slot]; exact active),
    complete_active live (by rw [slot]; exact active) (by rw [slot]; exact completes)]
  have ends := ends_releaseAndEnd (res := .completed) (x := x) (j := j) counted (authority_of_sentSlot sent)
    (by rw [slot]; exact named)
  rwa [slot] at ends

/-- A report that names slot j with its revision has confirmed it and completed it. -/
def ConfirmedEnd (s t : State) (x : ScrubIx) (j : FleetIx) (r q : Slot) : Prop :=
  Ends s t x j r.route 6 .completed q
    ∧ s.tells t 5 .confirmed [pack4 ((fleetSlot j).val + 1) r.revision.toNat 0 0]

section Named
variable (walks : Walks s u x j r) (named : r.scrubber = some x) (names : rep.slot.toNat = j.val + 1)
  (revision : rep.revision = r.revision)
include walks named names revision

theorem ends_delivered (delivered : r.state = .delivered) (completes : completesAt r p rep.flags) :
    ConfirmedEnd s ((u.slotField x p rep beyond).complete x p rep.flags) x j r (r.returned .completed 0 true) := by
  obtain ⟨counted, live, sent, i, l, slot⟩ := walks
  rw [slotField_delivered sent names (by rw [slot]; exact revision) (by rw [slot]; exact delivered)]
  unfold State.confirm
  rw [slot]
  exact ends_confirmed counted live rfl named completes

theorem ends_shortening (shortening : r.state = .shortening) (completes : completesAt r p rep.flags) :
    ConfirmedEnd s ((u.slotField x p rep false).complete x p rep.flags) x j r
      { r.returned .completed 0 true with overdue := false } := by
  obtain ⟨counted, live, sent, i, l, slot⟩ := walks
  rw [slotField_shortening sent names (by rw [slot]; exact revision) (by rw [slot]; exact shortening),
    if_neg Bool.false_ne_true]
  unfold State.confirmShortening
  dsimp only
  rw [slot_releaseWhere, slot]
  refine ends_confirmed (counted.silent (silent_releaseWhere u _ _) (outside_releaseWhere u _ _)) ?_ rfl named completes
  rw [scrub_releaseWhere]
  exact live

theorem ends_beyond (shortening : r.state = .shortening) :
    ConfirmedEnd s ((u.slotField x p rep true).complete x p rep.flags) x j r
      { r.returned .completed 0 true with overdue := false } := by
  obtain ⟨counted, live, sent, i, l, slot⟩ := walks
  obtain ⟨ends, told, gone⟩ := ends_confirmBeyond (p := p) (x := x) counted (authority_of_sentSlot sent)
    (by rw [slot]; exact named)
  rw [slotField_shortening sent names (by rw [slot]; exact revision) (by rw [slot]; exact shortening), if_pos rfl,
    complete_gone _ gone]
  rw [slot] at ends told
  exact ⟨ends, told⟩

end Named
end Ways

/-! ### The outcomes of a report (R92) -/

section Outcomes
variable {s : State} {x : ScrubIx} {p : Position} {j : FleetIx} {rep : Report} (live : (s.scrub x).liveSlot = some j)
  (named : (s.slot (fleetSlot j)).scrubber = some x)

/-- What keeps the violation step from the scrubber's slot: no violated segment, or a place at its end. -/
def State.keepsOwn (s : State) (x : ScrubIx) (p : Position) (k : SlotIx) : Prop :=
  s.violatedSegs x p = [] ∨ ∃ i, (s.slot k).indexOf p.current = some i ∧ (s.slot k).endIx ≤ i

theorem keepsOwn_of_completes {k : SlotIx} {f : ReportFlags} (present : (s.scrub x).state ≠ .absent)
    (stays : (s.scrub x).state ≠ .withdrawn) (calm : ¬ violatingAt s x p ∨ (s.slot k).route.Nodup)
    (completes : completesAt (s.slot k) p f) : s.keepsOwn x p k :=
  calm.imp (violatedSegs_nil present stays) fun once => ⟨_, indexOf_completes once completes, Nat.le_refl _⟩

include live named

theorem ruled_disclaimed (sent : (s.slot (fleetSlot j)).state.sent = true) (disclaims : rep.slot = 0) :
    ∃ m, Ends s (s.ruled x p rep) x j (s.slot (fleetSlot j)).route 5 .disclaimed
      { (s.slot (fleetSlot j)).returned .disclaimed 0 true with overdue := false, revision := m } :=
  ends_disclaimed (says_judged _) (sentSlot_judged live sent) (serves_judged live sent _) named disclaims

theorem ruled_active (active : (s.slot (fleetSlot j)).state = .active) (speaks : rep.slot ≠ 0)
    (kept : s.keepsOwn x p (fleetSlot j)) (completes : completesAt (s.slot (fleetSlot j)) p rep.flags) :
    Ends s (s.ruled x p rep) x j (s.slot (fleetSlot j)).route 5 .completed
      ((s.slot (fleetSlot j)).returned .completed 0 true) :=
  ends_active (walks_judged live (by rw [active]; rfl) kept) named active speaks completes

variable (names : rep.slot.toNat = j.val + 1) (revision : rep.revision = (s.slot (fleetSlot j)).revision)
  (kept : s.keepsOwn x p (fleetSlot j))
include names revision kept

theorem ruled_delivered (delivered : (s.slot (fleetSlot j)).state = .delivered)
    (completes : completesAt (s.slot (fleetSlot j)) p rep.flags) : ConfirmedEnd s (s.ruled x p rep) x j
      (s.slot (fleetSlot j)) ((s.slot (fleetSlot j)).returned .completed 0 true) :=
  ends_delivered (walks_judged live (by rw [delivered]; rfl) kept) named names revision delivered completes

/-- Of a SHORTENING slot the placed state is judged, so the slot is as it was before the report. -/
theorem ruled_shortening (shortening : (s.slot (fleetSlot j)).state = .shortening)
    (ends : (∀ i, (p.current, i) ∈ (s.slot (fleetSlot j)).entries → i ≤ (s.slot (fleetSlot j)).endIx)
        ∧ completesAt (s.slot (fleetSlot j)) p rep.flags
      ∨ ∃ i, (s.slot (fleetSlot j)).indexOf p.current = some i ∧ (s.slot (fleetSlot j)).endIx < i
        ∧ i ∈ (s.slot (fleetSlot j)).pendingSet) : ConfirmedEnd s (s.ruled x p rep) x j
      (s.slot (fleetSlot j)) { (s.slot (fleetSlot j)).returned .completed 0 true with overdue := false } := by
  have sent : (s.slot (fleetSlot j)).state.sent = true := by rw [shortening]; rfl
  have walks := walks_judged (b := rep.flags.scrubbing) live sent kept
  have same := slot_placed (s := s) (x := x) (p := p) (fleetSlot j)
  have onPlaced : (s.placed x p).sentSlot x = some (fleetSlot j) :=
    sentSlot_of ((liveSlot_placed x).trans live) (by rw [same]; exact sent)
  unfold State.ruled
  obtain ⟨within, completes⟩ | ⟨i, stands, past, pending⟩ := ends
  · rw [beyondEnd_within onPlaced (by rw [same]; exact within)]
    exact ends_shortening walks named names revision shortening completes
  · rw [beyondEnd_pending onPlaced (by rw [same]; exact shortening) (by rw [same]; exact stands) (by rw [same]; exact past)
      (by rw [same]; exact pending)]
    exact ends_beyond walks named names revision shortening

end Outcomes

/-! ### The row -/

/-- The rest of a report's event after its step 9, and the report's turn at the port (R33, R39, R104, R176). -/
def State.reportClosed (x : ScrubIx) (rep : Report) (ready : Bool) (c : CellIx) (v : Word) (u : State) : State :=
  (((u.storeReport x rep).settle.judgeService.atTurn ready).storeWatched (cellAddr c 3) v).arbitrate

theorem exec_report {s : State} {x : ScrubIx} {p : Position} (modes : s.mode = .recovery ∨ s.mode = .service) (c : CellIx)
    (v : Word) (valid : s.validReport (reportOf (s.cell c) v) = some (x, p)) (stays : (s.scrub x).state ≠ .withdrawn) :
    exec (.report c v) s = .next (((s.setCell c {}).clearFreeing.ruled x p (reportOf (s.cell c) v)).reportClosed x
      (reportOf (s.cell c) v) s.portReady c v) := by
  have event : s.watchedCopy (.cell c 3) v
      = ((s.setCell c {}).clearFreeing.processReport x p (reportOf (s.cell c) v)).settle.judgeService := by
    have known : (s.setCell c {}).validReport (reportOf (s.cell c) v) = some (x, p) := valid
    have here : ((s.setCell c {}).scrub x).state ≠ .withdrawn := stays
    change s.reportEvent c v = _
    unfold State.reportEvent
    simp only [known, here, if_false]
    rfl
  unfold State.reportClosed
  rw [← processReport_eq, ← event]
  exact congrArg Host.Outcome.next (busAccess_cell s c 3 v (running_of_modes modes))

section Closing
variable {s u : State} {x y : ScrubIx} {j : FleetIx} {r q : Slot} {rep : Report} {ready : Bool} {c : CellIx} {v : Word}

theorem aftermath_reportClosed (idle : (u.slot (fleetSlot j)).state = .idle) :
    Aftermath x j u (u.reportClosed y rep ready c v) := by
  have stored : Aftermath x j u (u.storeReport y rep) := aftermath_storeReport u y rep
  have rests : ((u.storeReport y rep).slot (fleetSlot j)).state = .idle := by rw [stored.slot, idle]
  exact (stored.trans ((aftermath_settle rests).trans (aftermath_judgeService _))).trans (aftermath_port _ ready _ v)

theorem Ends.closed {route : List SegIx} {n : Nat} {res : Result} (ends : Ends s u x j route n res q)
    (idle : q.state = .idle) : Ends s (u.reportClosed y rep ready c v) x j route n res q :=
  ends.after (aftermath_reportClosed (by rw [ends.slot, idle]))

theorem ConfirmedEnd.closed (h : ConfirmedEnd s u x j r q) (idle : q.state = .idle) :
    ConfirmedEnd s (u.reportClosed y rep ready c v) x j r q := by
  obtain ⟨ends, told⟩ := h
  have after : Aftermath x j u (u.reportClosed y rep ready c v) := aftermath_reportClosed (by rw [ends.slot, idle])
  exact ⟨ends.after after, tells_mono told after.told⟩

/-- The emptied cell and the note of a freeing change count for no notice. -/
theorem tells_emptied {n : Nat} {kind : NoticeKind} {l : List Word} (told : (s.setCell c {}).clearFreeing.tells u n kind l) :
    s.tells u n kind l := told

end Closing

/-- Settles O35. -/
theorem reportEndsSlots : Obligations.ReportEndsSlots := by
  intro s c v x p j k r modes valid stays live own record named
  subst own record
  obtain ⟨-, present, -⟩ := (validReport_iff s _ x p).mp valid
  have kept := keepsOwn_of_completes (s := (s.setCell c {}).clearFreeing) (x := x) (p := p) (k := fleetSlot j)
    (f := reportFlagsOf v) present stays
  refine ⟨_, exec_report modes c v valid stays, fun disclaims sent => ?_, fun active speaks calm completes => ?_,
    fun names revision calm => ⟨fun delivered completes => ?_, fun shortening within completes => ?_,
      fun shortening once ⟨e, entry, here, past, pending⟩ => ?_⟩⟩
  · obtain ⟨m, ends⟩ := ruled_disclaimed (s := (s.setCell c {}).clearFreeing) (p := p)
      (rep := reportOf (s.cell c) v) live named sent disclaims
    obtain ⟨slot, free, away, ended⟩ := ends.closed rfl
    refine ⟨?_, free, away, ?_⟩
    · rw [slot]; rfl
    · rw [slot]; exact tells_emptied ended
  · have ends := ruled_active (s := (s.setCell c {}).clearFreeing) (p := p) (rep := reportOf (s.cell c) v) live named active
      speaks (kept calm completes) completes
    obtain ⟨slot, free, away, ended⟩ := ends.closed rfl
    exact ⟨slot, free, away, tells_emptied ended⟩
  · have ends := ruled_delivered (s := (s.setCell c {}).clearFreeing) (p := p) (rep := reportOf (s.cell c) v) live named names
      revision (kept calm completes) delivered completes
    obtain ⟨⟨slot, free, away, ended⟩, confirmed⟩ := ends.closed rfl
    exact ⟨slot, free, away, tells_emptied confirmed, tells_emptied ended⟩
  · have ends := ruled_shortening (s := (s.setCell c {}).clearFreeing) (p := p) (rep := reportOf (s.cell c) v) live named names
      revision (kept calm completes) shortening (.inl ⟨within, completes⟩)
    obtain ⟨⟨slot, free, away, ended⟩, confirmed⟩ := ends.closed rfl
    exact ⟨slot, free, away, tells_emptied confirmed, tells_emptied ended⟩
  · have stands := indexOf_of_entry once (here ▸ entry : (p.current, e.2) ∈ (s.slot (fleetSlot j)).entries)
    have ends := ruled_shortening (s := (s.setCell c {}).clearFreeing) (p := p) (rep := reportOf (s.cell c) v) live named names
      revision (.inr ⟨e.2, stands, Nat.le_of_lt past⟩) shortening (.inr ⟨e.2, stands, past, pending⟩)
    obtain ⟨⟨slot, free, away, ended⟩, confirmed⟩ := ends.closed rfl
    exact ⟨slot, free, away, tells_emptied confirmed, tells_emptied ended⟩

end Sys2Proof.Machine
end
